-- ==== Sys2Proof/Word.lean ====
section
/-! DEFINITION. The word types of the engine set and its sparse table, the one container that every register array,
store and memory of the state uses (R7: bit 0 is the least significant bit, bytes in little-endian order). -/

namespace Sys2Proof

/-- One byte. -/
abbrev Byte := BitVec 8
/-- A 32-bit word: an instruction word, or the bits of a binary32 value. -/
abbrev Half := BitVec 32
/-- A 64-bit word: a scalar register, a configuration register, a descriptor word. -/
abbrev Word := BitVec 64

/-- A sparse table from numbers to values. Keys rise strictly and no entry holds the table's default value `d`, so
that equal tables are equal lists; `d` is what an unlisted key reads as and is named by every operation. -/
abbrev Tab (α : Type) := List (Nat × α)

/-- The value at a key: the default where the key is not listed. -/
def Tab.get {α : Type} (d : α) : Tab α → Nat → α
  | [], _ => d
  | (k', v) :: t, k => if k' = k then v else Tab.get d t k

/-- Remove a key. -/
def Tab.drop {α : Type} : Tab α → Nat → Tab α
  | [], _ => []
  | (k', v) :: t, k => if k' = k then Tab.drop t k else (k', v) :: Tab.drop t k

/-- Put a listed value at its place in key order. -/
def Tab.put {α : Type} : Tab α → Nat → α → Tab α
  | [], k, v => [(k, v)]
  | (k', v') :: t, k, v =>
    if k < k' then (k, v) :: (k', v') :: t
    else if k = k' then (k, v) :: t
    else (k', v') :: Tab.put t k v

/-- Write a value at a key, in canonical form: writing the default removes the entry. -/
def Tab.set {α : Type} [DecidableEq α] (d : α) (t : Tab α) (k : Nat) (v : α) : Tab α :=
  if v = d then Tab.drop t k else Tab.put t k v

/-- The canonical form: keys strictly rising, no entry equal to the default. -/
def Tab.wf {α : Type} [DecidableEq α] (d : α) : Tab α → Bool
  | [] => true
  | (_, v) :: [] => decide (v ≠ d)
  | (k, v) :: (k', v') :: t => decide (k < k') && decide (v ≠ d) && Tab.wf d ((k', v') :: t)

end Sys2Proof
end

