-- ==== Sys2Proof/Syntax.lean ====
section
/-! DEFINITION. The commands of the engine set: one constructor of `Instr` per row of the opcode table, with the row's
operands. A thread instruction carries the thread that issues it and the fields of its words, reserved fields included
(R193, R209, R210), so that a non-zero reserved field can be said. An event carries what the spec gives the event: a
context, a slot, a packet, a register value. A span instruction already in its unit is named by the number `u` that the
crossing gave it. -/

namespace Sys2Proof

/-- A hardware thread: core 0 to 3 and thread 0 to 15 (R181). -/
structure ThreadId where
  core : Fin 4
  num : Fin 16
  deriving DecidableEq, Repr

/-- The three parts that have a register space, pins and a test port (R448, R423). -/
inductive Part where
  | span | pier | abut
  deriving DecidableEq, Repr

/-- A Kilile link port: a router port of the Abutment (R329), or an end of the span's own links (R471). -/
inductive LinkId where
  | abut (p : Fin 16)
  | spanAbut
  | spanPier
  | pierSpan
  deriving DecidableEq, Repr

/-- A Kilile packet: the header of R320, field by field, and its payload bytes in memory order. -/
structure Packet where
  typ : BitVec 8
  dest : BitVec 24
  src : BitVec 24
  cls : BitVec 2
  retry : Bool
  rsv0 : BitVec 5
  len : BitVec 14
  ttl : BitVec 6
  rsv1 : BitVec 12
  tag : BitVec 16
  aux : BitVec 16
  payload : List Byte
  deriving DecidableEq, Repr

/-- A flit as it arrives: data bytes 0 to 503 and the 64-bit control word of R316. -/
structure Flit where
  data : List Byte
  ctrl : Word
  deriving DecidableEq, Repr

/-- An Ethernet frame as it arrives (R346): the fields before the flits, the flits, whether the FCS is good, and
whether it is a MAC control frame (R347). -/
structure EthFrame where
  dst : BitVec 48
  src : BitVec 48
  vlan : Option (BitVec 16)
  etype : BitVec 16
  encap : Word
  flits : List Flit
  fcsOk : Bool
  control : Bool
  deriving DecidableEq, Repr

/-- What a module's training ends with (R343, R344): whether it trained, its rate code, and its lanes. -/
structure TrainResult where
  ok : Bool
  rate : BitVec 2
  reversed : Bool
  failed : BitVec 8
  repaired : BitVec 8
  wrong : Bool := false
  deriving DecidableEq, Repr

/-- An update command as it reaches a Pier (R277): its 64 bytes as eight words, and what the span attached. -/
structure UpdCmd where
  words : Vector Word 8
  lease : BitVec 4
  domain : BitVec 16
  legacy : Bool
  src : BitVec 24
  tag : BitVec 16
  deriving DecidableEq, Repr

/-- A read burst of a span stream as it reaches a Pier (R179): address, bytes, domain, the stream's REPEAT bit and the
issuing lease. -/
structure ReadBurst where
  addr : BitVec 48
  len : Nat
  domain : BitVec 16
  rep : Bool
  lease : BitVec 4
  deriving DecidableEq, Repr

/-- The occurrence that a performance counter's wrap is due to (R392): the lease it is attributed to, the thread, the
PC and first instruction word, and the issue sequence. -/
structure SampleSrc where
  lease : Option (Fin 16)
  thread : Option ThreadId
  pc : Word
  instr : Half
  seq : Half
  deriving DecidableEq, Repr

/-- A self-test finding (R403). -/
inductive Finding where
  | column (group : Fin 64) (col : BitVec 6)
  | spareColumn (group : Fin 64)
  | row (row : BitVec 9)
  | girderBank (b : Fin 256)
  | westBank (b : Fin 256)
  | northBank (b : Fin 64)
  | core (c : Fin 4)
  | pier
  deriving DecidableEq, Repr

/-- The commands. -/
inductive Instr where
  /-- ADDK (R194): Scalar add of a sign-extended 16-bit immediate to RA, written to RD. -/
  | addk (t : ThreadId) (rd ra : BitVec 5) (imm : BitVec 16)
  /-- ANDK (R194): Scalar AND of RA with a zero-extended immediate. -/
  | andk (t : ThreadId) (rd ra : BitVec 5) (imm : BitVec 16)
  /-- ORK (R194): Scalar OR of RA with a zero-extended immediate. -/
  | ork (t : ThreadId) (rd ra : BitVec 5) (imm : BitVec 16)
  /-- XORK (R194): Scalar XOR of RA with a zero-extended immediate. -/
  | xork (t : ThreadId) (rd ra : BitVec 5) (imm : BitVec 16)
  /-- CMPK_LT (R194): Signed compare of RA with a sign-extended immediate, giving 1 or 0. -/
  | cmpkLt (t : ThreadId) (rd ra : BitVec 5) (imm : BitVec 16)
  /-- CMPK_LTU (R194): Unsigned compare of RA with a sign-extended immediate, giving 1 or 0. -/
  | cmpkLtu (t : ThreadId) (rd ra : BitVec 5) (imm : BitVec 16)
  /-- SHLK (R194): Shift RA left by an immediate count. -/
  | shlk (t : ThreadId) (rd ra : BitVec 5) (imm : BitVec 16)
  /-- SHRK (R194): Logical shift right of RA by an immediate count. -/
  | shrk (t : ThreadId) (rd ra : BitVec 5) (imm : BitVec 16)
  /-- SARK (R194): Arithmetic shift right of RA by an immediate count. -/
  | sark (t : ThreadId) (rd ra : BitVec 5) (imm : BitVec 16)
  /-- KLANE (R194): Writes a 16-bit immediate into one 16-bit lane of RD and keeps the other lanes. -/
  | klane (t : ThreadId) (rd ra : BitVec 5) (imm : BitVec 16)
  /-- ADRW (R194): Forms a PC-relative word address in RD. -/
  | adrw (t : ThreadId) (rd ra : BitVec 5) (imm : BitVec 16)
  /-- LD_S8 (R194): Loads one byte, sign-extended, from device memory. -/
  | ldS8 (t : ThreadId) (rd ra : BitVec 5) (imm : BitVec 16)
  /-- LD_S16 (R194): Loads two bytes, sign-extended. -/
  | ldS16 (t : ThreadId) (rd ra : BitVec 5) (imm : BitVec 16)
  /-- LD_S32 (R194): Loads four bytes, sign-extended. -/
  | ldS32 (t : ThreadId) (rd ra : BitVec 5) (imm : BitVec 16)
  /-- LD_D (R194): Loads eight bytes from device memory. -/
  | ldD (t : ThreadId) (rd ra : BitVec 5) (imm : BitVec 16)
  /-- LD_U8 (R194): Loads one byte, zero-extended. -/
  | ldU8 (t : ThreadId) (rd ra : BitVec 5) (imm : BitVec 16)
  /-- LD_U16 (R194): Loads two bytes, zero-extended. -/
  | ldU16 (t : ThreadId) (rd ra : BitVec 5) (imm : BitVec 16)
  /-- LD_U32 (R194): Loads four bytes, zero-extended. -/
  | ldU32 (t : ThreadId) (rd ra : BitVec 5) (imm : BitVec 16)
  /-- ST_8 (R194): Stores the low byte of RS to device memory. -/
  | st8 (t : ThreadId) (rs ra : BitVec 5) (imm : BitVec 16)
  /-- ST_16 (R194): Stores the low two bytes of RS. -/
  | st16 (t : ThreadId) (rs ra : BitVec 5) (imm : BitVec 16)
  /-- ST_32 (R194): Stores the low four bytes of RS. -/
  | st32 (t : ThreadId) (rs ra : BitVec 5) (imm : BitVec 16)
  /-- ST_D (R194): Stores all eight bytes of RS. -/
  | stD (t : ThreadId) (rs ra : BitVec 5) (imm : BitVec 16)
  /-- BR_EQ (R194): Branches when RA equals RB. -/
  | brEq (t : ThreadId) (ra rb : BitVec 5) (off : BitVec 16)
  /-- BR_NE (R194): Branches when RA differs from RB. -/
  | brNe (t : ThreadId) (ra rb : BitVec 5) (off : BitVec 16)
  /-- BR_LT (R194): Branches when RA is below RB, signed. -/
  | brLt (t : ThreadId) (ra rb : BitVec 5) (off : BitVec 16)
  /-- BR_GE (R194): Branches when RA is at least RB, signed. -/
  | brGe (t : ThreadId) (ra rb : BitVec 5) (off : BitVec 16)
  /-- BR_LTU (R194): Branches when RA is below RB, unsigned. -/
  | brLtu (t : ThreadId) (ra rb : BitVec 5) (off : BitVec 16)
  /-- BR_GEU (R194): Branches when RA is at least RB, unsigned. -/
  | brGeu (t : ThreadId) (ra rb : BitVec 5) (off : BitVec 16)
  /-- JMP (R194): PC-relative jump without a link. -/
  | jmp (t : ThreadId) (off : BitVec 26)
  /-- JMPR (R194): Register-indirect jump, with an optional link in RD. -/
  | jmpr (t : ThreadId) (rd ra : BitVec 5) (imm : BitVec 16)
  /-- CALL (R194): PC-relative call that links in g31 and pushes the return stack. -/
  | call (t : ThreadId) (off : BitVec 26)
  /-- CALLR (R194): Register-indirect call that links in g31 and pushes the return stack. -/
  | callr (t : ThreadId) (rd ra : BitVec 5) (imm : BitVec 16)
  /-- RET (R194): Returns to g31 and pops the return stack. -/
  | ret (t : ThreadId) (rd ra : BitVec 5) (imm : BitVec 16)
  /-- ADD (R195): ALU addition RA + RB. -/
  | add (t : ThreadId) (rd ra rb rsv : BitVec 5)
  /-- SUB (R195): ALU subtraction RA − RB. -/
  | sub (t : ThreadId) (rd ra rb rsv : BitVec 5)
  /-- AND (R195): ALU bitwise AND. -/
  | and (t : ThreadId) (rd ra rb rsv : BitVec 5)
  /-- OR (R195): ALU bitwise OR. -/
  | or (t : ThreadId) (rd ra rb rsv : BitVec 5)
  /-- XOR (R195): ALU bitwise XOR. -/
  | xor (t : ThreadId) (rd ra rb rsv : BitVec 5)
  /-- SHL (R195): ALU shift left by RB[5:0]. -/
  | shl (t : ThreadId) (rd ra rb rsv : BitVec 5)
  /-- SHR (R195): ALU logical shift right by RB[5:0]. -/
  | shr (t : ThreadId) (rd ra rb rsv : BitVec 5)
  /-- SAR (R195): ALU arithmetic shift right by RB[5:0]. -/
  | sar (t : ThreadId) (rd ra rb rsv : BitVec 5)
  /-- CMP_LT (R195): Signed compare of two registers, giving 1 or 0. -/
  | cmpLt (t : ThreadId) (rd ra rb rsv : BitVec 5)
  /-- CMP_LTU (R195): Unsigned compare of two registers, giving 1 or 0. -/
  | cmpLtu (t : ThreadId) (rd ra rb rsv : BitVec 5)
  /-- MUL_LO (R195): Low 64 bits of the product of two registers. -/
  | mulLo (t : ThreadId) (rd ra rb rsv : BitVec 5)
  /-- MUL_HS (R195): High 64 bits of the signed 128-bit product. -/
  | mulHs (t : ThreadId) (rd ra rb rsv : BitVec 5)
  /-- MUL_HU (R195): High 64 bits of the unsigned 128-bit product. -/
  | mulHu (t : ThreadId) (rd ra rb rsv : BitVec 5)
  /-- MIN (R195): Signed minimum of two registers. -/
  | min (t : ThreadId) (rd ra rb rsv : BitVec 5)
  /-- MAX (R195): Signed maximum of two registers. -/
  | max (t : ThreadId) (rd ra rb rsv : BitVec 5)
  /-- MINU (R195): Unsigned minimum of two registers. -/
  | minu (t : ThreadId) (rd ra rb rsv : BitVec 5)
  /-- MAXU (R195): Unsigned maximum of two registers. -/
  | maxu (t : ThreadId) (rd ra rb rsv : BitVec 5)
  /-- POPC (R195): Counts the 1 bits of RA. -/
  | popc (t : ThreadId) (rd ra rb rsv : BitVec 5)
  /-- CLZ (R195): Counts the leading zeros of RA. -/
  | clz (t : ThreadId) (rd ra rb rsv : BitVec 5)
  /-- CTZ (R195): Counts the trailing zeros of RA. -/
  | ctz (t : ThreadId) (rd ra rb rsv : BitVec 5)
  /-- FENCE (R191): The thread waits until every earlier load has returned and every earlier store is acknowledged. -/
  | fence (t : ThreadId) (rd ra : BitVec 5) (imm8 : BitVec 8)
  /-- YIELD (R196): The thread waits in YIELD for 16 KCLK cycles. -/
  | yield (t : ThreadId) (rd ra : BitVec 5) (imm8 : BitVec 8)
  /-- EXIT (R196): The thread waits for its stores to be acknowledged and then becomes FREE. -/
  | exit (t : ThreadId) (rd ra : BitVec 5) (imm8 : BitVec 8)
  /-- TRAP (R196): Reports cause TRAP and, with IMM8[7] set, halts the thread. -/
  | trap (t : ThreadId) (rd ra : BitVec 5) (imm8 : BitVec 8)
  /-- SRR (R197): Reads a status register into RD, with a privilege check for performance counters. -/
  | srr (t : ThreadId) (rd ra : BitVec 5) (imm8 : BitVec 8)
  /-- BEATW (R196): The thread waits until the beat count reaches RA. -/
  | beatw (t : ThreadId) (rd ra : BitVec 5) (imm8 : BitVec 8)
  /-- PASS_FWD (R130): Issues a forward-recompute pass Y = X·W into an accumulation slot. -/
  | passFwd (t : ThreadId) (len : BitVec 2) (f : BitVec 20)
  /-- PASS_DX (R130): Issues a dX = dY·Wᵀ pass. -/
  | passDx (t : ThreadId) (len : BitVec 2) (f : BitVec 20)
  /-- PASS_DW (R130): Issues a dW = Xᵀ·dY pass. -/
  | passDw (t : ThreadId) (len : BitVec 2) (f : BitVec 20)
  /-- PASS_PAIR (R132): Issues a dX tile and a dW tile that alternate in one wavefront. -/
  | passPair (t : ThreadId) (len : BitVec 2) (f : BitVec 20) (w1 : BitVec 32)
  /-- SLOT_OPEN (R225): Requests an accumulation slot with the given geometry, KSUM and COL_BASE. -/
  | slotOpen (t : ThreadId) (len : BitVec 2) (f : BitVec 20) (w1 : BitVec 32)
  /-- SLOT_CLOSE (R226): Releases a slot's segments into the scrub queue, or frees a SPILLED index. -/
  | slotClose (t : ThreadId) (len : BitVec 2) (f : BitVec 20)
  /-- SLOT_SPILL (R226): Requests a copy of a slot to the lease's spill area. -/
  | slotSpill (t : ThreadId) (len : BitVec 2) (f : BitVec 20) (w1 : BitVec 32)
  /-- SLOT_FILL (R226): Requests that a spilled slot image be copied back. -/
  | slotFill (t : ThreadId) (len : BitVec 2) (f : BitVec 20) (w1 : BitVec 32)
  /-- SLOT_STAT (R227): Reads SLOTSTAT of a slot into RD at the crossing. -/
  | slotStat (t : ThreadId) (len : BitVec 2) (f : BitVec 20)
  /-- DRAIN (R229): Issues a drain of one or more slots through the epilogue to a store or stream. -/
  | drain (t : ThreadId) (len : BitVec 2) (f : BitVec 20)
  /-- STREAM_ARM (R149): Binds a stream context to a descriptor and starts it running. -/
  | streamArm (t : ThreadId) (len : BitVec 2) (f : BitVec 20)
  /-- STREAM_REARM (R172): Shifts a stream's bases and extent by a displacement D, pending or at once. -/
  | streamRearm (t : ThreadId) (len : BitVec 2) (f : BitVec 20)
  /-- STREAM_REARM_ROWS (R233): Rearms a stream with a displacement and a new ROWS. -/
  | streamRearmRows (t : ThreadId) (len : BitVec 2) (f : BitVec 20)
  /-- STREAM_RESUME (R167): Retries the faulting burst of a HALTED context, or resumes a QUIESCED one. -/
  | streamResume (t : ThreadId) (len : BitVec 2) (f : BitVec 20)
  /-- STREAM_QUIESCE (R171): Stops a running stream at a transfer boundary. -/
  | streamQuiesce (t : ThreadId) (len : BitVec 2) (f : BitVec 20)
  /-- ROWSET_COMMIT (R235): Issues a commit of a list of joins and leaves to the lease's row set. -/
  | rowsetCommit (t : ThreadId) (len : BitVec 2) (f : BitVec 20) (w1 : BitVec 32)
  /-- ROT_LOAD_MATRIX (R236): Issues the load of a 32 × 32 rotation matrix and the computation of its inverse. -/
  | rotLoadMatrix (t : ThreadId) (len : BitVec 2) (f : BitVec 20) (w1 : BitVec 32)
  /-- ROT_LOAD_SMOOTH (R237): Issues the load of smoothing factors and their reciprocals. -/
  | rotLoadSmooth (t : ThreadId) (len : BitVec 2) (f : BitVec 20) (w1 : BitVec 32)
  /-- SCALE_UPDATE (R238): Issues an update of a tensor's scale-history record from a gathering register. -/
  | scaleUpdate (t : ThreadId) (len : BitVec 2) (f : BitVec 20) (w1 : BitVec 32)
  /-- VEC_ADD (R239): Spandrel element-wise A + B. -/
  | vecAdd (t : ThreadId) (len : BitVec 2) (f : BitVec 20) (w1 : BitVec 32)
  /-- VEC_MUL (R239): Spandrel element-wise A × B. -/
  | vecMul (t : ThreadId) (len : BitVec 2) (f : BitVec 20) (w1 : BitVec 32)
  /-- VEC_FMA (R239): Spandrel fused A × B + C. -/
  | vecFma (t : ThreadId) (len : BitVec 2) (f : BitVec 20) (w1 : BitVec 32)
  /-- VEC_AXPB (R239): Spandrel fused A × S + T. -/
  | vecAxpb (t : ThreadId) (len : BitVec 2) (f : BitVec 20) (w1 : BitVec 32)
  /-- VEC_RSUM (R240): Spandrel compensated row sums. -/
  | vecRsum (t : ThreadId) (len : BitVec 2) (f : BitVec 20) (w1 : BitVec 32)
  /-- VEC_CSUM (R240): Spandrel compensated column sums. -/
  | vecCsum (t : ThreadId) (len : BitVec 2) (f : BitVec 20) (w1 : BitVec 32)
  /-- VEC_RSSQ (R240): Spandrel compensated row sums of squares. -/
  | vecRssq (t : ThreadId) (len : BitVec 2) (f : BitVec 20) (w1 : BitVec 32)
  /-- VEC_RSQRT (R239): Spandrel reciprocal square root. -/
  | vecRsqrt (t : ThreadId) (len : BitVec 2) (f : BitVec 20) (w1 : BitVec 32)
  /-- VEC_ARGMAX (R239): Per row, combines maximum winner records under R126. -/
  | vecArgmax (t : ThreadId) (len : BitVec 2) (f : BitVec 20) (w1 : BitVec 32)
  /-- VEC_ARGMIN (R239): Per row, combines minimum winner records under R126. -/
  | vecArgmin (t : ThreadId) (len : BitVec 2) (f : BitVec 20) (w1 : BitVec 32)
  /-- CHAIN_SEND (R293): Issues hop 0 of a reduction chain from the hop's own slot tile. -/
  | chainSend (t : ThreadId) (len : BitVec 2) (f : BitVec 20) (w1 w2 : BitVec 32)
  /-- CHAIN_RECV (R293): Issues a later hop that adds its own term to the upstream tile and passes the sum on. -/
  | chainRecv (t : ThreadId) (len : BitVec 2) (f : BitVec 20) (w1 w2 : BitVec 32)
  /-- MC_SEND (R338): Sends a buffer to a multicast group, numbered with the next MSEQ. -/
  | mcSend (t : ThreadId) (len : BitVec 2) (f : BitVec 20) (w1 : BitVec 32)
  /-- UPD_ISSUE (R243): Sends a 64-byte update command to a Pier, with the lease's number, domain and LEGACY bit attached. -/
  | updIssue (t : ThreadId) (len : BitVec 2) (f : BitVec 20) (w1 : BitVec 32)
  /-- CNT_SIG (R245): Adds an amount to a counter's produced half. -/
  | cntSig (t : ThreadId) (len : BitVec 2) (f : BitVec 20)
  /-- CNT_TAKE (R253): Adds an amount to a counter's consumed half without waiting. -/
  | cntTake (t : ThreadId) (len : BitVec 2) (f : BitVec 20)
  /-- CNT_WAIT (R245): The thread waits until the counter's availability reaches the amount. -/
  | cntWait (t : ThreadId) (len : BitVec 2) (f : BitVec 20)
  /-- CNT_WTAKE (R245): The thread waits for the availability, then takes the amount. -/
  | cntWtake (t : ThreadId) (len : BitVec 2) (f : BitVec 20)
  /-- CNT_RDP (R245): Reads a counter's produced half into RD. -/
  | cntRdp (t : ThreadId) (len : BitVec 2) (f : BitVec 20)
  /-- CNT_RDC (R245): Reads a counter's consumed half into RD. -/
  | cntRdc (t : ThreadId) (len : BitVec 2) (f : BitVec 20)
  /-- CNT_CAP (R250): Sets a counter's capacity, refused with check 8 in the cases of R250. -/
  | cntCap (t : ThreadId) (len : BitVec 2) (f : BitVec 20)
  /-- INSTRUCTION_CROSSING (R199): An issued span instruction wins arbitration, is checked against the lease, takes its issue sequence and enters its queue. -/
  | instructionCrossing
  /-- QUEUE_ENTRY_FREE (R198): A queue entry frees, and a thread waiting in QUEUE issues its instruction again. -/
  | queueEntryFree (t : ThreadId)
  /-- COUNTER_WAIT_END (R252): A counter's availability reaches a waiter's amount, ending the wait (with its take for CNT_WTAKE). -/
  | counterWaitEnd (n : Fin 192)
  /-- YIELD_END (R184): 16 KCLK cycles after a YIELD, the thread becomes READY. -/
  | yieldEnd (t : ThreadId)
  /-- LOAD_RETURN (R190): A scalar load's data returns into its register, ending any LOAD wait. -/
  | loadReturn (t : ThreadId)
  /-- STORE_ACK (R191): A scalar store is acknowledged, ending STORE, FENCE or EXIT waits and completing a KILL. -/
  | storeAck (t : ThreadId)
  /-- ICACHE_LINE_ARRIVE (R189): An instruction-cache line arrives and ends a FETCH wait. -/
  | icacheLineArrive (t : ThreadId)
  /-- TASK_PLACEMENT (R357): A candidate task is placed on the first FREE thread, taking AMOUNT from its start counter. -/
  | taskPlacement
  /-- DESCRIPTOR_ARRIVE (R216): A pass or drain descriptor arrives in the descriptor cache and runs its static checks. -/
  | descriptorArrive (u : Nat)
  /-- PASS_START (R220): A pass or pair begins its array-busy time once the array, its slot and its descriptor are ready. -/
  | passStart (u : Nat)
  /-- ELEMENT_PERIOD (R78): At each element period the edges send a data period or a bubble to the array. -/
  | elementPeriod (dry back : Bool)
  /-- INTERVAL_END (R67): A cell ends an interval, exchanges partial registers and hands its partial record to its adder. -/
  | intervalEnd (d : Fin 319) (errs : List (Nat × Nat))
  /-- PASS_RESUME (R94): A stopped pass resumes from ARRAY_POS with suppressed recompute of committed intervals. -/
  | passResume (l : Fin 16)
  /-- PASS_COMPLETE (R220): The last promotion into the slot ends; the pass writes status and signals DONE_CNT. -/
  | passComplete
  /-- PAIR_HALF_COMPLETE (R131): A pair's access to one tile's slot ends and it signals that tile's counter. -/
  | pairHalfComplete (dw : Bool)
  /-- ARRAY_RAMP_DOWN (R82): At the 65th idle cycle the array ramps its column groups off. -/
  | arrayRampDown
  /-- PASS_ABANDON (R168): A starved pass exceeding STALL_LIMIT beats is stopped and releases the array. -/
  | passAbandon
  /-- SLOT_OPEN_START (R108): SLOT_OPEN takes free scrubbed segments once enough exist within quota. -/
  | slotOpenStart (u : Nat)
  /-- SLOT_CLOSE_START (R228): SLOT_CLOSE releases the slot once earlier operations on it have completed. -/
  | slotCloseStart (u : Nat)
  /-- GIRDER_MOVER_START (R228): A spill or fill starts on the Girder mover once it is free. -/
  | girderMoverStart (x : Fin 32)
  /-- MOVER_RESUME (R120): A halted spill or fill resumes from its saved position. -/
  | moverResume
  /-- SPILL_COMPLETE (R118): The last write of a spill is acknowledged and the slot becomes SPILLED. -/
  | spillComplete
  /-- FILL_COMPLETE (R118): A fill restores every entry and leaves the slot OPEN. -/
  | fillComplete
  /-- SCRUB_SEGMENT_DONE (R111): The scrubber finishes zero-filling a segment, which becomes allocatable. -/
  | scrubSegmentDone
  /-- DRAIN_START (R232): A DRAIN starts reading its slots through the epilogue once the drain path and its inputs are ready. -/
  | drainStart (u : Nat)
  /-- DRAIN_COMPLETE (R232): Every drain write is acknowledged; status is written and DONE_CNT signalled. -/
  | drainComplete
  /-- PEEK_ADDR (R466): A write starts a raw host read of one Girder entry. -/
  | peekAddr (v : BitVec 64)
  /-- PEEK_DONE (R466): The raw peek read completes into PEEK_DATA with DONE set. -/
  | peekDone
  /-- STREAM_DESC_ARRIVE (R155): A stream descriptor arrives and passes or fails the arm checks. -/
  | streamDescArrive (u : Nat)
  /-- GATE_TAKE (R158): A gated stream takes 1 from GATE_CNT once available and starts the transfer. -/
  | gateTake (x : Fin 32)
  /-- BURST_ISSUE (R161): The datapath grants a ready burst with a free credit and issues it. -/
  | burstIssue
  /-- BURST_COMPLETE (R160): A read burst lands in the store or a write burst is acknowledged, returning its credit. -/
  | burstComplete (x : Fin 32) (n : Nat) (b : Nat)
  /-- TRANSFER_SIGNAL (R156): A transfer whose writes and all earlier writes are acknowledged signals DATA_CNT in order. -/
  | transferSignal (x : Fin 32)
  /-- REARM_TAKE (R172): A pending rearm is taken in the cycle after the old extent's last burst issues. -/
  | rearmTake (x : Fin 32)
  /-- STREAM_CTL_RESUME (R464): A host write of RESUME retries a HALTED context or sets NOT_HALTED. -/
  | streamCtlResume (x : Fin 32) (v : BitVec 64)
  /-- STREAM_CONTEXT_UE (R413): An uncorrectable context word moves the context to a spare and rebuilds it. -/
  | streamContextUe (x : Fin 32)
  /-- VEC_START (R241): A VEC instruction starts on a free Spandrel once its descriptor has arrived. -/
  | vecStart (u : Nat)
  /-- VEC_COMPLETE (R241): All VEC results are acknowledged and the instruction signals. -/
  | vecComplete
  /-- ROT_LOAD_START (R236): ROT.LOAD reads its source and computes the inverse or reciprocals. -/
  | rotLoadStart (u : Nat)
  /-- ROT_LOAD_COMPLETE (R58): The slot takes its new content and identity mark, and the instruction signals. -/
  | rotLoadComplete
  /-- SCALE_UPDATE_START (R41): SCALE.UPDATE runs scale_update once earlier drains on its gathering register have gathered. -/
  | scaleUpdateStart (u : Nat)
  /-- SCALE_UPDATE_COMPLETE (R238): The record write is acknowledged and SCALE.UPDATE signals. -/
  | scaleUpdateComplete
  /-- ROWSET_COMMIT_START (R235): The commit starts once every earlier pass has ended and reads its list. -/
  | rowsetCommitStart (u : Nat)
  /-- ROWSET_COMMIT_COMPLETE (R371): Leaves and joins are applied, the table is written and the generation advances. -/
  | rowsetCommitComplete (u : Nat)
  /-- CHAIN_START (R303): A chain instruction starts once its slots, check 32 and credits allow, sending its credit grant. -/
  | chainStart (u : Nat)
  /-- CHAIN_CHUNK_SEND (R304): A hop sends a chunk once its sum is ready and it holds a downstream credit. -/
  | chainChunkSend (u : Nat)
  /-- CHAIN_CHUNK (R302): A chain chunk packet arrives and is accepted, discarded or causes a mismatch stop. -/
  | chainChunk (p : Packet)
  /-- CHAIN_CREDIT (R301): A credit packet arrives and raises the sender's downstream credit count. -/
  | chainCredit (p : Packet)
  /-- CHAIN_TIMEOUT (R305): A hop without progress for TIMEOUT_BEATS beats stops under R307. -/
  | chainTimeout (u : Nat)
  /-- UPDATE (R278): An UPDATE command reaches a Pier and is accepted or refused with check 34. -/
  | update (c : UpdCmd)
  /-- STEP_END (R279): A STEP_END command reaches a Pier and is accepted or refused. -/
  | stepEnd (c : UpdCmd)
  /-- PIER_CHUNK_STAGE (R279): A last hop's chunk is staged at the Pier under its UPD_TAG. -/
  | pierChunkStage (p : Packet)
  /-- UPDATE_BEGIN (R280): An UPDATE begins once its tile is staged and its order allows. -/
  | updateBegin (k : Nat)
  /-- UPDATE_COMPLETE (R282): All update writes are acknowledged and the Pier signals DONE_CNT. -/
  | updateComplete (k : Nat)
  /-- STEP_END_COMPLETE (R279): After earlier UPDATEs complete, STEP advances, is written and signalled. -/
  | stepEndComplete (k : Nat)
  /-- PIER_READ_BURST (R179): A span read burst at the Pier is looked up in the repeat cache and served. -/
  | pierReadBurst (b : ReadBurst)
  /-- PIER_WRITE (R180): A write reaching a Pier invalidates overlapping repeat-cache lines. -/
  | pierWrite (a : BitVec 48) (data : List (BitVec 8)) (mask : List Bool)
  /-- PIER_READ_RESPONSE (R271): A controller read response arrives, clean, corrected or uncorrectable. -/
  | pierReadResponse (lane : Fin 32) (tag : BitVec 10) (err : BitVec 2)
  /-- PIER_WRITE_ACK (R270): A controller write acknowledge arrives for a tag. -/
  | pierWriteAck (lane : Fin 32) (tag : BitVec 10)
  /-- PIER_GROUP_RELOAD (R272): A write starts the reload of a group entry and its curve. -/
  | pierGroupReload (v : BitVec 64)
  /-- GROUP_RELOAD_DONE (R274): The reload finishes its checks and takes effect or is refused with PIER_TABLE. -/
  | groupReloadDone
  /-- REPCACHE_FLUSH (R180): A write starts invalidating every repeat-cache line of a domain. -/
  | repcacheFlush (v : BitVec 64)
  /-- REPCACHE_FLUSH_DONE (R180): The flush completes and BUSY clears. -/
  | repcacheFlushDone
  /-- PIER_PCMAP (R469): A write sets the pseudo-channel mapping, ignored whole if invalid or locked. -/
  | pierPcmap (v : BitVec 64)
  /-- STACK_READY (R430): STACK_READY changes level, starting stack traffic or, on a fall, acting as fatal. -/
  | stackReady (level : Bool)
  /-- STACK_FATAL (R430): STACK_FATAL rises and causes the STACK_LOST stop. -/
  | stackFatal
  /-- STACK_NO_RESPONSE (R416): No Pier port response for 2¹⁶ PCLK causes the STACK_LOST stop. -/
  | stackNoResponse
  /-- FLIT_RECEIVE (R317): A flit arrives and is accepted or discarded with a NAK. -/
  | flitReceive (p : LinkId) (m : Nat) (fl : Flit)
  /-- MODULE_RETRAIN_DONE (R345): A retrained module rejoins striping, or stays out with FAB_DEGRADED. -/
  | moduleRetrainDone (part : Part) (m : Nat) (r : TrainResult)
  /-- KA_TX_READY_FALL (R432): KA_TX_READY falls mid-flit and the module leaves striping. -/
  | kaTxReadyFall (part : Part) (m : Nat)
  /-- FLIT_REPLAY_TIMEOUT (R317): ACK does not advance for REPLAY_TIMEOUT and the sender resends after ACK. -/
  | flitReplayTimeout (p : LinkId)
  /-- PORT_LINK_DOWN (R333): A port without good flits for 2,048 cycles goes DOWN and resends its packets with RETRY. -/
  | portLinkDown (p : LinkId)
  /-- SIGNAL_DETECT_LOSS (R434): An Ethernet lane loses its signal and takes its link DOWN. -/
  | signalDetectLoss (lane : Fin 8)
  /-- TRAINING_START (R325): A DOWN port begins physical training. -/
  | trainingStart (p : LinkId)
  /-- TRAINING_DONE (R343): Training ends in success (NEGOTIATING) or failure (DOWN). -/
  | trainingDone (p : LinkId) (ms : List (Nat × TrainResult))
  /-- TRAINING_RETRY (R325): A failed port retries training every 2²⁰ cycles. -/
  | trainingRetry (p : LinkId)
  /-- IDENT (R326): An IDENT packet arrives and the link version and features are negotiated. -/
  | ident (p : LinkId) (pk : Packet)
  /-- IDENT_RESEND (R326): Every 1,024 cycles without the partner's IDENT, it is sent again. -/
  | identResend (p : LinkId)
  /-- PORT_RETRAIN (R471): A host write of RETRAIN takes a port DOWN and restarts training. -/
  | portRetrain (p : Fin 16) (v : BitVec 64)
  /-- ROUTER_FORWARD (R330): A packet for another engine set is routed by the table, or answered UNREACHABLE. -/
  | routerForward (p : Fin 16) (pk : Packet)
  /-- DEDUP_EXPIRY (R323): A dedup entry expires 16,384 cycles after it was made. -/
  | dedupExpiry
  /-- WRITE (R321): A WRITE request arrives at its destination endpoint. -/
  | write (pk : Packet)
  /-- WRITE_ACK (R321): A WRITE_ACK response arrives. -/
  | writeAck (pk : Packet)
  /-- READ (R321): A READ request arrives, including forwarding to CXL at an Abutment. -/
  | read (pk : Packet)
  /-- READ_RESP (R321): A READ_RESP arrives with data and error status. -/
  | readResp (pk : Packet)
  /-- SIGNAL (R336): A fabric SIGNAL arrives, is checked and applied, and answered with SIGNAL_ACK. -/
  | signal (pk : Packet)
  /-- SIGNAL_ACK (R336): A SIGNAL_ACK arrives at the signal's sender. -/
  | signalAck (pk : Packet)
  /-- EVENT (R321): An EVENT report packet arrives at its destination. -/
  | event (pk : Packet)
  /-- EVENT_ACK (R321): An EVENT_ACK arrives at the report's sender. -/
  | eventAck (pk : Packet)
  /-- UPD_RESP (R321): A Pier's accept or refusal of an update command arrives at the span. -/
  | updResp (pk : Packet)
  /-- MC_DATA (R338): A multicast data packet arrives and is forwarded or written at its base plus offset. -/
  | mcData (p : Fin 16) (pk : Packet)
  /-- MC_DATA_WRITTEN (R338): A receiver's multicast write is acknowledged, it answers MC_ACK and may signal its counter. -/
  | mcDataWritten (l : Fin 16) (g : BitVec 10) (mseq off : BitVec 32)
  /-- MC_ACK (R338): A multicast acknowledgement arrives and is passed upstream once all branches answered. -/
  | mcAck (p : Fin 16) (pk : Packet)
  /-- MC_PRUNE (R339): A branch unanswered beyond its beat threshold is pruned and MISSED is sent. -/
  | mcPrune (g : BitVec 10) (p : Fin 16)
  /-- MISSED (R340): A MISSED notice arrives and is passed to the lease as FAB_MISSED. -/
  | missed (p : Fin 16) (pk : Packet)
  /-- UNREACHABLE (R322): An UNREACHABLE response arrives and faults the request's path. -/
  | unreachable (pk : Packet)
  /-- MGMT_READ (R449): A management read request is answered with register values. -/
  | mgmtRead (part : Part) (pk : Packet)
  /-- MGMT_WRITE (R449): A management write request is applied register by register and answered. -/
  | mgmtWrite (part : Part) (pk : Packet)
  /-- MGMT_RESP (R321): A management response arrives at its requester. -/
  | mgmtResp (pk : Packet)
  /-- DIRECTED (R335): A DIRECTED packet consumes one hop, or executes its enclosed management request. -/
  | directed (p : Fin 16) (pk : Packet)
  /-- ETH_FRAME (R346): An Ethernet frame arrives and yields its flits or is dropped. -/
  | ethFrame (p : Fin 16) (fr : EthFrame)
  /-- CXL_RESPONSE (R435): A CXL host-bridge response arrives for a tag. -/
  | cxlResponse (tag : BitVec 12) (completion poison : Bool)
  /-- CXL_TIMEOUT (R349): A CXL request unanswered for CXL_TIMEOUT beats is answered with an error and FAB_CXL. -/
  | cxlTimeout (tag : BitVec 12)
  /-- ETH_LINKCFG (R472): A write regroups the Ethernet lanes, ignored unless every Ethernet port is DOWN. -/
  | ethLinkcfg (v : BitVec 64)
  /-- REPORT_DEQUEUE (R205): The head report of a queue leaves as an EVENT once it has a destination. -/
  | reportDequeue (part : Part)
  /-- ENGINE_EVENT_DEST (R457): A write sets the engine-set report destination and releases waiting reports. -/
  | engineEventDest (v : BitVec 64)
  /-- LOAD (R354): LEASE_CTL LOAD starts a lease fresh or from its context area. -/
  | load (l : Fin 16)
  /-- LOAD_AFTER_SCRUB (R354): A waiting LOAD proceeds once its store windows are scrubbed. -/
  | loadAfterScrub (l : Fin 16)
  /-- SUSPEND (R354): LEASE_CTL SUSPEND saves the lease and writes every frame. -/
  | suspend (l : Fin 16)
  /-- RESUME (R354): LEASE_CTL RESUME restores a suspended lease. -/
  | resume (l : Fin 16)
  /-- UNLOAD (R355): LEASE_CTL UNLOAD requests a full save of a suspended lease to its context area. -/
  | unload (l : Fin 16)
  /-- UNLOAD_PROCEED (R355): Once no chain, spill or fill runs, UNLOAD spills slots, writes the area and frees the position. -/
  | unloadProceed (l : Fin 16)
  /-- RELEASE (R377): LEASE_CTL RELEASE stops the lease and kills its threads. -/
  | release (l : Fin 16)
  /-- RELEASE_TEARDOWN (R377): After issued bursts land, slots close, windows fill and tables clear. -/
  | releaseTeardown (l : Fin 16)
  /-- RELEASE_COMPLETE (R377): Teardown steps end and the position returns to EMPTY. -/
  | releaseComplete (l : Fin 16)
  /-- SAVE_BUFFER_WRITE (R208): A frame in the save buffer is written to the context area. -/
  | saveBufferWrite (c : Fin 4)
  /-- PARK (R361): Express pre-emption or a run-window exit parks a victim lease and stops its pass. -/
  | park (l : Fin 16) (window : Bool)
  /-- SAVE_SEQUENCE (R363): Once the array is empty, the 64-cycle save sequence runs. -/
  | saveSequence (l : Fin 16)
  /-- PARK_RESTORE (R366): A parked lease restores when no Express pass stands and a thread is free. -/
  | parkRestore (l : Fin 16)
  /-- LEASE_GENERATION (R452): A COMMIT write requests a commit of the lease shadow set. -/
  | leaseGeneration (v : BitVec 64)
  /-- LEASE_COMMIT_TAKE (R352): At the next beat the lease shadow set is checked and taken whole, or refused. -/
  | leaseCommitTake
  /-- MAP_GENERATION (R452): A COMMIT write requests a commit of the memory-map shadow set. -/
  | mapGeneration (v : BitVec 64)
  /-- MEMMAP_COMMIT_TAKE (R461): At the next beat the memory map is checked and taken, or refused. -/
  | memmapCommitTake
  /-- ROUTER_GENERATION (R452): A COMMIT write requests a commit of the router shadow set. -/
  | routerGeneration (v : BitVec 64)
  /-- ROUTER_COMMIT_TAKE (R473): At the Abutment's next beat, FAB_ADDR, routes and groups are checked and taken, or refused. -/
  | routerCommitTake
  /-- BEAT_EDGE (R378): An accepted BEAT edge advances BEAT_COUNT and runs beat-scheduled actions. -/
  | beatEdge
  /-- BEAT_LOST (R379): No edge for 4 × BEAT_NOMINAL cycles sets BEAT_FREE and sends BEAT_LOST. -/
  | beatLost
  /-- BEAT_GENERATED (R379): While free-running, a beat is generated every BEAT_NOMINAL cycles. -/
  | beatGenerated
  /-- BEAT_SIDEBAND (R428): The Pier or Abutment receives a beat message and applies it to its BEAT_COUNT copy. -/
  | beatSideband (part : Part) (low : BitVec 16)
  /-- BEAT_LOAD (R459): A write sets a value that BEAT_COUNT takes at the next accepted edge. -/
  | beatLoad (v : BitVec 64)
  /-- BEAT_NOMINAL (R459): A write sets the nominal beat period, clamped to 262–4,200. -/
  | beatNominal (v : BitVec 64)
  /-- METER_PERIOD (R459): A write sets the meter period and clears METER_LOST. -/
  | meterPeriod (v : BitVec 64)
  /-- PERF_DUMP_PERIOD (R395): A write sets the dump period and clears DUMP_LOST. -/
  | perfDumpPeriod (v : BitVec 64)
  /-- PERF_WRAP (R387): A performance counter passes 2⁶⁴ − 1, reloads, sets OVF and may send a sample. -/
  | perfWrap (n : Fin 16) (inc : Nat) (src : SampleSrc)
  /-- TEMP_READING (R396): Every 1,024 cycles the temperature sensors update and are checked. -/
  | tempReading (codes : List (Nat × BitVec 10 × Bool))
  /-- DROOP_TRIP (R397): A droop monitor trips and raises DROOP_LEVEL within 2 cycles. -/
  | droopTrip (m : Fin 16)
  /-- DROOP_HOLD_EXPIRE (R397): After DROOP_HOLD beats without a trip, DROOP_LEVEL falls by 1 each beat. -/
  | droopHoldExpire
  /-- RST_N_FALL (R401): RST_N goes low and resets the part asynchronously. -/
  | rstNFall (part : Part)
  /-- RST_N_RISE (R425): RST_N rises, straps are sampled and the part enters phase CLOCK. -/
  | rstNRise (part : Part) (straps : BitVec 10)
  /-- ENGINE_RESET (R457): A write of the key 0xF1A0 starts an engine-set reset. -/
  | engineReset (v : BitVec 64)
  /-- RESET_PHASE_END (R401): 1,024 REFCLK cycles after an ENGINE_RESET write, phase RESET ends. -/
  | resetPhaseEnd
  /-- CLOCK_PHASE_END (R402): PLLs lock and every domain leaves reset; phase FUSE starts. -/
  | clockPhaseEnd
  /-- FUSE_LOAD_DONE (R402): The fuse shadow is loaded; BIST and LINKS start and held register requests are answered. -/
  | fuseLoadDone
  /-- BIST_DONE (R403): Self-test findings are applied as repairs, or start-up fails. -/
  | bistDone (fd : List Finding)
  /-- SCRUB_DONE (R402): Start-up scrub finishes; with LINKS ended, phase ADDRESS starts. -/
  | scrubDone
  /-- RAIL_OUT_OF_TOLERANCE (R442): A rail leaves tolerance while RST_N is high and the part loses its state. -/
  | railOutOfTolerance (part : Part)
  /-- GIRDER_BANK_FAIL (R408): A Girder bank fails; its rows are poisoned and a spare replaces it. -/
  | girderBankFail (b : Fin 256)
  /-- GIRDER_SPARE_READY (R408): The Girder spare bank finishes zero-filling and promotions resume. -/
  | girderSpareReady
  /-- STORE_BANK_FAIL (R408): A store bank fails; a spare replaces it and affected leases are suspended. -/
  | storeBankFail (north : Bool) (b : Nat) (pages : List Nat)
  /-- STORE_SPARE_READY (R408): The store spare finishes zero-filling and ring slots are fetched again. -/
  | storeSpareReady (north : Bool)
  /-- STORE_WORD_UE (R408): An uncorrectable store word is handled for its ring slot or region page. -/
  | storeWordUe (north : Bool) (page : Nat)
  /-- CORE_MISMATCH (R411): A core's checker mismatch takes it out of service and displaces its frames. -/
  | coreMismatch (c : Fin 4)
  /-- STOP_DEADLINE (R417): 16,384 cycles into the stop, unacknowledged writes are abandoned and the state is STOPPED. `kept` are
  the 64-byte units, by address / 64, that then hold their old values; the others of those writes hold their new ones. -/
  | stopDeadline (kept : List Nat)
  /-- EXTEST (R420): TAP instruction EXTEST. -/
  | extest (part : Part)
  /-- IDCODE (R420): TAP instruction IDCODE. -/
  | idcode (part : Part)
  /-- SAMPLE_PRELOAD (R420): TAP instruction SAMPLE/PRELOAD. -/
  | samplePreload (part : Part)
  /-- WRAPPER (R421): TAP instruction WRAPPER; on an unlocked part enters TEST after the scrub. -/
  | wrapper (part : Part)
  /-- IJTAG (R421): TAP instruction IJTAG; on an unlocked part enters TEST after the scrub. -/
  | ijtag (part : Part)
  /-- BYPASS (R420): TAP instruction BYPASS. -/
  | bypass (part : Part)
  /-- TRST_N (R437): TRST_N resets the TAP controller only. -/
  | trstN (part : Part)
  /-- LOOPBACK_START (R468): A write of RUN = 1 starts a loop-back, or is refused. -/
  | loopbackStart (part : Part) (n : Fin 16) (v : BitVec 64)
  /-- LOOPBACK_END (R419): A write of RUN = 0 ends a loop-back and the path rejoins service. -/
  | loopbackEnd (part : Part) (n : Fin 16) (v : BitVec 64)
  /-- KS_ICACHE_INV (R189): A write starts invalidating a lease's instruction-cache lines. -/
  | ksIcacheInv (v : BitVec 64)
  /-- ICACHE_INV_DONE (R458): The instruction-cache invalidation completes and BUSY clears. -/
  | icacheInvDone
  /-- XLATE_INV (R374): A write starts invalidating every cached translation of a lease. -/
  | xlateInv (v : BitVec 64)
  /-- XLATE_INV_DONE (R374): No old translation remains and its accesses have completed; BUSY clears. -/
  | xlateInvDone
  /-- THREAD_RESUME (R206): THREAD_CTL RESUME re-executes the faulting instruction of a HALTED thread. -/
  | threadResume (t : ThreadId)
  /-- THREAD_SKIP (R206): THREAD_CTL SKIP continues a HALTED thread at the next instruction. -/
  | threadSkip (t : ThreadId)
  /-- THREAD_RESTART (R206): THREAD_CTL RESTART continues a HALTED thread at the PC written in its frame. -/
  | threadRestart (t : ThreadId)
  /-- THREAD_KILL (R206): THREAD_CTL KILL frees a thread once its stores are acknowledged. -/
  | threadKill (t : ThreadId)
  /-- THREAD_FRAME_WRITE (R462): A host write to a HALTED thread's registers or PC, or else sets REFUSED. -/
  | threadFrameWrite (t : ThreadId) (off : BitVec 9) (v : BitVec 64)
  /-- CNT_SIGNAL (R463): A host write to a counter's debug view signals it by AMOUNT. -/
  | cntSignal (n : Fin 192) (v : BitVec 64)
  /-- CNT_CFG (R463): A host write sets CAPACITY under R250 and clears OVF or CAP_REFUSED. -/
  | cntCfg (n : Fin 192) (v : BitVec 64)
  /-- CNT_PC_WRITE (R463): A host write of P or C, applied only when no lease holds the counter. -/
  | cntPcWrite (n : Fin 192) (half : Bool) (v : BitVec 64)
  /-- REGISTER_WRITE (R9): A host write to a register without behaviour of its own takes effect by its access code. -/
  | registerWrite (part : Part) (a : BitVec 32) (v : BitVec 64)
  /-- PIER_FAIL (R430): STACK_READY has not risen within 2^24 PCLK cycles of the Pier leaving reset, so PIER_FAIL is set and start-up fails under R403. -/
  | pierFail
  /-- REPEAT_CACHE_BANK_FAIL (R414): A repeat-cache bank of the Pier fails, is taken out, and its ways stop allocating. -/
  | repeatCacheBankFail (ways : List (Nat × Nat))
  /-- GIRDER_LOST (R416): A Girder control domain fails, or bond parity fails in more than one cluster row, and the engine set starts an orderly stop with reason GIRDER_LOST. -/
  | girderLost
  /-- FUSE_SHADOW_WRITE (R99): In TEST, an IEEE 1687 access writes the fuse-shadow repair registers (COLREPAIR, ROWREPAIR, ARRAY_GEOM, SPARE_BANK). -/
  | fuseShadowWrite (a : BitVec 32) (v : BitVec 64)
  /-- TEST_ZERO_FILL_DONE (R421): The 16,384-cycle zero-fill that follows the stop on entering TEST ends, and only then do the wrapper and instrument paths open. -/
  | testZeroFillDone
  deriving DecidableEq, Repr

end Sys2Proof
end

