-- ==== Sys2Proof/Config.lean ====
section
/-! DEFINITION. The free values of the model: constants without a body, so that nothing can be proved about what they are.
Each is applied to the state's counter `free` or to the operands it depends on (log entry 3). -/

namespace Sys2Proof.Config

/-- A word of the engine set's own storage that an upset strikes (R407, R412, R414, R182, R105): a thread's register, correctable or not;
one copy of a counter; a Girder entry, correctable or not; an instruction-cache line, translation or predictor entry of a core; an entry
of the span's translation cache, of the descriptor cache or of the function tables; a repeat-cache line, a staged tile or a group entry. -/
inductive Upset where
  | reg (thread r : Nat) (ue : Bool)
  | counter (n : Nat) (second : Bool)
  | entry (row word : Nat) (ue : Bool)
  | icache (core k : Nat)
  | itlb (core k : Nat)
  | dtlb (core k : Nat)
  | pred (core k : Nat)
  | xlate (k : Nat)
  | desc (k : Nat)
  | func (k : Nat)
  | line (k : Nat)
  | tile (k : Nat)
  | group (g : Nat)
  deriving DecidableEq, Repr

/-- A free upset: what strikes at a tick, if anything does. No rule says when storage fails (log entry 66). -/
opaque upset : Nat → Option Upset
/-- A free bit: whether a cached translation or the walk is used (R374), and every other open choice of two. -/
opaque freeBit : Nat → Bool
/-- A free number: which entry of a full cache gives way (R189, R192), and every other open choice among several. -/
opaque freeNat : Nat → Nat
/-- A free word: bits of data that the spec leaves open. -/
opaque freeWord : Nat → Word
/-- The predictor entry a branch address selects, taken modulo 4,096 (R187 gives the entries, not the selection). -/
opaque predIndex : Word → Nat
/-- The direction counter after an outcome (R187 gives the counter, not its update). -/
opaque predDir : BitVec 2 → Bool → BitVec 2

/-- The binary32 that the square root of −m × 2^e gives (log entry 96). -/
opaque rootNeg : Nat → Int → BitVec 32
/-- The tensor scale's exponent of an auxiliary tile, by the descriptor's two words that name it (R141 asks for the tensor
scale; no field gives it). -/
opaque auxExp : Word → Word → Int

end Sys2Proof.Config
end

