-- ==== Sys2Proof/Machine/State.lean ====
section
/-! DEFINITION. The state of one engine set: the span, its Girder die, the Pier and the Abutment, the device memory they
read and write, and the queue of commands that wait. Every field names the rule that gives it. Arrays are sparse tables
(`Tab`), whose unlisted keys read as the default named beside them. -/

namespace Sys2Proof.Machine

/-- Why a step would stop with a fault. No rule of the spec stops the block itself: every fault of the spec halts a
thread, refuses a command or starts the orderly stop of R417, and is a next state. So there is no constructor. -/
inductive Fault where
  deriving DecidableEq, Repr

/-- Why a step has no meaning. -/
inductive Refusal where
  /-- Raised by an arm of exec for a command that has no meaning yet (safe: nothing is claimed of it). -/
  | notModelled (mnemonic : String)
  deriving DecidableEq, Repr

/-! ## Pins, test access, engine control -/

/-- Pin levels (R423 to R438). -/
structure Pins where
  rstSpan : Bool := false
  rstPier : Bool := false
  rstAbut : Bool := false
  stackReady : Bool := false
  stackFatal : Bool := false
  sigDetect : BitVec 8 := 0
  thermtripN : Bool := true
  railsSpan : Bool := true
  railsPier : Bool := true
  railsAbut : Bool := true
  deriving DecidableEq, Repr

/-- Test access: the instruction register of each TAP, the data register that an IDCODE has captured, the identity register of the Girder
die's 1500 wrapper as captured, and whether wrapper and instrument paths are open (R420, R421). -/
structure TapUnit where
  irSpan : Byte := 0x01
  irPier : Byte := 0x01
  irAbut : Byte := 0x01
  drSpan : Half := 0
  drPier : Half := 0
  drAbut : Half := 0
  drGirder : Half := 0
  opened : Bool := false
  deriving DecidableEq, Repr

/-- The fuse arrays and the fuse shadow (R436, R99). Keys: `words` 2048 × part + word (span 0, Pier 1, Abutment 2). -/
structure FuseUnit where
  words : Tab Half := []
  serialSpan : Word := 0
  serialPier : Word := 0
  serialAbut : Word := 0
  jepSpan : BitVec 11 := 0
  jepPier : BitVec 11 := 0
  jepAbut : BitVec 11 := 0
  lockSpan : Bool := false
  lockPier : Bool := false
  lockAbut : Bool := false
  trim : Tab Half := []
  colRepair : Tab (BitVec 16) := []
  rowRepair : Tab (BitVec 16) := []
  activeGroups : Nat := 64
  spareBank : Tab (BitVec 16) := []
  deriving DecidableEq, Repr

/-- A management request that is being served (R450): its part, the packet that asked, whether it came DIRECTED, the accesses still to be
made by address and value, the values read so far, and its status. -/
structure MgJob where
  part : Part
  pk : Packet
  directed : Bool
  todo : List (Nat × Word)
  vals : List Word := []
  status : Nat := 0
  deriving DecidableEq, Repr

/-- Engine control, START_STATUS and ENGINE_STATE (R403, R418, R457, R458). `startDone` says that START_DONE has been formed,
`held` are register requests that wait for the fuse load (R451), `mgmt` those being served (R450), `resetAt` is the cycle of the last engine-set reset. -/
structure EngineUnit where
  straps : BitVec 10 := 0
  phase : BitVec 4 := 0
  startFail : Bool := false
  pierLinkFail : Bool := false
  abutLinkFail : Bool := false
  rowsExhausted : Bool := false
  girderSparesOut : Bool := false
  storeSparesOut : Bool := false
  pierFail : Bool := false
  coresOk : BitVec 4 := 0xF
  newRepairs : BitVec 8 := 0
  mode : BitVec 3 := 0
  stopReason : Byte := 0
  abandoned : BitVec 16 := 0
  eventDest : BitVec 24 := 0
  faultLost : Half := 0
  startDone : Bool := false
  fuseDone : Bool := false
  scrubDone : Bool := false
  linksDone : Bool := false
  held : List (Part × Packet) := []
  mgmt : List MgJob := []
  icInvBusy : Bool := false
  icInvLease : BitVec 4 := 0
  xlInvBusy : Bool := false
  xlInvLease : BitVec 4 := 0
  testFill : Bool := false
  resetAt : Nat := 0
  deriving DecidableEq, Repr

/-- A GENERATION commit register (R452); `due` says that a beat has come since the commit was requested, in cycle `reqAt`. -/
structure CommitReg where
  pending : Bool := false
  reqAt : Nat := 0
  shadowLocked : Bool := false
  refused : Bool := false
  due : Bool := false
  taken : BitVec 16 := 0
  deriving DecidableEq, Repr

/-- The beat and its registers (R378, R379, R459), and the beat messages on their way to the Pier and the Abutment (R428). `loadAt` is
the cycle in which BEAT_LOAD was written. -/
structure BeatUnit where
  count : Word := 0
  load : Word := 0
  loadPending : Bool := false
  loadAt : Nat := 0
  nominal : BitVec 13 := 1050
  freeRun : Bool := false
  lastEdge : Option Nat := none
  lastBeat : Nat := 0
  lastGen : Option Nat := none
  generated : Nat := 0
  meterPeriod : BitVec 16 := 1000
  meterLost : Byte := 0
  sent : List (Part × Word) := []
  deriving DecidableEq, Repr

/-! ## Leases -/

/-- LEASE_CTL.STATE (R353), in the code order EMPTY 0 to RELEASING 6. -/
inductive LState where
  | empty | loading | resident | parked | suspended | unloading | releasing
  deriving DecidableEq, Repr

/-- LEASE_CTL (R353). -/
structure LeaseCtl where
  st : LState := .empty
  busy : Bool := false
  refused : Bool := false
  parkWindow : Bool := false
  parkExpress : Bool := false
  deriving DecidableEq, Repr

/-- A task entry in force (R356). -/
structure Task where
  entry : Word
  args : Vector Word 4
  enable : Bool
  amount : Half
  cnt : Byte
  deriving DecidableEq, Repr

/-- A multicast binding (R360). -/
structure McBind where
  dest : Word
  replay : Word
  group : BitVec 10
  valid : Bool
  cnt : Byte
  deriving DecidableEq, Repr

/-- A sequence of a committed row set (R372). -/
structure RsEntry where
  id : Half
  start : Nat
  len : Nat
  chunk : Nat
  chunks : Nat
  deriving DecidableEq, Repr

/-- A rotation slot: 1,024 binary32 entries row-major and its identity mark (R55, R58). An empty list with the mark set
is the identity. -/
structure RotSlot where
  mat : List Half := []
  mark : Bool := true
  deriving DecidableEq, Repr

/-- The five meters of R382. -/
structure Meters where
  cell : Word := 0
  replay : Word := 0
  bytes : Word := 0
  threads : Word := 0
  segs : Word := 0
  deriving DecidableEq, Repr

/-! ## Threads -/

/-- Thread states (R183), in the code order of R207. -/
inductive TState where
  | free | ready | waiting | halted
  deriving DecidableEq, Repr

/-- WAIT_REASON (R184), in the code order from 1; `none` is 0. -/
inductive WaitReason where
  | none | counter | load | fetch | queue | fence | store | beat | yield
  deriving DecidableEq, Repr

/-- What a waiting thread does when its wait ends: a wait that ends by itself, the take of CNT.WTAKE (R252), the exit of
R196, or the store and fence waits whose instruction has been taken. -/
inductive AfterWait where
  | resume | take | leave
  deriving DecidableEq, Repr

/-- How a thread came to halt, which decides the actions R206 permits. -/
inductive HaltKind where
  | none | precise | trap | imprecise
  deriving DecidableEq, Repr

/-- An outstanding scalar load (R190): destination, width in bytes, sign extension, addresses, the value read so far,
whether it is poisoned, whether it still writes its register, whether its value is final, its PC and word, and the TAG of its READ
while that is not answered (R348). -/
structure LoadReq where
  rd : BitVec 5
  bytes : Nat
  signed : Bool
  va : Word
  pa : Nat
  val : Word
  poison : Bool
  live : Bool
  fixed : Bool
  pc : Word
  w : Half := 0
  far : Option Nat := none
  deriving DecidableEq, Repr

/-- An outstanding scalar store (R190), with the bytes that it replaced: until it is acknowledged, a reset or the end of a
stop may leave either (R401, R417). `far` is the TAG of its WRITE while that is not answered (R348), `va`, `pc` and `w` its virtual
address, its PC and its word. -/
structure StoreReq where
  pa : Nat
  bytes : Nat
  old : List Byte := []
  far : Option Nat := none
  va : Word := 0
  pc : Word := 0
  w : Half := 0
  deriving DecidableEq, Repr

/-- A hardware thread and its frame (R182, R183, R207). Registers are keyed 1 to 31; `g0` has no entry. -/
structure Thread where
  g : Tab Word := []
  pc : Word := 0
  st : TState := .free
  reason : WaitReason := .none
  arg : Word := 0
  amount : Word := 0
  after : AfterWait := .resume
  haltCause : Byte := 0
  imprecise : Bool := false
  haltKind : HaltKind := .none
  refused : Bool := false
  lease : Nat := 0
  task : Nat := 0
  inst : Nat := 0
  loads : List LoadReq := []
  stores : List StoreReq := []
  ras : List Word := []
  ue : Half := 0
  killed : Bool := false
  storeHold : Bool := false
  deriving DecidableEq, Repr

/-- A saved thread (R208): the thread's own record, where it ran, and whether its frame has reached the context area, and
its place in save order. The frames of a core that have not reached it are the contents of its save buffer. `displaced` marks one that a
core's failure took off its thread (R411). -/
structure Frame where
  thr : Thread
  home : ThreadId
  written : Bool
  pos : Nat
  displaced : Bool := false
  deriving DecidableEq, Repr

/-- An instruction-cache line (R189). -/
structure ICLine where
  lease : Nat
  line : Nat
  bytes : List Byte
  deriving DecidableEq, Repr

/-- A cached translation (R192, R374): lease, page number and the leaf found. -/
structure TlbEntry where
  lease : Nat
  vpn : Nat
  ppn : Nat
  r : Bool
  w : Bool
  x : Bool
  deriving DecidableEq, Repr

/-- A predictor entry (R187). -/
structure PredEntry where
  valid : Bool := false
  dir : BitVec 2 := 0
  target : Word := 0
  lease : Nat := 0
  deriving DecidableEq, Repr

/-! ## Span instructions -/

/-- The span instructions that cross into a unit's queue, and SLOT.STAT (R198, R209). -/
inductive SpanOp where
  | passFwd | passDx | passDw | passPair
  | slotOpen | slotClose | slotSpill | slotFill | slotStat
  | drain
  | streamArm | streamRearm | streamRearmRows | streamResume | streamQuiesce
  | rowsetCommit | rotMatrix | rotSmooth | scaleUpdate
  | vec (k : Fin 10)
  | chainSend | chainRecv | mcSend | updIssue
  deriving DecidableEq, Repr

/-- Where an instruction stands: in its queue, taken by its unit, or running. -/
inductive Stage where
  | queued | taken | running
  deriving DecidableEq, Repr

/-- A span instruction: its words, the register values read at issue, its thread and task instance, its lease and issue
sequence (R198, R199, R202), whether its descriptor has arrived and passed the static checks, the descriptor's words (and
a pair's second descriptor's), the physical status address taken at arm (R215), the masked rows read at arm (R143), and CLASS,
LEGACY, CACHE_DOMAIN and XLATE_ROOT of its lease's entry as it stood at the crossing (R376). `sure` says, of an instruction that
has not crossed, that an entry was there for it when it issued (log entry 9); `owes`, of one whose work is done and whose writes to other
endpoints are not all acknowledged, the status word still to be written and the counters still to be signalled (R214, R258). -/
structure SpanI where
  u : Nat := 0
  op : SpanOp
  lease : Nat
  th : ThreadId
  inst : Nat
  pc : Word
  w0 : Half
  w1 : Half
  w2 : Half
  a : Word
  b : Word
  c : Word
  d : Word
  seq : Half := 0
  stage : Stage := .queued
  ready : Bool := false
  desc : List Word := []
  desc2 : List Word := []
  statusPa : Option Nat := none
  mask : Option (List Bool) := none
  cls : Nat := 0
  leg : Bool := false
  dom : BitVec 16 := 0
  root : Word := 0
  sure : Bool := false
  owes : Option (Option Word × List Nat) := none
  deriving DecidableEq, Repr

/-- A Keystone core (R185, R187, R189, R192, R198). -/
structure Core where
  icache : List ICLine := []
  pred : Tab PredEntry := []
  itlb : List TlbEntry := []
  dtlb : List TlbEntry := []
  offers : List SpanI := []
  lastServed : Nat := 0
  deriving DecidableEq, Repr

/-- A descriptor cache entry (R213). -/
structure DescEntry where
  lease : Nat
  addr : Nat
  words : List Word
  deriving DecidableEq, Repr

/-- A function table held by the drain path (R124): its 2,064 words of 32 bits. -/
structure FuncTab where
  lease : Nat
  addr : Nat
  words : List Half
  deriving DecidableEq, Repr

/-! ## Counters -/

/-- A span counter (R249, R250, R255, R412, R463). -/
structure Counter where
  p : Word := 0
  c : Word := 0
  cap : Half := 0
  ovf : Bool := false
  capRefused : Bool := false
  copyBad : BitVec 2 := 0
  deriving DecidableEq, Repr

/-! ## Streams and stores -/

/-- Stream context states (R171), in the code order of R464. -/
inductive SState where
  | unarmed | running | drained | halted | quiescing | quiesced
  deriving DecidableEq, Repr

/-- A burst of a transfer (R159): its virtual byte range, the places of the bytes in the ring slot (offset and length, in
address order), its physical address once issued, its progress, and the bytes of a write or of a received response. `poison` says that
its last fetch was poisoned, `bad` that the response of the present one is. -/
structure Burst where
  addr : Nat
  len : Nat
  parts : List (Nat × Nat) := []
  pa : Nat := 0
  issued : Bool := false
  done : Bool := false
  dropped : Bool := false
  poison : Bool := false
  bad : Bool := false
  data : List Byte := []
  deriving DecidableEq, Repr

/-- A transfer in progress (R152 to R163), with the valid rows and columns of its tile as it started (R154); `again` marks one that has
been signalled and is fetched again because its slot was lost (R408). -/
structure Xfer where
  n : Nat
  tile : Nat
  bursts : List Burst
  gen : Option Half
  u : Nat := 0
  again : Bool := false
  vr : Nat := 0
  vc : Nat := 0
  deriving DecidableEq, Repr

/-- A pending STREAM.REARM (R172): displacement, new ROWS, and the instruction that gave it. -/
structure Rearm where
  disp : Word
  rows : Option Half
  u : Nat
  deriving DecidableEq, Repr

/-- An extent that a stream has left by a rearm: its descriptor as displaced, the displacement, ROWS, generation, and the number of its first
transfer (R172). -/
structure Extent where
  base : Nat
  desc : List Word
  disp : Word
  rows : Nat
  gen : Option Half
  deriving DecidableEq, Repr

/-- A stream context (R148 to R173, R413, R464). `rows` is ROWS as in force, `base` the number of the first transfer of the
extent, `old` the extents before it whose transfers its ring may still hold or fetch, newest first, `start` that of the next transfer to start, `next` that of the oldest unsignalled one; `xfers` the transfers started
and not signalled; `gated` whether the gate of transfer `start` has been taken; `stopped` whether a suspension has stopped
it since it last issued (R173), and `src` the instruction that gave it its extent (R392). -/
structure Stream where
  st : SState := .unarmed
  desc : List Word := []
  descAddr : Word := 0
  disp : Word := 0
  rows : Nat := 0
  gen : Option Half := none
  base : Nat := 0
  old : List Extent := []
  next : Nat := 0
  start : Nat := 0
  xfers : List Xfer := []
  gated : Bool := false
  faultAddr : Word := 0
  faultXfer : Word := 0
  rearm : Option Rearm := none
  notHalted : Bool := false
  stopped : Bool := false
  src : Option SampleSrc := none
  deriving DecidableEq, Repr

/-- A page tag (R154, R219): format, block axis, block length (0 where unscaled), zero point, layout, whether a
descriptor's ring or a DRAIN wrote it, generation and valid counts. -/
structure PageTag where
  valid : Bool := false
  fmt : Byte := 0
  axis : Bool := false
  p : Nat := 0
  zpEn : Bool := false
  zp : Byte := 0
  rows : Nat := 0
  cols : Nat := 0
  rowset : Bool := false
  gen : Option Half := none
  validRows : Nat := 0
  validCols : Nat := 0
  deriving DecidableEq, Repr

/-- The operand stores (R174, R219, R408). Keys of `tags`: page, the North store's from 4,096. `badWest` and `badNorth` are the failed
banks that wait for their spares, oldest first; `ueWords` the bank and cycle of the uncorrectable words of late, by store. -/
structure StoreUnit where
  west : Tab Byte := []
  north : Tab Byte := []
  tags : Tab PageTag := []
  badWest : List Nat := []
  badNorth : List Nat := []
  ueWords : List (Bool × Nat × Nat) := []
  deriving DecidableEq, Repr

/-- A gathering register (R39). -/
structure Gather where
  amax : Half := 0
  sat : Half := 0
  nan : Half := 0
  deriving DecidableEq, Repr

/-! ## The Truss array -/

/-- An element record as a feeder sends it (R31, R68, R75): sign, magnitude, exponent, significand width, flag and valid bit, with
the mod-3 residue `res` of the magnitude and the parity `par` of the alignment fields. -/
structure Elem where
  neg : Bool := false
  m : Nat := 0
  e : Int := 0
  s : Nat := 0
  flag : Bool := false
  valid : Bool := false
  code : Int := 0
  res : BitVec 2 := 0
  par : Bool := false
  deriving DecidableEq, Repr

/-- A captured operand block of one row or column of one band: its elements, largest exponent and block scale (R74), and whether
its row or column lies within what its ring slot holds (R90, R115, R154). -/
structure Block where
  elems : List Elem := []
  eMax : Int := 0
  scale : Nat := 127
  live : Bool := true
  deriving DecidableEq, Repr

/-- The blocks a feeder set captured for one interval: West by band × row, North by band × column. -/
structure Captured where
  west : Tab Block := []
  north : Tab Block := []
  deriving DecidableEq, Repr

/-- A partial record (R72). -/
structure PartialRec where
  raw : Int := 0
  t : Int := 0
  bsum : Nat := 0
  special : Bool := false
  psat : Bool := false
  deriving DecidableEq, Repr

/-- A cell's two partial registers and which is active (R67). -/
structure CellRegs where
  r0 : PartialRec := {}
  r1 : PartialRec := {}
  active : Bool := false
  deriving DecidableEq, Repr

/-- A pass operand (R219) as resolved at the pass's start: of a ring, its first slot, the slots read and those of them taken so
far (R157, R256). -/
structure Opnd where
  ring : Bool := false
  trans : Bool := false
  ctx : Nat := 0
  page : Nat := 0
  row0 : Nat := 0
  col0 : Nat := 0
  tag : PageTag := {}
  slot0 : Nat := 0
  read : Nat := 0
  taken : Nat := 0
  deriving DecidableEq, Repr

/-- The pass kinds (R130). -/
inductive PassKind where
  | fwd | dx | dw
  deriving DecidableEq, Repr

/-- One tile of a pass or pair (R131, R218). -/
structure PassPart where
  kind : PassKind
  west : Opnd
  north : Opnd
  rows : Nat
  cols : Nat
  k : Nat
  p : Nat
  s : Nat
  fr : Nat
  fc : Nat
  blkFirst : Nat
  blkCount : Nat
  slot : Nat
  serial : Bool
  masked : List Bool
  validRows : Nat
  zp : Option Int
  cnt : Nat
  rowset : Bool
  signalled : Bool
  deriving DecidableEq, Repr

/-- Why a pass stops before its end (R92, R95, R168, R153, R377). -/
inductive StopKind where
  | preempt | fault | abandon | generation | release
  deriving DecidableEq, Repr

/-- The pass or pair that holds the array. `t` counts the intervals whose every period has been sent, numbered across the
sweeps, and `q` the periods sent of the next; `sent` counts the cycles since the start, bubbles included; `times` gives the
cycles at which the periods of each interval left the edges; `counts` the intervals each diagonal has ended since the last restart, and `supp` the
intervals that clusters had committed before it, one list per number of active groups (R91 to R94, R102). Intervals below
`replayTo` have been sent before. `starved` counts the beat edges since the edges ran dry, plus one (R168); `fill` the
cycles charged for the fill and the final promotion of the last sweep since the run entered the array (R390). -/
structure PassRun where
  u : Nat
  lease : Nat
  legacy : Bool
  parts : List PassPart
  altX : Nat
  altW : Nat
  groups : Nat
  t : Nat := 0
  q : Nat := 0
  sent : Nat := 0
  first : Nat := 0
  times : Tab (List Nat) := []
  blocks : Tab Captured := []
  counts : List Nat
  supp : List (Nat × List Nat) := []
  replayTo : Nat := 0
  stop : Option StopKind := none
  limit : List Nat := []
  starved : Nat := 0
  fill : Nat := 0
  deriving DecidableEq, Repr

/-- The array outside the pass: hold and ramp (R81, R82), throttle phase (R79), cells, residue detections (R101), and the lease whose
next pass holds the free array while its descriptor is read or its slots are filled (R390). -/
structure ArrayUnit where
  run : Option PassRun := none
  cells : Tab CellRegs := []
  phase : BitVec 4 := 0
  warm : Bool := false
  idle : Nat := 0
  lastFmt : Byte × Byte := (0, 0)
  detect : List (Nat × Nat × Nat) := []
  hold : Option Nat := none
  deriving DecidableEq, Repr

/-! ## The Girder die -/

/-- A Girder entry (R105): sum, compensation, and what its check bits show (0 good, 1 correctable, 2 uncorrectable). -/
structure Entry where
  s : Half := 0
  c : Half := 0
  chk : BitVec 2 := 0
  deriving DecidableEq, Repr

/-- Slot states (R107), in code order. -/
inductive GState where
  | free | open | active | spilled | spilling | filling
  deriving DecidableEq, Repr

/-- An accumulation slot (R106 to R111, R225, R409, R465). `fillFor` is the instruction whose start fills it (R119, R392). -/
structure Slot where
  st : GState := .free
  lease : Nat := 0
  fr : Nat := 1
  fc : Nat := 1
  ksum : BitVec 9 := 0
  colBase : Half := 0
  cols : Nat := 0
  segs : List Nat := []
  poison : Bool := false
  accSat : Bool := false
  psat : Bool := false
  special : Bool := false
  poisonRows : BitVec 256 := 0
  touched : Nat := 0
  evicting : Bool := false
  fillFor : Option Nat := none
  deriving DecidableEq, Repr

/-- A spill or fill on the Girder mover: its slot, direction, bytes moved, whether it halted, and its instruction. -/
structure Mover where
  slot : Nat
  fill : Bool
  pos : Nat
  halted : Bool
  u : Option Nat
  lease : Nat
  deriving DecidableEq, Repr

/-- The Girder die's control state (R104 to R120, R408, R465, R466). `bankBusy` are the failed banks whose spares are being filled, and
`ueWords` the word, 32,768 × bank + word, and the cycle of the uncorrectable words of late. -/
structure GirderUnit where
  ent : Tab Entry := []
  slots : Tab Slot := []
  segFree : Word := 0
  scrubQ : List Nat := []
  mover : Option Mover := none
  peekAddr : Word := 0
  peekU : Nat := 0
  peekData : Word := 0
  peekBusy : Bool := false
  peekDone : Bool := false
  peekDenied : Bool := false
  peekNotRes : Bool := false
  bankBusy : List Nat := []
  ueWords : List (Nat × Nat) := []
  touchClk : Nat := 0
  deriving DecidableEq, Repr

/-! ## Drain path, Spandrel, chains, multicast -/

/-- The DRAIN in progress: its instruction, its slots, the transfers it feeds, the saturation count of its first copy and its
counter (R215, R229, R232). -/
structure DrainRun where
  u : Nat
  lease : Nat
  slots : List Nat
  ctxs : List (Nat × Nat)
  sat : Nat
  cnt : Nat
  deriving DecidableEq, Repr

/-- The VECTOR-queue instruction in the Spandrel: its instruction, the physical writes of its results, its status bits
and count, and a new rotation slot (R236 to R241). -/
structure VecRun where
  u : Nat
  lease : Nat
  writes : List (Nat × Byte)
  singular : Bool := false
  smoothZero : Bool := false
  skipped : Bool := false
  count : Nat := 0
  rot : Option (Nat × RotSlot) := none
  deriving DecidableEq, Repr

/-- A running ROWSET.COMMIT's result (R235, R371). -/
structure RsRun where
  u : Nat
  lease : Nat
  set : List RsEntry
  pend : List (Half × Nat)
  deferred : Nat
  deriving DecidableEq, Repr

/-- A chunk held by a chain hop: row, quarter, and its binary32 values as they were read or received, times the power of two that an own
term of one slot keeps exactly (R293, R303). -/
structure Chunk where
  row : Nat
  quarter : Nat
  vals : List Half
  exp : Int := 0
  deriving DecidableEq, Repr

/-- A running chain instruction (R297 to R307), with CLASS, LEGACY and CACHE_DOMAIN of its crossing (R376). `own` are the own chunks read and
not yet used, with their values, `read` how many have been read and `cyc` the read cycles spent on the next one (R303); `up` are the upstream chunks that wait for their own term, `ready` the sums waiting to be
sent, `got` the chunks received, `freed` the entries freed, `grant` the first downstream count and `credits` the largest
(cumulative), `stage` the staging credits of another engine set's Pier, `sent` the chunks sent, `idleBeats` the beat edges since the last progress. -/
structure ChainRun where
  u : Nat
  lease : Nat
  recv : Bool
  desc : List Word
  slots : List Nat
  cls : Nat := 0
  leg : Bool := false
  dom : BitVec 16 := 0
  own : List Chunk := []
  read : Nat := 0
  cyc : Nat := 0
  up : List Chunk := []
  ready : List Chunk := []
  got : List (Nat × Nat) := []
  freed : Nat := 0
  grant : Nat := 0
  credits : Nat := 0
  stage : Nat := 0
  sent : Nat := 0
  idleBeats : Nat := 0
  deriving DecidableEq, Repr

/-- An MC.SEND in progress (R338), with the numbers of its packets that the root has answered. -/
structure McSend where
  u : Nat
  lease : Nat
  group : Nat
  mseq : Half
  total : Nat
  sent : Nat := 0
  acked : List Nat := []
  deriving DecidableEq, Repr

/-- A multicast message being received by a bound lease (R338, R340): its sender and number, its length, the packets whose
writes wait for their acknowledgement by offset with the bytes that they replaced (R401), the bytes acknowledged by offset, whether a
notice said that it was missed, and whether it is complete. -/
structure McRecv where
  lease : Nat
  group : Nat
  src : BitVec 24
  mseq : Half
  total : Nat
  arrived : List (Nat × Packet) := []
  old : List (Nat × List (Nat × Byte)) := []
  written : List (Nat × Nat) := []
  missed : Bool := false
  done : Bool := false
  deriving DecidableEq, Repr

/-- A multicast packet that a router has passed on (R338, R339): the port and packet to answer, the branches still to answer,
and the beat edges since. -/
structure McWait where
  group : Nat
  pk : Packet
  mseq : Half
  off : Nat
  upPort : Nat
  waiting : List Nat
  beats : Nat := 0
  deriving DecidableEq, Repr

/-- Multicast state of the span and the router. Keys of `mseq`: 1,024 × lease + group; of `pruned`: 16 × group + port;
`told` names the messages, by sender and number, that a pruned branch has been told it missed (R339). -/
structure McUnit where
  mseq : Tab Half := []
  sends : List McSend := []
  recv : List McRecv := []
  wait : List McWait := []
  pruned : List Nat := []
  told : List (Nat × BitVec 24 × Half) := []
  deriving DecidableEq, Repr

/-! ## Reports, performance counters, monitors -/

/-- A report (R203). -/
structure Report where
  seq : Half
  cause : Byte
  lease : Nat
  thread : Option ThreadId
  imprecise : Bool
  halted : Bool
  engine : Bool
  pc : Word
  instr : Half
  detail0 : Word
  detail1 : Word
  beat : Word
  sample : Option Nat := none
  dest : Option (BitVec 24) := none
  deriving DecidableEq, Repr

/-- A record that waits to be written to device memory: its physical address, its bytes, and the lease it is of (R383, R395; 16: of
none). -/
structure MemRec where
  pa : Nat
  bytes : List Byte
  lease : Nat := 16
  deriving DecidableEq, Repr

/-- Performance counters and dumps (R387, R391, R395). -/
structure PerfUnit where
  val : Tab Word := []
  ctl : Tab Half := []
  reload : Tab Word := []
  dumpCfg : Word := 0
  dumpPeriod : BitVec 16 := 1000
  dumpSeq : Half := 0
  dumpQ : List MemRec := []
  tmaxPeriod : BitVec 10 := 0
  droopTrips : Byte := 0
  levelMax : BitVec 4 := 0
  throttled : Word := 0
  deriving DecidableEq, Repr

/-- A temperature sensor (R396). -/
structure Temp where
  valid : Bool := false
  hotSeen : Bool := false
  code : BitVec 10 := 0
  deriving DecidableEq, Repr

/-- A droop monitor (R396). -/
structure Droop where
  thresh : Byte := 40
  trips : BitVec 16 := 0
  deriving DecidableEq, Repr

/-- Monitors and the throttle controller (R396 to R398). `holdBeats` counts the beats of the droop hold still to come, and
`droopDue` says that a beat has come after it. -/
structure MonUnit where
  temp : Tab Temp := []
  tripPend : Half := 0
  droop : Tab Droop := []
  ro : Tab (BitVec 20) := []
  tempTrip : BitVec 10 := 0x1F4
  tripLocked : Bool := false
  tempHot : BitVec 10 := 0x1E0
  hyst : BitVec 6 := 0x0C
  droopHold : Byte := 16
  droopStep : BitVec 4 := 8
  hostFloor : BitVec 4 := 0
  thermal : BitVec 4 := 0
  droopLvl : BitVec 4 := 0
  holdBeats : Nat := 0
  droopDue : Bool := false
  deriving DecidableEq, Repr

/-- A UCIe module's status (R467) and the cycles of its recent CRC failures (R345). -/
structure Module where
  rate : BitVec 2 := 0
  up : Bool := false
  out : Bool := false
  reversed : Bool := false
  failed : Byte := 0
  repaired : Byte := 0
  crcFails : List Nat := []
  deriving DecidableEq, Repr

/-- A loop-back slot (R468) with its pattern generator, and, of PIER_PORT, the 64 KiB loop buffer of 64-byte units and the place of the
next one (R419). -/
structure Loopback where
  index : Byte := 0
  path : BitVec 4 := 0
  refused : Bool := false
  run : Bool := false
  errors : Half := 0
  units : Half := 0
  prbs : BitVec 31 := 0x7FFFFFFF
  buf : Tab (BitVec 512) := []
  pos : BitVec 10 := 0
  deriving DecidableEq, Repr

/-! ## The Pier -/

/-- An on-die group entry (R272 to R275): its 32 words, its curve's 64 words, validity and STEP, and the group table's base at its last
reload. -/
structure Group where
  valid : Bool := false
  words : List Word := []
  curve : List Word := []
  step : Word := 0
  base : Nat := 0
  deriving DecidableEq, Repr

/-- An accepted Pier command (R278 to R282). Once begun it holds the entry, the override bit and the tile it took; `reads`
and `writes` are the 64-byte units it has still to request, `formed` whether its results are formed, and `old` the bytes that
its results replaced. -/
structure PierCmd where
  k : Nat
  cmd : UpdCmd
  begun : Bool := false
  formed : Bool := false
  grp : Group := {}
  ovr : Bool := false
  tile : List Half := []
  reads : List Nat := []
  writes : List Nat := []
  old : List (Nat × Byte) := []
  deriving DecidableEq, Repr

/-- A tile being staged (R279, R308): tag, domain, epoch, chain, sender, size, the values by position, the chunks that have
arrived, and the values among them. -/
structure StagedTile where
  tag : BitVec 16
  domain : BitVec 16
  epoch : Byte
  chain : BitVec 16
  src : BitVec 24
  rows : Nat
  cols : Nat
  vals : Tab Half := []
  chunks : List (Nat × Nat) := []
  count : Nat := 0
  deriving DecidableEq, Repr

/-- A tile that the Pier discards because its tag is taken (R279): its tag, domain, epoch, chain and sender, and how many of its chunks have
still to come. -/
structure DupTile where
  tag : BitVec 16
  domain : BitVec 16
  epoch : Byte
  chain : BitVec 16
  src : BitVec 24
  left : Nat
  deriving DecidableEq, Repr

/-- A repeat-cache line (R178): address, domain, bytes, and the way that holds it. Lines of a set stand most recently used first. -/
structure RcLine where
  addr : Nat
  domain : BitVec 16
  bytes : List Byte
  way : Nat := 0
  deriving DecidableEq, Repr

/-- Whom a controller request serves: an update command, a burst or write that has reached the Pier, or nobody any more: the controller
still owes its response (R270). -/
inductive PortWho where
  | cmd (k : Nat)
  | job (k : Nat)
  | gone
  deriving DecidableEq, Repr

/-- An outstanding controller request of the Pier port (R269): lane, tag, unit address and whether it writes. -/
structure PortReq where
  lane : Nat
  tag : Nat
  addr : Nat
  write : Bool
  who : PortWho
  deriving DecidableEq, Repr

/-- A read burst or a write at the Pier (R179, R180): the packet that a fabric request came in, the units still to be requested, whether
a unit read uncorrectable, the bytes that a write replaced, the job whose fill of the same line it waits for (R21), and the lines that it
allocates at its end. -/
structure PierJob where
  k : Nat
  burst : Option ReadBurst := none
  req : Option Packet := none
  todo : List Nat := []
  bad : Bool := false
  old : List (Nat × Byte) := []
  wait : Option Nat := none
  lines : List Nat := []
  deriving DecidableEq, Repr

/-- The Pier (R268 to R292, R178 to R180, R469). -/
structure PierUnit where
  override : Bool := false
  groupBase : Word := 0
  reloadBusy : Bool := false
  reloadRefused : Bool := false
  reloadGroup : Byte := 0
  pcmap : Word := 0x0000000A09080706
  pcmapLocked : Bool := false
  flushBusy : Bool := false
  flushDomain : BitVec 16 := 0
  groups : Tab Group := []
  cmds : List PierCmd := []
  jobs : List PierJob := []
  nextCmd : Nat := 0
  tiles : List StagedTile := []
  dups : List DupTile := []
  lines : List RcLine := []
  badWays : List (Nat × Nat) := []
  port : List PortReq := []
  readySeen : Bool := false
  repQ : List Report := []
  repSeq : Half := 0
  faultLost : Half := 0
  eventDest : BitVec 24 := 0
  polbin : Bool := false
  beatCount : Word := 0
  deriving DecidableEq, Repr

/-! ## The Abutment and the fabric -/

/-- Port states (R325), in the code order of R471. -/
inductive PState where
  | down | training | negotiating | up | failed
  deriving DecidableEq, Repr

/-- A flit that has been sent and not acknowledged, with the packets that began in it (R317, R333) and its module (R343). -/
structure SentFlit where
  flit : Flit
  starts : List Packet := []
  via : Nat := 0
  deriving DecidableEq, Repr

/-- A Kilile port (R316 to R319, R325 to R327, R333, R471). `txSeq` is the next SEQ to send, `rxSeq` the next expected;
`nakSent` says that the present gap has been answered, `nakDue` and `ackDue` what the next flit must carry; `replay` holds
the unacknowledged flits, oldest first, and `resends` how often the first has been resent without progress; `credits` and
`owed` are per virtual channel, in 64-byte units; `txq` the packets that wait, `txb` the rest of the packet being sent;
`slots` and `rr` serve the order of R319; `rx` is the part of a packet received so far, `mods` the modules of the link, `etype` the
EtherType that an Ethernet port took at its training (R472), `came` the ports by which the packets held here arrived (R333), `frame` the Ethernet frame last sent (R346). `turn` counts the module turns,
and `early` are flits that came by their module ahead of SEQ order (R343). `win` counts the flit slots of the present window of 256,
`used` those of each lease and `share` the LINK_SHAREs that hold for it, and `owner` is the lease whose packet is being sent (R359, R369). -/
structure Port where
  st : PState := .down
  replayTimeout : BitVec 16 := 4096
  partnerId : Half := 0
  partnerAddr : BitVec 24 := 0
  version : Byte := 0
  features : Half := 0
  identGot : Bool := false
  txSeq : BitVec 12 := 0
  rxSeq : BitVec 12 := 0
  nakSent : Bool := false
  nakDue : Bool := false
  ackDue : Bool := false
  replay : List SentFlit := []
  resends : Nat := 0
  credits : Tab Nat := []
  owed : Tab Nat := []
  txq : List Packet := []
  txb : List Byte := []
  slots : Nat := 0
  rr : Nat := 0
  rx : List Byte := []
  mods : List Nat := []
  etype : BitVec 16 := 0
  came : List (Packet × Nat) := []
  frame : Option EthFrame := none
  turn : Nat := 0
  early : List (Nat × Flit) := []
  win : Nat := 0
  used : Tab Nat := []
  share : Tab Nat := []
  owner : Nat := 16
  deriving DecidableEq, Repr

/-- An entry of a deduplication table (R323). -/
structure Dedup where
  ep : Nat
  src : BitVec 24
  tag : BitVec 16
  resp : Packet
  made : Nat
  deriving DecidableEq, Repr

/-- A CXL.mem request outstanding at the host bridge (R348, R349, R435): its tag, the unit it names, whether it writes, and
the job it belongs to. -/
structure CxlReq where
  tag : Nat
  unit : Nat
  write : Bool
  job : Nat
  deriving DecidableEq, Repr

/-- A READ or WRITE that the Abutment serves over CXL: its packet, the units still to be requested, its poison, the beat edges since it
came, and the bytes that a write replaced (R401). -/
structure CxlJob where
  k : Nat
  req : Packet
  todo : List Nat
  bad : Bool := false
  beats : Nat := 0
  old : List (Nat × Byte) := []
  deriving DecidableEq, Repr

/-- The Abutment (R313 to R349, R470 to R472). Keys of `port`: 0 to 15 the router's, 16 the span's Abutment link, 17 the
span's Pier link, 18 the Pier's span link. -/
structure AbutUnit where
  fabShadow : BitVec 24 := 0
  fabActive : BitVec 24 := 0
  routeShadow : Tab Word := []
  routeActive : Tab Word := []
  mcShadow : Tab Word := []
  mcActive : Tab Word := []
  gen : CommitReg := {}
  port : Tab Port := []
  etype : BitVec 16 := 0
  linkCfg : BitVec 2 := 3
  mac : BitVec 48 := 0
  cxlTimeout : Byte := 64
  neigh : Tab (BitVec 48) := []
  vlan : Tab (BitVec 17) := []
  dedup : List Dedup := []
  cxl : List CxlReq := []
  cxlJobs : List CxlJob := []
  nextJob : Nat := 0
  repQ : List Report := []
  repSeq : Half := 0
  faultLost : Half := 0
  eventDest : BitVec 24 := 0
  beatCount : Word := 0
  deriving DecidableEq, Repr

/-- What an outstanding fabric request of this engine set serves (R322). -/
inductive ReqFor where
  | burst (ctx n b : Nat)
  | load (t : ThreadId)
  | store (t : ThreadId)
  | fill (slot : Nat)
  | table (l pa len : Nat)
  | result (u : Nat)
  | upd (u : Nat)
  | signal (cmd : Nat)
  | event
  | mgmt
  | other
  deriving DecidableEq, Repr

/-- Packets formed and waiting for an address, those that the router has formed for one of its ports (R315), packets received, requests awaiting their response by 65,536 × endpoint + TAG,
the next TAG of each endpoint (R323), the lease plus one of each TAG of the span's (R359), and the runs of other endpoints' memory that
READs of a lease have brought and no unit has used yet: lease, address and length (R15, R16). -/
structure NetUnit where
  tx : List Packet := []
  txPort : List (Nat × Packet) := []
  rx : List Packet := []
  out : List (Nat × ReqFor) := []
  tags : Tab (BitVec 16) := []
  whose : Tab Nat := []
  got : List (Nat × Nat × Nat) := []
  deriving DecidableEq, Repr

/-! ## A lease position's run-time state -/

/-- What a lease position holds beside its table entry (R153, R199, R203, R354 to R372, R382, R383). `torn` says that the
teardown of a release has been done, `fills` the store windows (North, first page, pages) whose fill it awaits. -/
structure LeaseRt where
  cmd : BitVec 3 := 0
  seq : Half := 0
  rsGen : Half := 0
  rowSet : Option (List RsEntry) := none
  pendJoins : List (Half × Nat) := []
  tasks : List Task := []
  binds : List McBind := []
  rot : Tab RotSlot := []
  meters : Meters := {}
  acc : Meters := {}
  parkedBeats : BitVec 16 := 0
  meterSeq : Half := 0
  parked : Bool := false
  beatFree : Bool := false
  repSeq : Half := 0
  held : Option PassRun := none
  frames : List Frame := []
  saving : Bool := false
  scrubWait : Bool := false
  torn : Bool := false
  fills : List (Bool × Nat × Nat) := []
  nextInst : Nat := 0
  deriving DecidableEq, Repr

/-- The lease table (R351 to R353). Keys of `shadow` and `active`: 16 × position + word. -/
structure LeaseUnit where
  shadow : Tab Word := []
  active : Tab Word := []
  written : BitVec 16 := 0
  gen : CommitReg := {}
  ctl : Tab LeaseCtl := []
  rt : Tab LeaseRt := []
  served : Tab Nat := []
  meterQ : List MemRec := []
  deriving DecidableEq, Repr

/-- The memory map (R460). Keys: 4 × window + word, TIER1 windows 0 to 15, TIER2 windows 16 to 23. -/
structure MapUnit where
  shadow : Tab Word := []
  active : Tab Word := []
  gen : CommitReg := {}
  deriving DecidableEq, Repr

/-! ## The whole -/

/-- What the hardware has done to a register in a cycle (R9): the W1C bits that it has set, or the amount that it has added. -/
structure HwUpdate where
  part : Part
  addr : Nat
  val : Nat
  cyc : Nat
  deriving DecidableEq, Repr

/-- The engine set. `memBad` holds the 64-byte units of device memory whose last read answered uncorrectable (R271, R349,
R415), `memGone` those whose last read was answered UNREACHABLE (R322, R373). `hw` are the hardware's updates of registers in the present cycle
(R9). `free` is the model's own counter of free values, `nextUid` its own number for the next span
instruction, and `pending` the queue of commands that wait, first in, first out. -/
structure State where
  pending : List Instr
  free : Nat
  now : Nat
  nextUid : Nat
  pins : Pins
  tap : TapUnit
  fuse : FuseUnit
  eng : EngineUnit
  beat : BeatUnit
  lease : LeaseUnit
  map : MapUnit
  thr : Tab Thread
  core : Tab Core
  rrCore : Nat
  xlate : List TlbEntry
  cnt : Tab Counter
  instrs : List SpanI
  dcache : List DescEntry
  ftab : List FuncTab
  str : Tab Stream
  strSpares : Nat
  lastCtx : Tab Nat
  store : StoreUnit
  gather : Tab Gather
  arr : ArrayUnit
  gir : GirderUnit
  drn : Option DrainRun
  vec : Option VecRun
  rs : List RsRun
  chn : List ChainRun
  chnFree : Nat
  chnCred : List Packet
  mc : McUnit
  repQ : List Report
  engSeq : Half
  perf : PerfUnit
  mon : MonUnit
  mods : Tab Module
  loop : Tab Loopback
  pier : PierUnit
  abut : AbutUnit
  net : NetUnit
  mem : Tab Byte
  memBad : List Nat
  memGone : List Nat
  hw : List HwUpdate
  deriving DecidableEq, Repr

/-- The machine right after reset: RST_N low, phase RESET, every register at its reset value, every cache and queue
empty, every thread FREE (R401, R402). Values the spec does not give are named in log entries 1, 3, 4 and 5. -/
def State.reset : State where
  pending := []
  free := 0
  now := 0
  nextUid := 0
  pins := {}
  tap := {}
  fuse := {}
  eng := {}
  beat := {}
  lease := {}
  map := {}
  thr := []
  core := []
  rrCore := 0
  xlate := []
  cnt := []
  instrs := []
  dcache := []
  ftab := []
  str := []
  strSpares := 2
  lastCtx := []
  store := {}
  gather := []
  arr := {}
  gir := {}
  drn := none
  vec := none
  rs := []
  chn := []
  chnFree := 512
  chnCred := []
  mc := {}
  repQ := []
  engSeq := 0
  perf := {}
  mon := {}
  mods := []
  loop := []
  pier := {}
  abut := {}
  net := {}
  mem := []
  memBad := []
  memGone := []
  hw := []

end Sys2Proof.Machine
end

