-- ==== Sys2Proof/Machine/Num.lean ====
section
/-! DEFINITION. The arithmetic of the engine set, bit for bit: exact dyadic values, narrowing, the element formats,
scales, and the functions the numeric chapters write as pseudocode (files 02, 03, 04, 05). -/

namespace Sys2Proof.Machine

/-- Bits `[h:l]` of a number held in a bit vector, as a number (R7). -/
def bits {w : Nat} (x : BitVec w) (h l : Nat) : Nat := (x.toNat >>> l) % 2 ^ (h + 1 - l)

/-- Bits `[h:l]` of a word, as a bit vector of the width asked for. -/
def fld {w : Nat} (x : BitVec w) (l n : Nat) : BitVec n := x.extractLsb' l n

/-- Replace `n` bits of a word from bit `l`. -/
def setFld {w n : Nat} (x : BitVec w) (l : Nat) (v : BitVec n) : BitVec w :=
  let m : BitVec w := (BitVec.ofNat w (2 ^ n - 1)) <<< l
  (x &&& ~~~m) ||| ((v.setWidth w) <<< l)

/-- One bit from a Bool. -/
def b1 (b : Bool) : BitVec 1 := if b then 1 else 0

/-- A list with one position replaced. -/
def setNth {α : Type} (l : List α) (i : Nat) (v : α) : List α := l.set i v

/-- Sum of a list of numbers. -/
def sumL (l : List Nat) : Nat := l.foldl (· + ·) 0

/-- Put an element before the first of a list whose key is not lower. -/
def insertL {α : Type} (key : α → Nat) (a : α) : List α → List α
  | [] => [a]
  | b :: t => if key a ≤ key b then a :: b :: t else b :: insertL key a t

/-- A list in the order of its keys; equal keys stay in their order. -/
def sortL {α : Type} (key : α → Nat) (l : List α) : List α := l.foldr (insertL key) []

/-- Ceiling division. -/
def cdiv (a b : Nat) : Nat := (a + b - 1) / b

/-- The largest of a list of numbers, 0 for none. -/
def maxL (l : List Nat) : Nat := l.foldl max 0

/-- The smallest of a list of numbers, `d` for none. -/
def minL (d : Nat) (l : List Nat) : Nat := l.foldl min d

/-! ## Exact values -/

/-- An exact value (-1)^neg × mag × 2^exp. A zero keeps its sign (R45). -/
structure Ex where
  neg : Bool
  mag : Nat
  exp : Int
  deriving DecidableEq, Repr

/-- +0. -/
def exZero : Ex := ⟨false, 0, 0⟩
/-- 1.0. -/
def exOne : Ex := ⟨false, 1, 0⟩

/-- A value from an integer. -/
def exInt (i : Int) : Ex := ⟨decide (i < 0), i.natAbs, 0⟩

/-- The same value times a power of two, exactly. -/
def exScale (x : Ex) (k : Int) : Ex := ⟨x.neg, x.mag, x.exp + k⟩

/-- Negation. -/
def exNeg (x : Ex) : Ex := ⟨!x.neg, x.mag, x.exp⟩

/-- Magnitude. -/
def exAbs (x : Ex) : Ex := ⟨false, x.mag, x.exp⟩

/-- Exact product; a zero product has the exclusive OR of the signs (R45). -/
def exMul (x y : Ex) : Ex := ⟨Bool.xor x.neg y.neg, x.mag * y.mag, x.exp + y.exp⟩

/-- The signed multiple of 2^e that a value is, for e at most its own exponent. -/
def exAt (x : Ex) (e : Int) : Int :=
  let m : Int := (x.mag <<< (x.exp - e).toNat : Nat)
  if x.neg then -m else m

/-- Exact sum. Two zeros of one sign give that zero, and every other zero sum is +0 (R45). -/
def exAdd (x y : Ex) : Ex :=
  if x.mag = 0 ∧ y.mag = 0 then ⟨x.neg && y.neg, 0, 0⟩
  else
    let e := min x.exp y.exp
    let i := exAt x e + exAt y e
    if i = 0 then exZero else ⟨decide (i < 0), i.natAbs, e⟩

/-- Exact difference. -/
def exSub (x y : Ex) : Ex := exAdd x (exNeg y)

/-- Exact sum of a list of terms: all zeros of one sign give that zero. -/
def exSum : List Ex → Ex
  | [] => exZero
  | [x] => x
  | x :: y :: t => exAdd x (exSum (y :: t))

/-- Compare exact values, both zeros being equal. -/
def exLt (x y : Ex) : Bool :=
  let e := min x.exp y.exp
  decide (exAt x e < exAt y e)

/-- floor(log2 |x|) for a non-zero value. -/
def exponent (x : Ex) : Int := (Nat.log2 x.mag : Int) + x.exp

/-- Quotient of two magnitudes to 64 bits and a last bit that says whether more follow: every narrowing of it below
equals that of the exact quotient. -/
def exDiv (x y : Ex) : Ex :=
  if y.mag = 0 then exZero
  else
    let k := Nat.log2 y.mag + 64
    let n := x.mag <<< k
    let q := n / y.mag
    ⟨Bool.xor x.neg y.neg, 2 * q + (if q * y.mag = n then 0 else 1), x.exp - y.exp - k - 1⟩

/-- Integer square root by bits, from bit `b` down. -/
def isqrtGo : Nat → Nat → Nat → Nat
  | 0, _, r => r
  | b + 1, n, r =>
    let r' := r + 2 ^ b
    if r' * r' ≤ n then isqrtGo b n r' else isqrtGo b n r

/-- Integer square root. -/
def isqrt (n : Nat) : Nat := isqrtGo (Nat.log2 n / 2 + 1) n 0

/-- Square root of a non-negative value to 256 bits and a last bit for the rest: a sum with a binary32 value narrows as that
of the exact root. -/
def exSqrt (x : Ex) : Ex :=
  if x.mag = 0 then x
  else
    let odd : Nat := if x.exp % 2 = 0 then 0 else 1
    let m := x.mag <<< (odd + 512)
    let r := isqrt m
    ⟨false, 2 * r + (if r * r = m then 0 else 1), (x.exp - odd - 512) / 2 - 1⟩

/-- 1 / √x for a positive value, to 64 bits and a last bit for the rest. -/
def exRsqrt (x : Ex) : Ex :=
  let odd : Nat := if x.exp % 2 = 0 then 0 else 1
  let m := x.mag <<< odd
  let j := Nat.log2 m + 80
  let r := isqrt (2 ^ (2 * j) / m)
  ⟨false, 2 * r + (if r * r * m = 2 ^ (2 * j) then 0 else 1), -(j : Int) - (x.exp - odd) / 2 - 1⟩

/-! ## Formats (R28) -/

/-- A floating-point format: width, stored fraction bits, bias, least exponent, largest finite code. -/
structure FFmt where
  width : Nat
  mbits : Nat
  bias : Int
  emin : Int
  maxCode : Nat
  deriving DecidableEq, Repr

/-- E4M3. -/
def fE4M3 : FFmt := ⟨8, 3, 7, -6, 0x7E⟩
/-- E5M2. -/
def fE5M2 : FFmt := ⟨8, 2, 15, -14, 0x7B⟩
/-- E2M1. -/
def fE2M1 : FFmt := ⟨4, 1, 1, 0, 0x7⟩
/-- E3M2. -/
def fE3M2 : FFmt := ⟨6, 2, 3, -2, 0x1F⟩
/-- E2M3. -/
def fE2M3 : FFmt := ⟨6, 3, 1, 0, 0x1F⟩
/-- bfloat16. -/
def fBF16 : FFmt := ⟨16, 7, 127, -126, 0x7F7F⟩
/-- binary32. -/
def fB32 : FFmt := ⟨32, 23, 127, -126, 0x7F7FFFFF⟩

/-- The floating-point format of a FMT code (R40, R149); none for the integer formats and for unlisted codes. -/
def ffmt : Nat → Option FFmt
  | 1 => some fE4M3
  | 2 => some fE5M2
  | 3 => some fE2M1
  | 4 => some fE3M2
  | 5 => some fE2M3
  | 8 => some fBF16
  | 9 => some fB32
  | _ => none

/-- Element width in bits of a FMT code. -/
def fmtWidth : Nat → Nat
  | 3 => 4
  | 4 => 6
  | 5 => 6
  | 8 => 16
  | 9 => 32
  | _ => 8

/-- Serial steps s of a FMT code (R28). -/
def fmtS : Nat → Nat
  | 1 => 4
  | 2 => 3
  | 3 => 2
  | 4 => 3
  | 5 => 4
  | 6 => 7
  | 7 => 8
  | 8 => 8
  | _ => 0

/-- Whether a format carries block scales: every format of R28 but bfloat16 (R37), and not binary32. -/
def fmtScaled (f : Nat) : Bool := decide (1 ≤ f ∧ f ≤ 7)

/-- Whether a code of a floating-point format is an infinity or a NaN (R28). -/
def specialCode (f : Nat) (c : Nat) : Bool :=
  match f with
  | 1 => decide (c % 128 = 127)
  | 2 => decide (124 ≤ c % 128)
  | 8 => decide (0x7F80 ≤ c % 0x8000)
  | 9 => decide (0x7F800000 ≤ c % 0x80000000)
  | _ => false

/-- The exact value of a finite code of a format. -/
def fdecode (f : FFmt) (c : Nat) : Ex :=
  let neg := (c >>> (f.width - 1)) % 2 = 1
  let e := (c >>> f.mbits) % 2 ^ (f.width - 1 - f.mbits)
  let m := c % 2 ^ f.mbits
  if e = 0 then ⟨decide neg, m, f.emin - f.mbits⟩
  else ⟨decide neg, 2 ^ f.mbits + m, (e : Int) - f.bias - f.mbits⟩

/-- INT8 as an operand: two's complement with 0x80 read as -127 (R29). -/
def int8 (c : Nat) : Int := if c % 256 = 128 then -127 else if c % 256 < 128 then (c % 256 : Int) else (c % 256 : Int) - 256

/-- The largest finite magnitude of a FMT code, as an exact value (R28, R41: 255 for UINT8). -/
def fmtMax (f : Nat) : Ex :=
  match f with
  | 6 => ⟨false, 127, 0⟩
  | 7 => ⟨false, 255, 0⟩
  | _ => match ffmt f with
    | some g => fdecode g g.maxCode
    | none => exOne

/-! ## Narrowing (R43 to R46) -/

/-- A magnitude as a multiple of 2^q, truncated, or rounded to nearest even. -/
def roundAt (x : Ex) (q : Int) (polbin : Bool) : Nat :=
  if q ≤ x.exp then x.mag <<< (x.exp - q).toNat
  else
    let k := (q - x.exp).toNat
    let n := x.mag >>> k
    if polbin then
      let r := x.mag - (n <<< k)
      let half := 2 ^ k
      if 2 * r > half then n + 1 else if 2 * r = half ∧ n % 2 = 1 then n + 1 else n
    else n

/-- narrow_float of R45: the code and whether the value saturated. -/
def narrow (x : Ex) (f : FFmt) (polbin : Bool) : Nat × Bool :=
  let sgn := if x.neg then 2 ^ (f.width - 1) else 0
  if x.mag = 0 then (sgn, false)
  else
    let top := fdecode f f.maxCode
    if exLt (exAbs x) top then
      let e := max (exponent x) f.emin
      let n := roundAt x (e - f.mbits) polbin
      let c := (((e + f.bias) * 2 ^ f.mbits : Int) + n - 2 ^ f.mbits).toNat
      if f.maxCode < c then (sgn + f.maxCode, true) else (sgn + c, false)
    else (sgn + f.maxCode, exLt top (exAbs x))

/-- narrow_int of R45, without limits. -/
def narrowInt (x : Ex) (polbin : Bool) : Int :=
  let n : Int := roundAt x 0 polbin
  if x.neg then -n else n

/-- A value clamped between two bounds, and whether it was. -/
def clampI (n lo hi : Int) : Int × Bool :=
  if n < lo then (lo, true) else if hi < n then (hi, true) else (n, false)

/-! ## binary32 -/

/-- The canonical NaN (R48). -/
def nan32 : Half := 0x7FC00000
/-- The largest finite binary32. -/
def b32Max : Half := 0x7F7FFFFF

/-- The exact value of a binary32, none for an infinity or a NaN (R49). -/
def dec32 (h : Half) : Option Ex :=
  if specialCode 9 h.toNat then none else some (fdecode fB32 h.toNat)

/-- A binary32 narrowed from an exact value (R43). -/
def nar32 (x : Ex) (polbin : Bool) : Half := BitVec.ofNat 32 (narrow x fB32 polbin).1

/-- Whether narrowing to binary32 saturates (R44). -/
def sat32 (x : Ex) (polbin : Bool) : Bool := (narrow x fB32 polbin).2

/-- `f` of R283: an exact value narrowed to binary32 and taken as a value again. -/
def narEx (polbin : Bool) (x : Ex) : Ex := fdecode fB32 (narrow x fB32 polbin).1

/-- A NaN-carrying value: none stands for NaN. -/
abbrev Val := Option Ex

/-- The binary32 bits of a narrowed value; NaN gives the canonical NaN (R48, R49). -/
def enc32 (polbin : Bool) : Val → Half
  | none => nan32
  | some x => nar32 x polbin

/-- Narrow a value to binary32, NaN staying NaN. -/
def narV (polbin : Bool) (x : Val) : Val := x.map (narEx polbin)

/-- The product and the sum of values, exact, NaN if either is (R49). -/
def vMul (x y : Val) : Val := do let a ← x; let b ← y; pure (exMul a b)
def vAdd (x y : Val) : Val := do let a ← x; let b ← y; pure (exAdd a b)
def vSub (x y : Val) : Val := do let a ← x; let b ← y; pure (exSub a b)
def vDiv (x y : Val) : Val := do let a ← x; let b ← y; pure (exDiv a b)

/-- A code of a floating-point or integer format decoded exactly, none for a special code. -/
def decodeVal (f : Nat) (c : Nat) : Val :=
  match f with
  | 6 => some (exInt (int8 c))
  | 7 => some (exInt (c % 256 : Nat))
  | _ => if specialCode f c then none else (ffmt f).map (fun g => fdecode g c)

/-- A non-NaN code narrowed to bfloat16 or binary32, as the VEC family and the Pier write it. -/
def encodeVal (f : Nat) (polbin : Bool) : Val → Nat
  | none => if f = 8 then 0x7FC0 else 0x7FC00000
  | some x => (narrow x (if f = 8 then fBF16 else fB32) polbin).1

/-! ## Scales (R33, R34, R38, R41) -/

/-- The exponent k of a tensor scale 2^k, none where the binary32 breaks R34. -/
def tscale (h : Half) : Option Int :=
  let e : Int := (bits h 30 23 : Int) - 127
  if bits h 22 0 = 0 ∧ bits h 31 31 = 0 ∧ -120 ≤ e ∧ e ≤ 120 then some e else none

/-- The binary32 of 2^k. -/
def pow2Half (k : Int) : Half := BitVec.ofNat 32 (((k + 127).toNat) <<< 23)

/-- pow2_fit of R38: the smallest e with a ≤ limit × 2^e. -/
def pow2Fit (a limit : Ex) : Int :=
  let e := exponent a - exponent limit
  if exLt (exScale limit e) a then e + 1 else e

/-- The larger of two magnitudes. -/
def exMax (x y : Ex) : Ex := if exLt x y then y else x

/-- The block scale byte that DERIVED mode gives a block's values after the tensor scale (R38). -/
def deriveScale (f : Nat) (vals : List Val) : Nat :=
  let special := vals.any (fun v => v.isNone)
  let a := vals.foldl (fun m v => match v with | some x => exMax m (exAbs x) | none => m) exZero
  if special ∧ f ≠ 1 ∧ f ≠ 2 ∧ f ≠ 8 ∧ f ≠ 9 then 255
  else if a.mag = 0 then 127
  else
    let b := pow2Fit a (fmtMax f) + 127
    if b < 0 then 0 else if 254 < b then 254 else b.toNat

/-- A drained NaN code of a format that has one (R48). -/
def nanCode : Nat → Nat
  | 1 => 0x7F
  | 2 => 0x7F
  | 8 => 0x7FC0
  | 9 => 0x7FC00000
  | _ => 0

/-- One value narrowed to a format against a block scale (R46): code and whether it counts as a saturation. `zp` is the
zero point where the output carries one. -/
def convertElem (f : Nat) (b : Nat) (zp : Option Int) (polbin : Bool) (v : Ex) : Nat × Bool :=
  let w := exScale v (127 - (b : Int))
  match f with
  | 6 =>
    let n := narrowInt w polbin + zp.getD 0
    let (m, sat) := clampI n (-127) 127
    ((m % 256).toNat, sat)
  | 7 =>
    let n := narrowInt w polbin + zp.getD 0
    let (m, sat) := clampI n 0 255
    (m.toNat, sat)
  | _ => match ffmt f with
    | some g => narrow w g polbin
    | none => (0, false)

/-- A converted block: scale byte, codes, which elements saturated, how many, elements written as NaN (R38, R46, R48). `fixed` is
BLOCK_FIXED in FIXED mode. Unscaled formats take scale 127 and store none. A block written with scale 0xFF has no `sats`. -/
structure Converted where
  scale : Nat
  codes : List Nat
  sats : List Bool
  sat : Nat
  nan : Nat
  deriving DecidableEq, Repr

/-- Convert a block of values that the tensor scale has multiplied. -/
def convertBlock (f : Nat) (fixed : Option Nat) (zp : Option Int) (polbin : Bool) (vals : List Val) : Converted :=
  let special := vals.any (fun v => v.isNone)
  let hasNan := f = 1 ∨ f = 2 ∨ f = 8 ∨ f = 9
  let b0 := if fmtScaled f then (match fixed with | some x => x | none => deriveScale f vals) else 127
  if special ∧ ¬ hasNan then ⟨255, vals.map (fun _ => 0), [], 0, vals.length⟩
  else
    let cs := vals.map (fun v => match v with
      | none => (nanCode f, false, true)
      | some x => let r := convertElem f b0 zp polbin x; (r.1, r.2, false))
    ⟨b0, cs.map (·.1), cs.map (·.2.1), (cs.filter (·.2.1)).length, (cs.filter (·.2.2)).length⟩

/-! ## Elements (R31) -/

/-- The parity of a number's low bits. -/
def parityOf : Nat → Nat → Bool
  | 0, _ => false
  | n + 1, v => xor (decide (v % 2 = 1)) (parityOf n (v / 2))

/-- The parity bit over an element's alignment fields (R75): the exponent in nine bits and the significand width, the fields that
align its products in R70 (DEDUCED, log entry 71). -/
def alignParity (x : Elem) : Bool := xor (parityOf 9 (BitVec.ofInt 9 x.e).toNat) (parityOf 4 x.s)

/-- Put with an element what R75 sends with it: the mod-3 residue of m, and the parity of the alignment fields. -/
def sealElem (x : Elem) : Elem := { x with res := BitVec.ofNat 2 (x.m % 3), par := alignParity x }

/-- The element record of a code in a block of scale `b` (R31), without its check bits. -/
def bareElement (f : Nat) (b : Nat) (c : Nat) : Elem :=
  let s := fmtS f
  match f with
  | 6 =>
    if b = 255 then { s := 7, e := 6, flag := true, valid := true }
    else { neg := decide (int8 c < 0), m := (int8 c).natAbs, e := 6, s := 7, valid := true, code := int8 c }
  | 7 =>
    if b = 255 then { s := 8, e := 7, flag := true, valid := true }
    else { m := c % 256, e := 7, s := 8, valid := true, code := (c % 256 : Nat) }
  | _ => match ffmt f with
    | none => {}
    | some g =>
      if b = 255 ∨ specialCode f c then { s := s, e := g.emin, flag := true, valid := true }
      else
        let ef := (c >>> g.mbits) % 2 ^ (g.width - 1 - g.mbits)
        let mf := c % 2 ^ g.mbits
        let neg := decide ((c >>> (g.width - 1)) % 2 = 1)
        if ef = 0 then { neg := neg, m := mf, e := g.emin, s := s, valid := true }
        else { neg := neg, m := 2 ^ (s - 1) + mf, e := (ef : Int) - g.bias, s := s, valid := true }

/-- The element record of a code in a block of scale `b`, as a feeder forms and sends it (R31, R75). -/
def element (f : Nat) (b : Nat) (c : Nat) : Elem := sealElem (bareElement f b c)

/-- The least element exponent of a format, with which zeros and invalid elements take part in the largest one. -/
def fmtEmin (f : Nat) : Int :=
  match f with
  | 6 => 6
  | 7 => 7
  | _ => match ffmt f with | some g => g.emin | none => 0

/-- A captured block: its elements and the largest element exponent over them (R31, R74). -/
def mkBlock (f : Nat) (b : Nat) (elems : List Elem) : Block :=
  { elems := elems, scale := b
    eMax := elems.foldl (fun m x => if x.valid ∧ m < x.e then x.e else m) (fmtEmin f) }

/-! ## The cell (R69, R70) -/

/-- One product aligned to the window and truncated toward zero. -/
def alignProduct (a b : Elem) (lsb : Int) : Int :=
  let mag : Nat := a.m * b.m
  let w : Int := (a.e - a.s + 1) + (b.e - b.s + 1)
  let sh := w - lsb
  let p : Int := if 0 ≤ sh then (mag <<< sh.toNat : Nat) else (mag >>> (-sh).toNat : Nat)
  if a.neg ≠ b.neg then -p else p

/-- One step of cell_interval: the partial, the SPECIAL and PSAT flags, and the saturating steps so far. -/
def cellStep (lsb : Int) (acc : Int × Bool × Bool × Nat) (ab : Elem × Elem) : Int × Bool × Bool × Nat :=
  let (raw, special, psat, n) := acc
  let (a, b) := ab
  if ¬ (a.valid ∧ b.valid) then acc
  else if a.flag ∨ b.flag then (raw, true, psat, n)
  else
    let r := raw + alignProduct a b lsb
    if r > 2 ^ 19 - 1 then (2 ^ 19 - 1, special, true, n + 1)
    else if r < -(2 ^ 19) then (-(2 ^ 19), special, true, n + 1)
    else (r, special, psat, n)

/-- What a cell holds once it has taken the first n element pairs of an interval, with the count of saturating steps (R67, R70,
R71). -/
def cellPrefix (n : Nat) (a b : Block) : PartialRec × Nat :=
  let t := a.eMax + b.eMax + 5
  let r := ((a.elems.zip b.elems).take n).foldl (cellStep (t - 18)) (0, false, false, 0)
  ({ raw := r.1, t := t, bsum := a.scale + b.scale, special := r.2.1, psat := r.2.2.1 }, r.2.2.2)

/-- cell_interval of R70, with the count of saturating steps (R71). -/
def cellInterval (a b : Block) : PartialRec × Nat := cellPrefix a.elems.length a b

/-! ## The residue check (R100) -/

/-- A number's residue in 0 to 2. -/
def mod3 (n : Int) : Nat := (n % 3).toNat

/-- A single fault in a cell during an interval: at the pair of index `at_`, bit `bit` of the product is inverted, or the valid bits
where the pair is a bubble or padding. -/
structure Strike where
  at_ : Nat
  bit : Nat
  deriving DecidableEq, Repr

/-- The magnitude that a cell forms of a pair, a struck one with one bit inverted. -/
def struckMag (k : Nat) (h : Option Strike) (a b : Elem) : Nat :=
  match h with
  | some x => if x.at_ = k then (a.m * b.m) ^^^ 2 ^ x.bit else a.m * b.m
  | none => a.m * b.m

/-- The check of one element pair (R100): the product's residue, the alignment parities and the addition's residue, whose
saturating step is not checked; of a bubble, padding or a flagged element, the valid bits and the flag against the edge's. -/
def pairOk (lsb : Int) (k : Nat) (h : Option Strike) (old new : Int × Bool × Bool × Nat) (a b : Elem) : Bool :=
  if a.valid && b.valid && !(a.flag || b.flag) then
    decide (struckMag k h a b % 3 = (a.res.toNat * b.res.toNat) % 3) && a.par == alignParity a && b.par == alignParity b &&
      (decide (old.2.2.2 < new.2.2.2) || decide (mod3 new.1 = (mod3 old.1 + mod3 (alignProduct a b lsb)) % 3))
  else !(h.any (fun x => x.at_ == k))

/-- A cell's error bit at the end of an interval (R100): whether the check of some pair has failed. -/
def errorBit (h : Option Strike) (a b : Block) : Bool :=
  let lsb := a.eMax + b.eMax + 5 - 18
  let r := (a.elems.zip b.elems).foldl (fun (acc : (Int × Bool × Bool × Nat) × Nat × Bool) ab =>
    let new := cellStep lsb acc.1 ab
    (new, acc.2.1 + 1, acc.2.2 || !pairOk lsb acc.2.1 h acc.1 new ab.1 ab.2)) ((0, false, false, 0), 0, false)
  r.2.2

/-! ## Promotion and collapse (R112, R117, R123) -/

/-- split of R112: the truncated sum, the exact remainder, and whether it saturated. -/
def split (x : Ex) : Ex × Ex × Bool :=
  let hi := narEx false x
  if sat32 x false then (hi, exZero, true) else (hi, exSub x hi, false)

/-- The value of a Girder field. A NaN never reaches here: R113 handles it before. -/
def val32 (h : Half) : Ex := fdecode fB32 h.toNat

/-- promote of R112 with zp_raw of R115: the new entry, whether the sum saturated, and whether the compensation did (R44). -/
def promote (ent : Entry) (rec : PartialRec) (zpRaw : Int) (polbin : Bool) : Entry × Bool × Bool :=
  if ent.chk = 2 ∨ ent.s = nan32 then (ent, false, false)
  else if rec.special then ({ ent with s := nan32 }, false, false)
  else
    let v := exScale (exInt (rec.raw - zpRaw)) (rec.t - 18 + rec.bsum - 254)
    let x := exAdd (val32 ent.s) v
    if polbin then ({ ent with s := nar32 x true }, sat32 x true, false)
    else
      let r := split x
      let s' := nar32 r.1 false
      let c := exAdd (val32 ent.c) r.2.1
      if r.2.2 then ({ ent with s := s' }, true, false) else ({ ent with s := s', c := nar32 c false }, false, sat32 c false)

/-- A sum and its compensation. -/
abbrev Pair := Ex × Ex

/-- add_pair of R123. -/
def addPair (x y : Pair) : Pair :=
  let r := split (exAdd x.1 y.1)
  if r.2.2 then (r.1, x.2) else (r.1, narEx false (exSum [x.2, y.2, r.2.1]))

/-- The saturations of one narrowing to binary32 (R44). -/
def sats (polbin : Bool) (v : Val) : Nat := match v with | some x => if sat32 x polbin then 1 else 0 | none => 0

/-- The saturations of add_pair. -/
def addPairSats (x y : Pair) : Nat :=
  let r := split (exAdd x.1 y.1)
  if r.2.2 then 1 else sats false (some (exSum [x.2, y.2, r.2.1]))

/-- A fold of add_pair with its saturations. -/
def foldPairs (n : Nat) (f : Nat → Pair × Nat) : Pair × Nat :=
  ((List.range n).tail).foldl (fun acc b => (addPair acc.1 (f b).1, acc.2 + (f b).2 + addPairSats acc.1 (f b).1)) (f 0)

/-- The saturations that form an element's pair (R44, R123). -/
def pairSats (planes : List Entry) (fr fc : Nat) (polbin : Bool) : Nat :=
  if polbin ∨ planes.any (fun p => decide (p.s = nan32) || decide (p.chk = 2)) then 0
  else
    let pl := planes.map (fun p => (val32 p.s, val32 p.c))
    (foldPairs fc (fun c => foldPairs fr (fun b => (pl.getD (c * fr + b) (exZero, exZero), 0)))).2

/-- The pair that collapse holds before its last narrowing (R123, R127), from the planes in plane order. NaN is none. -/
def collapsePair (planes : List Entry) (fr fc : Nat) (polbin : Bool) : Option Pair :=
  if planes.any (fun p => decide (p.s = nan32) || decide (p.chk = 2)) then none
  else
    let pl := planes.map (fun p => (val32 p.s, val32 p.c))
    if polbin then some ((pl.headD (exZero, exZero)).1, exZero)
    else
      let col := fun c =>
        ((List.range fr).tail).foldl (fun acc b => addPair acc (pl.getD (c * fr + b) (exZero, exZero)))
          (pl.getD (c * fr) (exZero, exZero))
      some (((List.range fc).tail).foldl (fun acc c => addPair acc (col c)) (col 0))

/-- collapse of R123. -/
def collapse (planes : List Entry) (fr fc : Nat) (polbin : Bool) : Val :=
  if polbin then (collapsePair planes fr fc polbin).map (·.1)
  else (collapsePair planes fr fc polbin).map (fun p => narEx false (exAdd p.1 p.2))

/-- The saturations of collapse. -/
def collapseSats (planes : List Entry) (fr fc : Nat) (polbin : Bool) : Nat :=
  if polbin then 0
  else pairSats planes fr fc false + sats false ((collapsePair planes fr fc false).map (fun p => exAdd p.1 p.2))

/-- The exact sum of the combining read of R127 and R147: each slot's pair scaled by its KSUM. -/
def combineSum (ps : List (Option Pair × Int)) (sub : Bool) : Val :=
  if ps.any (fun p => p.1.isNone) then none
  else
    let terms := ps.map (fun p => match p.1 with
      | some (s, c) => exScale (exAdd s c) (-p.2)
      | none => exZero)
    let terms := if sub then (match terms with | a :: b :: t => a :: exNeg b :: t | l => l) else terms
    some (exSum terms)

/-- The combining read: the sum narrowed once. -/
def combine (ps : List (Option Pair × Int)) (sub polbin : Bool) : Val := narV polbin (combineSum ps sub)

/-! ## The epilogue (R54, R124) -/

/-- channel_stage of R54; a non-finite table entry gives NaN (R54, R49). -/
def channelStage (y : Val) (ksum : Int) (c a : Half) (polbin : Bool) : Val :=
  let t := narV polbin (y.map (fun x => exScale x (-ksum)))
  narV polbin (vAdd (vMul t (dec32 c)) (dec32 a))

/-- The saturations of channel_stage. -/
def channelSats (y : Val) (ksum : Int) (c a : Half) (polbin : Bool) : Nat :=
  let x := y.map (fun x => exScale x (-ksum))
  sats polbin x + sats polbin (vAdd (vMul (narV polbin x) (dec32 c)) (dec32 a))

/-- A function table's words (R124). -/
def tabWord (t : List Half) (i : Nat) : Val := dec32 (t.getD i 0)

/-- table_eval of R124. -/
def tableEval (x : Ex) (t : List Half) (polbin : Bool) : Val :=
  let p (a b c : Val) : Val := narV polbin (vAdd (vMul a b) c)
  if exLt x ⟨true, 16, 0⟩ then p (tabWord t 0) (some x) (tabWord t 1)
  else if ¬ exLt x ⟨false, 16, 0⟩ then p (tabWord t 2) (some x) (tabWord t 3)
  else
    let y := exScale (exAdd x ⟨false, 16, 0⟩) 4
    let n := roundAt y 0 false
    let u := narV polbin (some (exSub x (exSub ⟨false, n, -4⟩ ⟨false, 16, 0⟩)))
    let seg := 16 + 4 * n
    let r := p (tabWord t (seg + 3)) u (tabWord t (seg + 2))
    let r := p r u (tabWord t (seg + 1))
    p r u (tabWord t seg)

/-- The saturations of table_eval. -/
def tableSats (x : Ex) (t : List Half) (polbin : Bool) : Nat :=
  let e (a b c : Val) : Val := vAdd (vMul a b) c
  if exLt x ⟨true, 16, 0⟩ then sats polbin (e (tabWord t 0) (some x) (tabWord t 1))
  else if ¬ exLt x ⟨false, 16, 0⟩ then sats polbin (e (tabWord t 2) (some x) (tabWord t 3))
  else
    let n := roundAt (exScale (exAdd x ⟨false, 16, 0⟩) 4) 0 false
    let u := narV polbin (some (exSub x (exSub ⟨false, n, -4⟩ ⟨false, 16, 0⟩)))
    let seg := 16 + 4 * n
    let r0 := e (tabWord t (seg + 3)) u (tabWord t (seg + 2))
    let r1 := e (narV polbin r0) u (tabWord t (seg + 1))
    sats polbin r0 + sats polbin r1 + sats polbin (e (narV polbin r1) u (tabWord t seg))

/-- The activation stage (R124). `z` is the auxiliary element. -/
def activation (act : Nat) (x z : Val) (alpha : Half) (table : List Half) (polbin : Bool) : Val :=
  let pos := fun v : Ex => exLt exZero v
  let mulN := fun a b : Val => narV polbin (vMul a b)
  match act with
  | 0 => x
  | 1 => x.map (fun v => if pos v then v else exZero)
  | 2 => x.bind (fun v => if pos v then some v else mulN (some v) (dec32 alpha))
  | 3 => x.bind (fun v => if pos v then mulN (some v) (some v) else some exZero)
  | 4 => x.bind (fun v => tableEval v table polbin)
  | 8 => z.bind (fun v => mulN x (some (if pos v then exOne else exZero)))
  | 9 => z.bind (fun v => mulN x (if pos v then some exOne else dec32 alpha))
  | 10 => z.bind (fun v => mulN x (if pos v then narV polbin (some (exScale v 1)) else some exZero))
  | 11 => z.bind (fun v => mulN x (tableEval v table polbin))
  | 12 => z.bind (fun v => mulN x (some (if pos v then exOne else exZero)))
  | 13 => z.bind (fun v => mulN x (narV polbin (some (exSub exOne (exMul v v)))))
  | 14 => z.bind (fun v => mulN x (narV polbin (some (exSub v (exMul v v)))))
  | _ => x

/-- The saturations of the activation stage (R44). -/
def activationSats (act : Nat) (x z : Val) (alpha : Half) (table : List Half) (polbin : Bool) : Nat :=
  let pos := fun v : Val => match v with | some e => exLt exZero e | none => false
  let mulS := fun a b : Val => sats polbin (vMul a b)
  let one : Val := some exOne
  match act with
  | 2 => if pos x then 0 else mulS x (dec32 alpha)
  | 3 => if pos x then mulS x x else 0
  | 4 => match x with | some v => tableSats v table polbin | none => 0
  | 8 | 12 => mulS x (if pos z then one else z.map (fun _ => exZero))
  | 9 => mulS x (if pos z then one else z.bind (fun _ => dec32 alpha))
  | 10 =>
    let d := z.map (fun v => if exLt exZero v then exScale v 1 else exZero)
    sats polbin d + mulS x (narV polbin d)
  | 11 => match z with | some v => tableSats v table polbin + mulS x (tableEval v table polbin) | none => 0
  | 13 =>
    let d := z.map (fun v => exSub exOne (exMul v v))
    sats polbin d + mulS x (narV polbin d)
  | 14 =>
    let d := z.map (fun v => exSub v (exMul v v))
    sats polbin d + mulS x (narV polbin d)
  | _ => 0

/-! ## Rotation (R55 to R59) -/

/-- Population count parity of a number below 32. -/
def parity5 (n : Nat) : Bool :=
  Bool.xor (Bool.xor (Bool.xor (n.testBit 0) (n.testBit 1)) (Bool.xor (n.testBit 2) (n.testBit 3))) (n.testBit 4)

/-- The Sylvester matrix entry (R56). -/
def hadamard (i j : Nat) : Ex := if parity5 (i &&& j) then ⟨true, 1, 0⟩ else exOne

/-- The saturations of rotate_group. -/
def rotateSats (x : List Val) (r : Nat → Nat → Val) (polbin : Bool) : List Bool :=
  (List.range 32).map (fun j =>
    ((List.range 32).foldl (fun (acc : Val × Bool) i =>
      let v := vAdd acc.1 (vMul (x.getD i none) (r i j))
      (narV polbin v, acc.2 || decide (0 < sats polbin v))) (some exZero, false)).2)

/-- rotate_group of R55, for a matrix given entry by entry. A NaN input makes every output NaN. -/
def rotateGroup (x : List Val) (r : Nat → Nat → Val) (polbin : Bool) : List Val :=
  (List.range 32).map (fun j =>
    (List.range 32).foldl (fun acc i => narV polbin (vAdd acc (vMul (x.getD i none) (r i j)))) (some exZero))

/-- The pivot row of a column: the largest magnitude from row c on, ties to the lowest row (R57). -/
def pivotRow (a : List (List Ex)) (c : Nat) : Nat :=
  (List.range 32).foldl (fun best i =>
    if i ≤ c then best
    else if exLt (exAbs ((a.getD best []).getD c exZero)) (exAbs ((a.getD i []).getD c exZero)) then i else best) c

/-- One column of gj_inverse (R57); none is SINGULAR. -/
def gjColumn (t : Ex) (polbin : Bool) (a : List (List Ex)) (c : Nat) : Option (List (List Ex)) :=
  let p := pivotRow a c
  let pv := (a.getD p []).getD c exZero
  if pv.mag = 0 ∨ exLt (exAbs pv) t then none
  else
    let rc := a.getD c []
    let a := (a.set c (a.getD p [])).set p rc
    let inv := narEx polbin (exDiv exOne ((a.getD c []).getD c exOne))
    let row := (a.getD c []).map (fun v => narEx polbin (exMul v inv))
    let a := a.set c row
    some ((List.range 32).map (fun i =>
      if i = c then row
      else
        let ri := a.getD i []
        let f := ri.getD c exZero
        (ri.zip row).map (fun vw => narEx polbin (exSub vw.1 (exMul f vw.2)))))

/-- The saturations of one column of gj_inverse. -/
def gjColumnSats (t : Ex) (polbin : Bool) (a : List (List Ex)) (c : Nat) : Nat :=
  let p := pivotRow a c
  let pv := (a.getD p []).getD c exZero
  if pv.mag = 0 ∨ exLt (exAbs pv) t then 0
  else
    let top := a.getD p []
    let x := exDiv exOne pv
    let row := top.map (fun v => exMul v (narEx polbin x))
    sats polbin (some x) + sumL (row.map (fun v => sats polbin (some v))) +
      sumL (((List.range 32).filter (fun i => i != c)).map (fun i =>
        let ri := if i = p then a.getD c [] else a.getD i []
        let f := ri.getD c exZero
        sumL ((ri.zip row).map (fun vw => sats polbin (some (exSub vw.1 (exMul f (narEx polbin vw.2))))))))

/-- The threshold and the extended matrix that gj_inverse starts from. -/
def gjStart (r : List Ex) : Ex × List (List Ex) :=
  (exScale (r.foldl (fun m x => exMax m (exAbs x)) exZero) (-20), (List.range 32).map (fun i =>
    ((r.drop (32 * i)).take 32) ++ (List.range 32).map (fun j => if j = i then exOne else exZero)))

/-- The saturations of gj_inverse (R44), up to the column that finds SINGULAR. -/
def gjSats (r : List Ex) (polbin : Bool) : Nat :=
  let q := gjStart r
  ((List.range 32).foldl (fun (acc : Option (List (List Ex)) × Nat) c => match acc.1 with
    | none => acc
    | some m => (gjColumn q.1 polbin m c, acc.2 + gjColumnSats q.1 polbin m c)) (some q.2, 0)).2

/-- gj_inverse of R57 over a 32 × 32 matrix, row-major; none is SINGULAR. -/
def gjInverse (r : List Ex) (polbin : Bool) : Option (List Ex) :=
  let t := (gjStart r).1
  let a := (gjStart r).2
  let res := (List.range 32).foldl (fun acc c => acc.bind (fun m => gjColumn t polbin m c)) (some a)
  res.map (fun m => (m.map (fun row => row.drop 32)).flatten)

/-- The identity matrix's binary32 entries, row-major. -/
def identity32 : List Half :=
  ((List.range 32).map (fun i => (List.range 32).map (fun j => if i = j then (0x3F800000 : Half) else 0))).flatten

/-- A smoothing factor as R59 takes it: replaced by 1.0 where it is zero, negative or non-finite. -/
def smoothFactor (h : Half) : Half × Bool :=
  match dec32 h with
  | some x => if x.mag = 0 ∨ x.neg then (0x3F800000, true) else (h, false)
  | none => (0x3F800000, true)

/-! ## Scale history (R41) -/

/-- The largest AMAX entry of a history, as an exact value. -/
def histMax (amax : List Half) : Ex := amax.foldl (fun m h => exMax m (exAbs (val32 h))) exZero

/-- min(a + b, 0xFFFF_FFFF). -/
def satAdd32 (a b : Half) : Half := if a.toNat + b.toNat > 0xFFFFFFFF then 0xFFFFFFFF else a + b

/-- A history record as R40 lays it out, in 32 words of 32 bits. -/
abbrev HistRec := List Half

/-- scale_update of R41 on the record's words and a gathering register. -/
def scaleUpdateRec (rec : HistRec) (g : Gather) : HistRec :=
  let ctl := rec.getD 17 0
  let ring := bits ctl 11 8
  let rec' := rec.set ring g.amax
  let rec' := rec'.set 17 (setFld ctl 8 (BitVec.ofNat 4 ((ring + 1) % 16)))
  let rec' := rec'.set 18 (satAdd32 (rec.getD 18 0) g.sat)
  let rec' := rec'.set 19 (satAdd32 (rec.getD 19 0) g.nan)
  let h := histMax (rec'.take 16)
  if h.mag ≠ 0 ∧ bits ctl 17 17 = 0 then
    let k := -pow2Fit h (fmtMax (bits ctl 7 0))
    rec'.set 16 (pow2Half (max (-120) (min 120 k)))
  else rec'

/-! ## Winner records (R126) -/

/-- Whether the first record's value beats the second's in the mode's total order: NaN beats every number, −0 is below
+0. -/
def beats (maxMode : Bool) (x y : Half) : Bool :=
  match dec32 x, dec32 y with
  | none, none => false
  | none, some _ => true
  | some _, none => false
  | some a, some b =>
    if a.mag = 0 ∧ b.mag = 0 then
      (if maxMode then (!a.neg && b.neg) else (a.neg && !b.neg))
    else if maxMode then exLt b a else exLt a b

/-- The winner of two records (value, index): the better value, the lowest index among equals (R126). -/
def winner (maxMode : Bool) (x y : Half × Half) : Half × Half :=
  if beats maxMode x.1 y.1 then x
  else if beats maxMode y.1 x.1 then y
  else if x.2.toNat ≤ y.2.toNat then x else y

/-! ## Spandrel sums (R240) -/

/-- One step of vec_sum: the sum and its compensation, and the saturations counted. -/
def vecSumStep (polbin : Bool) (acc : Option (Ex × Ex) × Nat) (x : Val) : Option (Ex × Ex) × Nat :=
  match acc.1, x with
  | some (s, c), some v =>
    let y := exAdd s v
    if polbin then (some (narEx true y, c), acc.2 + (if sat32 y true then 1 else 0))
    else
      let r := split y
      let c' := exAdd c r.2.1
      if r.2.2 then (some (r.1, c), acc.2 + 1) else (some (r.1, narEx false c'), acc.2 + (if sat32 c' false then 1 else 0))
  | _, _ => (none, acc.2)

/-- vec_sum of R240, before its last narrowing to the result's format. -/
def vecSum (terms : List Val) (polbin : Bool) : Val × Nat :=
  let r := terms.foldl (vecSumStep polbin) (some (exZero, exZero), 0)
  (r.1.map (fun p => narEx polbin (exAdd p.1 p.2)), r.2)

/-! ## Chains (R294) -/

/-- The value a hop passes on: its own term alone for hop 0, else the upstream value plus its own term, narrowed once. -/
def chainValue (up : Option Half) (own : Val) (polbin : Bool) : Half :=
  match up with
  | none => enc32 polbin own
  | some u => enc32 polbin (vAdd (dec32 u) own)

end Sys2Proof.Machine
end

