-- ==== Sys2Proof/Machine/Ops.lean ====
section
/-! DEFINITION. The shared operations over the state: access to its parts, the lease table's fields, device memory,
reports and events, and the start of an orderly stop. -/

namespace Sys2Proof.Machine

/-- The one outcome of every command: no rule of the spec stops the block (log entry 6). -/
abbrev Result := Host.Outcome State Fault Refusal

/-! ## Access to the parts of the state -/

/-- A thread's number in core-then-thread order (R357). -/
def thrKey (t : ThreadId) : Nat := 16 * t.core.val + t.num.val
/-- The thread of a number in core-then-thread order. -/
def thrOf (k : Nat) : ThreadId := ⟨Fin.ofNat 4 (k / 16), Fin.ofNat 16 (k % 16)⟩
/-- Every thread in core-then-thread order. -/
def allThreads : List ThreadId := (List.range 64).map thrOf

def getThr (s : State) (t : ThreadId) : Thread := Tab.get {} s.thr (thrKey t)
def setThr (s : State) (t : ThreadId) (x : Thread) : State := { s with thr := Tab.set {} s.thr (thrKey t) x }
def getCore (s : State) (c : Nat) : Core := Tab.get {} s.core c
def setCore (s : State) (c : Nat) (x : Core) : State := { s with core := Tab.set {} s.core c x }
def getRt (s : State) (l : Nat) : LeaseRt := Tab.get {} s.lease.rt l
def setRt (s : State) (l : Nat) (x : LeaseRt) : State :=
  { s with lease := { s.lease with rt := Tab.set {} s.lease.rt l x } }
def getCtl (s : State) (l : Nat) : LeaseCtl := Tab.get {} s.lease.ctl l
def setCtl (s : State) (l : Nat) (x : LeaseCtl) : State :=
  { s with lease := { s.lease with ctl := Tab.set {} s.lease.ctl l x } }
def getCnt (s : State) (n : Nat) : Counter := Tab.get {} s.cnt n
def setCnt (s : State) (n : Nat) (x : Counter) : State := { s with cnt := Tab.set {} s.cnt n x }
def getStr (s : State) (x : Nat) : Stream := Tab.get {} s.str x
def setStr (s : State) (x : Nat) (v : Stream) : State := { s with str := Tab.set {} s.str x v }
def getSlot (s : State) (x : Nat) : Slot := Tab.get {} s.gir.slots x
def setSlot (s : State) (x : Nat) (v : Slot) : State :=
  { s with gir := { s.gir with slots := Tab.set {} s.gir.slots x v } }
/-- The Girder entry of bank r at word w (R104). -/
def getEnt (s : State) (r w : Nat) : Entry := Tab.get {} s.gir.ent (32768 * r + w)
def setEnt (s : State) (r w : Nat) (e : Entry) : State :=
  { s with gir := { s.gir with ent := Tab.set {} s.gir.ent (32768 * r + w) e } }

/-- The next free number and the state that has drawn it. -/
def drawNat (s : State) : Nat × State := (Config.freeNat s.free, { s with free := s.free + 1 })

/-- A lease position from a number. -/
def fin16 (l : Nat) : Option (Fin 16) := if h : l < 16 then some ⟨l, h⟩ else none

/-! ## Hardware updates and software writes in one cycle (R9) -/

/-- What the hardware has done to a register in the present cycle. -/
def hwNow (s : State) (part : Part) (a : Nat) : Nat :=
  ((s.hw.find? (fun h => decide (h.part = part ∧ h.addr = a ∧ h.cyc = s.now))).map (·.val)).getD 0

/-- Replace what the hardware has done to a register in the present cycle; what it did in earlier ones is forgotten. -/
def setHw (s : State) (part : Part) (a v : Nat) : State :=
  { s with hw := s.hw.filter (fun h => decide (h.cyc = s.now ∧ ¬ (h.part = part ∧ h.addr = a))) ++ [⟨part, a, v, s.now⟩] }

/-- The hardware sets W1C bits of a register. -/
def hwSet (s : State) (part : Part) (a mask : Nat) : State := setHw s part a (hwNow s part a ||| mask)

/-- The hardware adds to a register that software may write. -/
def hwAdd (s : State) (part : Part) (a n : Nat) : State := setHw s part a (hwNow s part a + n)

/-- A written word without the W1C bits that the hardware has set in the same cycle: its set wins (R9). -/
def w1c (s : State) (part : Part) (a : Nat) (v : Word) : Word := v &&& ~~~BitVec.ofNat 64 (hwNow s part a)

/-- Set SAMPLE_MISS of a performance counter (R393). -/
def sampleMiss (s : State) (n : Nat) : State :=
  hwSet { s with perf := { s.perf with ctl := Tab.set 0 s.perf.ctl n (Tab.get 0 s.perf.ctl n ||| 0x08000000) } } .span (0x30080 + 8 * n)
    0x08000000

/-! ## The lease table (R351) -/

/-- Word w of the active entry of position l. -/
def leaseWord (s : State) (l w : Nat) : Word := Tab.get 0 s.lease.active (16 * l + w)

def stallLimit (s : State) (l : Nat) : Nat := bits (leaseWord s l 0) 55 48
def cacheDomain (s : State) (l : Nat) : BitVec 16 := fld (leaseWord s l 0) 32 16
def faultDest (s : State) (l : Nat) : BitVec 24 := fld (leaseWord s l 0) 0 24
def perfUser (s : State) (l : Nat) : Bool := (leaseWord s l 1).getLsbD 60
def accDebug (s : State) (l : Nat) : Bool := (leaseWord s l 1).getLsbD 59
def legacy (s : State) (l : Nat) : Bool := (leaseWord s l 1).getLsbD 58
/-- CLASS: 0 Express, 1 Standard, 2 Scavenger. -/
def leaseClass (s : State) (l : Nat) : Nat := bits (leaseWord s l 1) 57 56
def cntBase (s : State) (l : Nat) : Nat := bits (leaseWord s l 1) 55 48
def cntCount (s : State) (l : Nat) : Nat := bits (leaseWord s l 1) 47 40
def gatherBase (s : State) (l : Nat) : Nat := bits (leaseWord s l 1) 39 32
def gatherCount (s : State) (l : Nat) : Nat := bits (leaseWord s l 1) 31 23
def threadLimit (s : State) (l : Nat) : Nat := bits (leaseWord s l 1) 22 16
def segQuota (s : State) (l : Nat) : Nat := bits (leaseWord s l 1) 15 9
def slotQuota (s : State) (l : Nat) : Nat := bits (leaseWord s l 1) 8 3
def ctxMask (s : State) (l : Nat) : BitVec 32 := fld (leaseWord s l 2) 32 32
def linkShare (s : State) (l : Nat) : Nat := bits (leaseWord s l 2) 31 24
def creditShare (s : State) (l : Nat) : Nat := bits (leaseWord s l 2) 23 12
def westBase (s : State) (l : Nat) : Nat := bits (leaseWord s l 3) 63 52
def westPages (s : State) (l : Nat) : Nat := bits (leaseWord s l 3) 51 39
def northBase (s : State) (l : Nat) : Nat := bits (leaseWord s l 3) 38 26
def northPages (s : State) (l : Nat) : Nat := bits (leaseWord s l 3) 25 12
def spillBase (s : State) (l : Nat) : Nat := (leaseWord s l 4).toNat
def ctxBase (s : State) (l : Nat) : Nat := (leaseWord s l 5).toNat
def xlateRoot (s : State) (l : Nat) : Nat := (leaseWord s l 6).toNat
def taskBase (s : State) (l : Nat) : Nat := (leaseWord s l 7).toNat
def runFrom (s : State) (l : Nat) : Nat := (leaseWord s l 8).toNat
def runUntil (s : State) (l : Nat) : Nat := (leaseWord s l 9).toNat
def meterBase (s : State) (l : Nat) : Nat := (leaseWord s l 10).toNat
def meterRing (s : State) (l : Nat) : Nat := bits (leaseWord s l 11) 63 48
def taskCount (s : State) (l : Nat) : Nat := bits (leaseWord s l 11) 47 43
def mcCount (s : State) (l : Nat) : Nat := bits (leaseWord s l 11) 42 38
def ckptBpt (s : State) (l : Nat) : Nat := bits (leaseWord s l 11) 23 0
def rowsetTable (s : State) (l : Nat) : Nat := (leaseWord s l 12).toNat
def ckptChunks (s : State) (l : Nat) : Nat := bits (leaseWord s l 14) 63 52
def mcBindBase (s : State) (l : Nat) : Nat := (leaseWord s l 15).toNat

/-- Whether a counter lies in a lease's range (R261). -/
def cntInRange (s : State) (l n : Nat) : Bool := decide (cntBase s l ≤ n ∧ n < cntBase s l + cntCount s l)

/-- The state of a lease position. -/
def lstate (s : State) (l : Nat) : LState := (getCtl s l).st

/-- The lease position, not EMPTY, whose range holds a counter (R255, R263). -/
def cntOwner (s : State) (n : Nat) : Option Nat :=
  (List.range 16).find? (fun l => lstate s l ≠ .empty && cntInRange s l n)

/-- Whether an orderly stop has begun (R417, R421). -/
def stopping (s : State) : Bool := decide (2 ≤ s.eng.mode.toNat)

/-! ## Performance events (R387 to R393) -/

/-- The occurrence of an event that no thread or lease caused. -/
def srcNone : SampleSrc := ⟨none, none, 0, 0, 0⟩
/-- An occurrence that a span instruction's work caused (R392, "Unit"). -/
def srcOf (i : SpanI) : SampleSrc := ⟨fin16 i.lease, some i.th, i.pc, i.w0, i.seq⟩
/-- An occurrence attributed to a lease without an instruction. -/
def srcLease (l : Nat) : SampleSrc := ⟨fin16 l, none, 0, 0, 0⟩

/-- Put a report in the span's queue of 16, or drop it and count it (R205); a dropped sample sets SAMPLE_MISS (R393). -/
def queueReport (s : State) (r : Report) : State :=
  if s.repQ.length < 16 then { s with repQ := s.repQ ++ [r] }
  else
    let s := hwAdd { s with eng := { s.eng with faultLost := satAdd32 s.eng.faultLost 1 } } .span 0x40 1
    match r.sample with
    | none => s
    | some n => sampleMiss s n

/-- Form a lease report (R203): it takes the position's next SEQ, sent or dropped. -/
def leaseReport (s : State) (l : Nat) (cause : Byte) (th : Option ThreadId) (imprecise halted : Bool) (pc : Word)
    (instr : Half) (d0 d1 : Word) (sample : Option Nat := none) : State :=
  let rt := getRt s l
  let s := setRt s l { rt with repSeq := rt.repSeq + 1 }
  queueReport s { seq := rt.repSeq + 1, cause := cause, lease := l, thread := th, imprecise := imprecise, halted := halted,
                  engine := false, pc := pc, instr := instr, detail0 := d0, detail1 := d1, beat := s.beat.count,
                  sample := sample }

/-- Form an engine-set report (R203). -/
def engineReport (s : State) (cause : Byte) (d0 d1 : Word) : State :=
  queueReport { s with engSeq := s.engSeq + 1 }
    { seq := s.engSeq + 1, cause := cause, lease := 0, thread := none, imprecise := false, halted := false, engine := true,
      pc := 0, instr := 0, detail0 := d0, detail1 := d1, beat := s.beat.count }

/-- Tell the engine set of a fault of a class of R407 for which the spec names no engine-set cause: cause and details are left open (log entry
102). -/
def faultNotice (s : State) : State :=
  engineReport { s with free := s.free + 3 } ((Config.freeWord s.free).setWidth 8) (Config.freeWord (s.free + 1)) (Config.freeWord (s.free + 2))

/-- A sample (R392): to the lease named by the counter's control where LEASE_EN is set, else an engine-set report. At most
one waits per counter, and a wrap in the meantime sets SAMPLE_MISS (R393). -/
def sendSample (s : State) (n : Nat) (src : SampleSrc) : State :=
  let ctl := Tab.get 0 s.perf.ctl n
  if s.repQ.any (fun r => r.sample == some n) then sampleMiss s n
  else
    let d0 : Word := BitVec.ofNat 64 (n + (bits ctl 11 0) * 65536)
    let d1 : Word := src.seq.setWidth 64
    if ctl.getLsbD 24 then
      leaseReport s (bits ctl 23 20) 0x50 src.thread false false src.pc src.instr d0 d1 (some n)
    else
      queueReport { s with engSeq := s.engSeq + 1 }
        { seq := s.engSeq + 1, cause := 0x50, lease := 0, thread := src.thread, imprecise := false, halted := false,
          engine := true, pc := src.pc, instr := src.instr, detail0 := d0, detail1 := d1, beat := s.beat.count,
          sample := some n }

/-- Add to a performance counter; past 2^64 − 1 it takes PERF_RELOAD plus the excess, sets OVF and may sample (R387). -/
def perfAdd (s : State) (n inc : Nat) (src : SampleSrc) : State :=
  let s := hwAdd s .span (0x30000 + 8 * n) inc
  let v := (Tab.get 0 s.perf.val n).toNat + inc
  if v < 2 ^ 64 then { s with perf := { s.perf with val := Tab.set 0 s.perf.val n (BitVec.ofNat 64 v) } }
  else
    let r := (Tab.get 0 s.perf.reload n).toNat + (v - 2 ^ 64)
    let ctl := Tab.get 0 s.perf.ctl n ||| 0x04000000
    let s := { s with perf := { s.perf with val := Tab.set 0 s.perf.val n (BitVec.ofNat 64 r)
                                            ctl := Tab.set 0 s.perf.ctl n ctl } }
    let s := hwSet s .span (0x30080 + 8 * n) 0x04000000
    if ctl.getLsbD 25 then sendSample s n src else s

/-- Whether a counter's control counts an event of a source (R387, R389). -/
def perfMatches (ctl : Half) (ev : Nat) (src : SampleSrc) : Bool :=
  ctl.getLsbD 12 && decide (bits ctl 11 0 = ev) &&
    (!ctl.getLsbD 24 || decide (src.lease.map (·.val) = some (bits ctl 23 20)))

/-- Count occurrences of an event in every counter that selects it. -/
def event (s : State) (ev inc : Nat) (src : SampleSrc) : State :=
  if inc = 0 then s
  else s.perf.ctl.foldl (fun s kc => if perfMatches kc.2 ev src then perfAdd s kc.1 inc src else s) s

/-! ## Device memory (R7, R190, R460) -/

/-- Bytes to a number, lowest address first. -/
def leNat : List Byte → Nat
  | [] => 0
  | b :: t => b.toNat + 256 * leNat t

/-- A number to n bytes, lowest address first. -/
def leBytes : Nat → Nat → List Byte
  | 0, _ => []
  | n + 1, v => BitVec.ofNat 8 (v % 256) :: leBytes n (v / 256)

/-- A window's BASE, LIMIT and TARGET; windows 0 to 15 of TIER1_MAP, 16 to 23 of TIER2_MAP. -/
def winBase (m : Tab Word) (w : Nat) : Nat := (Tab.get 0 m (4 * w)).toNat
def winLimit (m : Tab Word) (w : Nat) : Nat := (Tab.get 0 m (4 * w + 1)).toNat
def winTarget (m : Tab Word) (w : Nat) : Word := Tab.get 0 m (4 * w + 2)
def winValid (m : Tab Word) (w : Nat) : Bool := (winTarget m w).getLsbD 63

/-- The Kilile address that owns a physical address; none in no window (R460). -/
def mapTarget (s : State) (pa : Nat) : Option (BitVec 24) :=
  ((List.range 24).find? (fun w =>
      winValid s.map.active w && decide (winBase s.map.active w ≤ pa ∧ pa < winLimit s.map.active w))).map
    (fun w => fld (winTarget s.map.active w) 0 24)

/-- One byte of device memory. -/
def memByte (s : State) (a : Nat) : Byte := Tab.get 0 s.mem a

/-- n bytes of device memory from a. -/
def memBytes (s : State) (a n : Nat) : List Byte := (List.range n).map (fun k => memByte s (a + k))

/-- A 64-bit word of device memory. -/
def memWord (s : State) (a : Nat) : Word := BitVec.ofNat 64 (leNat (memBytes s a 8))

/-- Write a list of addressed bytes, in order. -/
def putBytes (m : Tab Byte) : List (Nat × Byte) → Tab Byte
  | [] => m
  | (a, b) :: t => putBytes (Tab.set 0 m a b) t

/-- The addressed bytes of a run. -/
def addrBytes (a : Nat) (bs : List Byte) : List (Nat × Byte) := (List.range bs.length).zipWith (fun k b => (a + k, b)) bs

/-- Write addressed bytes to device memory. A write that reaches this engine set's Pier invalidates every repeat-cache
line it overlaps (R180), and a unit that is written no longer counts as uncorrectable. -/
def memWrite (s : State) (ws : List (Nat × Byte)) : State :=
  { s with
    mem := putBytes s.mem ws
    memBad := s.memBad.filter (fun a => !ws.any (fun w => decide (w.1 / 64 = a)))
    pier := { s.pier with
              lines := s.pier.lines.filter (fun ln => !ws.any (fun w => decide (w.1 / 512 = ln.addr / 512))) } }

/-- Write a run of bytes. -/
def memRun (s : State) (a : Nat) (bs : List Byte) : State := memWrite s (addrBytes a bs)

/-- Write a number as n bytes. -/
def memPut (s : State) (a n v : Nat) : State := memRun s a (leBytes n v)

/-- Whether every byte of a physical run lies in a window. -/
def inMap (s : State) (a n : Nat) : Bool :=
  n = 0 || ((mapTarget s a).isSome && (mapTarget s (a + n - 1)).isSome)

/-- Whether a unit of a list of 64-byte units lies in a run. -/
def unitsHit (us : List Nat) (a n : Nat) : Bool := us.any (fun u => decide (u * 64 < a + n ∧ a < u * 64 + 64))

/-- Whether a run of device memory reads uncorrectable (R415). -/
def poisoned (s : State) (a n : Nat) : Bool := unitsHit s.memBad a n

/-- Whether a run holds a unit whose last request was answered UNREACHABLE (R322, R373). -/
def cutOff (s : State) (a n : Nat) : Bool := unitsHit s.memGone a n

/-! ## Words and bytes -/

/-- Bytes as 64-bit words. -/
def words64 (bs : List Byte) : List Word :=
  (List.range (bs.length / 8)).map (fun k => BitVec.ofNat 64 (leNat ((bs.drop (8 * k)).take 8)))

/-- Bytes as 32-bit words. -/
def words32 (bs : List Byte) : List Half :=
  (List.range (bs.length / 4)).map (fun k => BitVec.ofNat 32 (leNat ((bs.drop (4 * k)).take 4)))

/-- 64-bit words as bytes. -/
def wordBytes (ws : List Word) : List Byte := (ws.map (fun w => leBytes 8 w.toNat)).flatten

/-- 32-bit words as bytes. -/
def halfBytes (ws : List Half) : List Byte := (ws.map (fun w => leBytes 4 w.toNat)).flatten

/-! ## Threads -/

/-- A general register; `g0` reads 0 (R182). -/
def rdReg (x : Thread) (r : BitVec 5) : Word := if r = 0 then 0 else Tab.get 0 x.g r.toNat

/-- Write a general register; writes to `g0` are discarded (R182). A written register has good check bits, and a load
that was to write it later no longer does. -/
def wrReg (x : Thread) (r : BitVec 5) (v : Word) : Thread :=
  if r = 0 then x
  else { x with g := Tab.set 0 x.g r.toNat v
                ue := x.ue &&& ~~~((1 : Half) <<< r.toNat)
                loads := x.loads.map (fun q => if q.rd = r then { q with live := false } else q) }

/-- Whether a register's word is uncorrectable. -/
def isUe (x : Thread) (r : BitVec 5) : Bool := x.ue.getLsbD r.toNat && decide (r ≠ 0)

/-- Put a thread in a wait (R184). -/
def waiting (x : Thread) (r : WaitReason) (arg : Word := 0) (amount : Word := 0) (after : AfterWait := .resume) : Thread :=
  { x with st := .waiting, reason := r, arg := arg, amount := amount, after := after }

/-- End a wait: the thread is READY. -/
def ready (x : Thread) : Thread := { x with st := .ready, reason := .none, arg := 0, amount := 0, after := .resume }

/-- Halt a thread. -/
def halted (x : Thread) (cause : Byte) (imprecise : Bool) (k : HaltKind) : Thread :=
  { x with st := .halted, reason := .none, arg := 0, amount := 0, after := .resume, haltCause := cause,
           imprecise := imprecise, haltKind := k }

/-- A precise fault (R201): the instruction has no effect, the thread halts with PC at it, and a report is sent. -/
def preciseFault (s : State) (t : ThreadId) (cause : Byte) (d0 d1 : Word) (w : Half) : State :=
  let x := getThr s t
  leaseReport (setThr s t (halted x cause false .precise)) x.lease cause (some t) false true x.pc w d0 d1

/-- A freed thread: FREE, holding nothing; THREAD_CTL's REFUSED bit stays (R462). -/
def freed (x : Thread) : Thread := { refused := x.refused }

/-- The occurrence that a thread's instruction is. -/
def srcThread (x : Thread) (t : ThreadId) (w : Half) : SampleSrc := ⟨fin16 x.lease, some t, x.pc, w, 0⟩

/-- The hardware thread that holds a task instance of a lease (R202). -/
def instThread (s : State) (l inst : Nat) : Option ThreadId :=
  allThreads.find? (fun t =>
    let x := getThr s t
    x.st ≠ .free && decide (x.lease = l ∧ x.inst = inst))

/-! ## Thread frames (R207, R208) -/

/-- STATE codes (R207). -/
def tstateCode : TState → Nat
  | .free => 0 | .ready => 1 | .waiting => 2 | .halted => 3

/-- WAIT_REASON codes (R184). -/
def reasonCode : WaitReason → Nat
  | .none => 0 | .counter => 1 | .load => 2 | .fetch => 3 | .queue => 4 | .fence => 5 | .store => 6 | .beat => 7
  | .yield => 8

/-- Word 0x100 of a frame. -/
def frameStatus (x : Thread) (t : ThreadId) : Word :=
  BitVec.ofNat 64 (x.haltCause.toNat * 2 ^ 24 + (if x.imprecise then 2 ^ 23 else 0) + tstateCode x.st * 2 ^ 20 +
    reasonCode x.reason * 2 ^ 16 + thrKey t)

/-- The 34 words of a frame: G1 to G31, PC, status, WAIT_ARG. -/
def frameWords (x : Thread) (t : ThreadId) : List Word :=
  (List.range 31).map (fun k => Tab.get 0 x.g (k + 1)) ++ [x.pc, frameStatus x t, x.arg]

/-- Where the k-th saved frame of a lease stands in its context area (R368). -/
def frameAddr (s : State) (l k : Nat) : Nat := ctxBase s l + 0x100 + 272 * k

/-- Mark a saved frame of an instance HALTED; a frame already HALTED keeps its first fault (R202). -/
def haltFrame (inst : Nat) (cause : Byte) (f : Frame) : Frame :=
  if f.thr.inst = inst ∧ f.thr.st ≠ .halted then { f with thr := halted f.thr cause true .imprecise } else f

/-- Rewrite the status words of a lease's frames that stand in the context area. -/
def rewriteFrames (s : State) (l : Nat) : State :=
  (getRt s l).frames.foldl (fun s f =>
    if f.written then memPut s (frameAddr s l f.pos + 0x100) 8 (frameStatus f.thr f.home).toNat else s) s

/-- An imprecise fault of a span instruction (R202): the halt follows the task instance, in hardware or saved, and the
report tells whether anything halted. A KILL has ended its instance, though its stores are still outstanding. -/
def impreciseFault (s : State) (i : SpanI) (cause : Byte) (d0 d1 : Word) : State :=
  match instThread s i.lease i.inst with
  | some t =>
    let x := getThr s t
    let s := if x.st = .halted ∨ x.killed then s else setThr s t (halted x cause true .imprecise)
    leaseReport s i.lease cause (some t) true (!x.killed) i.pc i.w0 d0 d1
  | none =>
    let rt := getRt s i.lease
    if rt.frames.any (fun f => decide (f.thr.inst = i.inst)) then
      let s := setRt s i.lease { rt with frames := rt.frames.map (haltFrame i.inst cause) }
      leaseReport (rewriteFrames s i.lease) i.lease cause (some i.th) true true i.pc i.w0 d0 d1
    else leaseReport s i.lease cause (some i.th) true false i.pc i.w0 d0 d1

/-- A configuration fault of a numbered check (R216), with the descriptor's address. -/
def configFault (s : State) (i : SpanI) (check : Nat) (desc : Word) : State :=
  impreciseFault s i 0x03 (BitVec.ofNat 64 check) desc

/-- An imprecise privilege fault: resource number and kind (R204). -/
def privFault (s : State) (i : SpanI) (res kind : Nat) : State :=
  impreciseFault s i 0x02 (BitVec.ofNat 64 res) (BitVec.ofNat 64 kind)

/-! ## Counters (R249, R252, R255) -/

/-- A signal judged against R249: none where it would break it. Both copies are written together (R412). -/
def sigCnt (c : Counter) (a : Word) : Option Counter :=
  let p := c.p.toNat + a.toNat
  if a = 0 then some c
  else if p < 2 ^ 64 ∧ p - c.c.toNat ≤ c.cap.toNat then some { c with p := BitVec.ofNat 64 p, copyBad := 0 } else none

/-- A take judged against R249. -/
def takeCnt (c : Counter) (a : Word) : Option Counter :=
  if a = 0 then some c
  else if a.toNat ≤ c.p.toNat - c.c.toNat then some { c with c := c.c + a, copyBad := 0 } else none

/-- The availability of a counter. -/
def avail (c : Counter) : Nat := c.p.toNat - c.c.toNat

/-- A signal that breaks R249 is refused: OVF is set and the counter's lease is told (R255); with no lease, the debug
view's signal is reported to the engine set. -/
def refuseSignal (s : State) (n : Nat) (a : Word) : State :=
  let s := setCnt s n { getCnt s n with ovf := true }
  match cntOwner s n with
  | some l => leaseReport s l 0x08 none true false 0 0 (BitVec.ofNat 64 n) a
  | none => queueReport { s with engSeq := s.engSeq + 1 }
      { seq := s.engSeq + 1, cause := 0x08, lease := 0, thread := none, imprecise := true, halted := false, engine := true,
        pc := 0, instr := 0, detail0 := BitVec.ofNat 64 n, detail1 := a, beat := s.beat.count }

/-- A signal from a unit, a link or the fabric (R255, R263): discarded where no lease holds the counter, or one that is being released. One
that comes while a LOAD of the counter's lease is not done works on the old halves, which the LOAD then overwrites (DESIGN CHOICE, log entry
88). -/
def unitSignal (s : State) (n : Nat) (a : Word) : State :=
  if (cntOwner s n).all (fun l => decide (lstate s l = .releasing)) ∨ stopping s then s
  else match sigCnt (getCnt s n) a with
    | some c => setCnt s n c
    | none => hwSet (refuseSignal s n a) .span (0x20010 + 32 * n) (2 ^ 33)

/-- A unit's take, made only where the amount is available (R256). -/
def unitTake (s : State) (n : Nat) (a : Word) : State :=
  match takeCnt (getCnt s n) a with
  | some c => setCnt s n c
  | none => s

/-! ## Instructions in their queues -/

/-- The instruction of a number. -/
def getInstr (s : State) (u : Nat) : Option SpanI := s.instrs.find? (fun i => i.u == u)

/-- Take an instruction out of the span. -/
def dropInstr (s : State) (u : Nat) : State := { s with instrs := s.instrs.filter (fun i => i.u != u) }

/-- Replace an instruction. -/
def putInstr (s : State) (j : SpanI) : State :=
  { s with instrs := s.instrs.map (fun i => if i.u = j.u then j else i) }

/-! ## Stops (R95, R417) -/

/-- Intervals of a tile: none where it has nothing to do (R76, R137, R144, R217). -/
def partN (p : PassPart) : Nat :=
  if p.k = 0 ∨ (p.masked ≠ [] ∧ p.masked.all (·)) then 0 else cdiv p.blkCount (p.fr * p.fc)

/-- Whether a tile has intervals and its access to its slot is not over. -/
def partWorks (p : PassPart) : Bool := !p.signalled && partN p != 0

/-- Serial steps and block length of a run. -/
def runSP (r : PassRun) : Nat × Nat :=
  match r.parts.find? (fun p => partN p != 0) with
  | some p => (p.s, p.p)
  | none => (0, 0)

/-- The occurrence that a run's work is. -/
def srcRun (s : State) (r : PassRun) : SampleSrc :=
  match getInstr s r.u with
  | some i => srcOf i
  | none => srcLease r.lease

/-- Cells on a diagonal (R91). -/
def diagonalCells (groups d : Nat) : Nat := 64 * ((List.range groups).filter (fun g => decide (g ≤ d ∧ d < 256 + g))).length

/-- Periods that a diagonal's cells have been sent and whose interval's outcome is not known (R391): of a run stopped at a promotion
boundary those of the intervals it still completes, of a run stopped otherwise none. -/
def pendingPeriods (r : PassRun) (d : Nat) : Nat :=
  let p := (runSP r).2
  let sent := (r.t - r.first) * p + r.q
  let ended := p * (r.counts.getD d 0 - r.first)
  match r.stop with
  | none => sent - ended
  | some .preempt => min sent (p * (r.limit.getD d 0 - r.first)) - ended
  | _ => 0

/-- The cell-cycles of a run whose outcome is not known (R391). -/
def pendingCells (r : PassRun) : Nat :=
  (runSP r).1 * sumL ((List.range 319).map (fun d => diagonalCells r.groups d * pendingPeriods r d))

/-- Settle as Wasted what is pending of a run and not pending of what it becomes (R390, R391). -/
def settleWasted (s : State) (r next : PassRun) : State := event s 0x011 (pendingCells r - pendingCells next) (srcRun s r)

/-- Settle as Wasted all that is pending of a run (R95, R168, R391). -/
def discard (s : State) (r : PassRun) : State := event s 0x011 (pendingCells r) (srcRun s r)

/-- A run as a fault stop leaves it (R95): no cell commits an interval that it has not committed. A stop at a promotion boundary that is
still under way becomes one (R96). -/
def faulted (r : PassRun) : PassRun :=
  if r.stop = none ∨ r.stop = some .preempt then { r with stop := some .fault, limit := r.counts } else r

/-- Stop the running pass as a fault stop: active partials are discarded, and the periods they took are Wasted (R95, R391). -/
def faultStop (s : State) : State :=
  match s.arr.run with
  | none => s
  | some r =>
    let s := settleWasted s r (faulted r)
    { s with arr := { s.arr with run := some (faulted r), cells := [] } }

/-- Start an orderly stop (R416, R417): STOPPING, the reason, the running pass stopped, ENGINE_STOP sent. -/
def startStop (s : State) (reason : Byte) (detail : Word) : State :=
  if stopping s then s
  else
    let s := { s with eng := { s.eng with mode := 2, stopReason := reason } }
    engineReport (faultStop s) 0x68 (reason.setWidth 64) detail

/-- Start an orderly stop for whose cause R418 states no detail. -/
def startStopOpen (s : State) (reason : Byte) : State :=
  startStop { s with free := s.free + 1 } reason (Config.freeWord s.free)

/-- The level of a part's RST_N. -/
def rstOf (p : Pins) : Part → Bool
  | .span => p.rstSpan
  | .pier => p.rstPier
  | .abut => p.rstAbut

/-- Whether a part's rails are within tolerance. -/
def railsOf (p : Pins) : Part → Bool
  | .span => p.railsSpan
  | .pier => p.railsPier
  | .abut => p.railsAbut

/-- Whether a part is out of reset: its RST_N is high, its rails are within tolerance, and no ENGINE_RESET holds all three in phase RESET
(R401, R425, R442). -/
def partRuns (s : State) (part : Part) : Bool :=
  rstOf s.pins part && railsOf s.pins part && !(s.pins.rstSpan && s.eng.phase == 0)

/-- Whether a part applies host register writes now (R451): from its fuse load, the span from the end of SCRUB; a part in reset none
(R425). -/
def partWrites (s : State) (part : Part) : Bool :=
  s.eng.fuseDone && (match part with
    | .span => s.eng.scrubDone
    | p => partRuns s p)

/-- Whether a running loop-back holds a path of a part out of service (R419, R468). -/
def looping (s : State) (part : Part) (path : Nat) : Bool :=
  s.loop.any (fun e => decide (e.1 / 16 = (match part with | .span => 0 | .pier => 1 | .abut => 2)) && e.2.run &&
    decide (e.2.path.toNat = path))

/-- ARRAY_GEOM (R99): [23:16] ACTIVE_GROUPS, [8:0] ROWS, [24] REDUCED. -/
def arrayGeom (s : State) : Word :=
  BitVec.ofNat 64 (s.fuse.activeGroups * 2 ^ 16 + 0x100 + (if s.fuse.activeGroups < 64 then 2 ^ 24 else 0))

/-- START_STATUS (R403). -/
def startStatus (s : State) : Word :=
  let e := s.eng
  let bit := fun (b : Bool) (k : Nat) => if b then 2 ^ k else 0
  BitVec.ofNat 64 (e.phase.toNat * 2 ^ 28 + bit e.startFail 27 + bit (e.straps.getLsbD 1) 26 + bit e.pierLinkFail 25 +
    bit e.abutLinkFail 24 + bit e.rowsExhausted 23 + bit e.girderSparesOut 22 + bit e.storeSparesOut 21 +
    bit e.pierFail 20 + e.coresOk.toNat * 2 ^ 16 + e.newRepairs.toNat * 2 ^ 8)

end Sys2Proof.Machine
end

