-- ==== Sys2Proof/Machine/Packets.lean ====
section
/-! DEFINITION. Kilile packets on their way out (R313 to R315, R320 to R323, R328 to R331): own addresses, headers, the
choice of a port, responses with their deduplication entries, and requests with their TAG. -/

namespace Sys2Proof.Machine

/-! ## Addresses and headers (R313, R314, R320) -/

/-- The address of an endpoint of this engine set (R313, R314). -/
def ownAddr (s : State) (ep : Nat) : BitVec 24 := (s.abut.fabActive &&& 0xFFFFF0) ||| BitVec.ofNat 24 (ep % 16)

/-- Whether the engine set has an address (R315). -/
def addressed (s : State) : Bool := decide (bits s.abut.fabActive 23 8 ≠ 0)

/-- Whether an address is one of this engine set's. -/
def isOwn (s : State) (a : BitVec 24) : Bool := decide (bits a 23 4 = bits s.abut.fabActive 23 4)

/-- The endpoint of an address. -/
def epOf (a : BitVec 24) : Nat := bits a 3 0

/-- A packet with the header fields that a source sets (R320): TTL 63, reserved fields 0. -/
def mkPacket (typ : Nat) (dest src : BitVec 24) (cls : Nat) (tag aux : BitVec 16) (payload : List Byte) : Packet :=
  { typ := BitVec.ofNat 8 typ, dest := dest, src := src, cls := BitVec.ofNat 2 cls, retry := false, rsv0 := 0
    len := BitVec.ofNat 14 payload.length, ttl := 63, rsv1 := 0, tag := tag, aux := aux, payload := payload }

/-- The 16 header bytes of a packet (R320). -/
def headerBytes (p : Packet) : List Byte :=
  let w0 : Word := p.typ ++ p.dest ++ p.src ++ p.cls ++ b1 p.retry ++ p.rsv0
  let w1 : Word := p.len ++ p.ttl ++ p.rsv1 ++ p.tag ++ p.aux
  leBytes 8 w0.toNat ++ leBytes 8 w1.toNat

/-- A packet's payload as 64-bit words, the last one filled with 0. -/
def payloadWord (p : Packet) (k : Nat) : Word := BitVec.ofNat 64 (leNat ((p.payload.drop (8 * k)).take 8))

/-! ## Types (R321, R327) -/

/-- Whether a TYPE is a request, whether it is marked M, and its feature bit; none for a TYPE that the table does not have. -/
def typeKind (t : Nat) : Option (Bool × Bool × Nat) :=
  match t with
  | 0x01 => some (true, false, 0) | 0x02 => some (false, false, 0) | 0x03 => some (true, false, 0)
  | 0x04 => some (false, false, 0) | 0x05 => some (true, false, 1) | 0x06 => some (false, false, 1)
  | 0x07 => some (true, true, 0) | 0x08 => some (false, true, 0) | 0x09 => some (true, false, 5)
  | 0x0A => some (false, false, 5) | 0x0B => some (true, false, 2) | 0x0C => some (false, false, 2)
  | 0x0D => some (true, false, 4) | 0x0E => some (false, false, 4) | 0x0F => some (true, true, 6)
  | 0x10 => some (false, false, 0) | 0x11 => some (true, true, 0) | 0x12 => some (true, true, 0)
  | 0x13 => some (false, true, 0) | 0x14 => some (false, true, 0) | 0x15 => some (true, true, 0)
  | _ => none

def isRequest (p : Packet) : Bool := match typeKind p.typ.toNat with | some k => k.1 | none => false

/-- The virtual channel of a packet (R318, R321). -/
def vcOf (p : Packet) : Nat :=
  match typeKind p.typ.toNat with
  | some (req, m, _) => if m ∨ p.cls = 3 then 0 else 1 + 2 * p.cls.toNat + (if req then 0 else 1)
  | none => 0

/-! ## Ports -/

def getPort (s : State) (p : Nat) : Port := Tab.get {} s.abut.port p
def setPort (s : State) (p : Nat) (x : Port) : State := { s with abut := { s.abut with port := Tab.set {} s.abut.port p x } }

/-- Put a packet in the queue of a port. -/
def enqueue (s : State) (p : Nat) (pk : Packet) : State :=
  let x := getPort s p
  setPort s p { x with txq := x.txq ++ [pk] }

/-- Put a packet that came by a port in the queue of another, which remembers the port (R333). -/
def enqueueVia (s : State) (arr p : Nat) (pk : Packet) : State :=
  let x := getPort s p
  setPort s p { x with txq := x.txq ++ [pk], came := if arr < 15 then x.came ++ [(pk, arr)] else x.came }

/-- The port of an Ethernet lane (R347, R472): links of 1, 2, 4 or 8 lanes, numbered from 6 in lane order. -/
def lanePort (s : State) (lane : Nat) : Nat := 6 + lane / (2 ^ s.abut.linkCfg.toNat)

/-- Whether a loop-back of the router or of a lane group holds a port out of service (R419). -/
def portLooped (s : State) (p : Nat) : Bool :=
  s.loop.any (fun e => decide (e.1 / 16 = 2) && e.2.run &&
    (decide (e.2.path = 7 ∧ e.2.index.toNat = p) || decide (e.2.path = 8 ∧ lanePort s e.2.index.toNat = p)))

/-- Whether a port is UP. -/
def portUp (s : State) (p : Nat) : Bool := decide ((getPort s p).st = .up)

/-- Whether the packet's feature is negotiated on a port's link (R328). -/
def portTakes (s : State) (p : Nat) (pk : Packet) : Bool :=
  match typeKind pk.typ.toNat with
  | some (_, _, f) => (getPort s p).features.getLsbD f
  | none => false

/-- Count a discarded packet (R320). -/
def fabDiscard (s : State) : State := event s 0x200 1 srcNone

/-! ## The router (R320, R322, R328 to R331) -/

/-- Where a packet goes: into the router's own management endpoint, out of a port, or nowhere with the reason of R322. -/
inductive Route where
  | mine
  | port (p : Nat)
  | fail (reason : Nat)
  deriving DecidableEq, Repr

/-- The valid route entries whose MATCH fits a destination, by their port sets, in ascending entry number. -/
def routeSets (s : State) (d : Nat) : List (BitVec 16) :=
  (List.range 256).filterMap (fun i =>
    let w := Tab.get 0 s.abut.routeActive i
    if w.getLsbD 63 ∧ d &&& bits w 42 23 = bits w 62 43 then some (fld w 0 16) else none)

/-- The ports of a set that are UP and not the arrival port. -/
def liveOf (s : State) (arr : Nat) (set : BitVec 16) : List Nat :=
  (List.range 14).filter (fun p => set.getLsbD p && portUp s p && !portLooped s p && decide (p ≠ arr))

/-- The choice of R329 to R331. -/
def routeOf (s : State) (arr : Nat) (pk : Packet) : Route :=
  let out := fun (p : Nat) => if ¬ portUp s p ∨ p = arr then Route.fail 2
    else if portTakes s p pk then Route.port p else Route.fail 4
  if isOwn s pk.dest then
    let e := epOf pk.dest
    if e = 0 then .mine else if e ≤ 2 then out 0 else if e < 8 then .fail 5 else out 1
  else
    let sets := routeSets s (bits pk.dest 23 4)
    match sets.find? (fun x => !(liveOf s arr x).isEmpty) with
    | none => .fail (if sets = [] then 1 else 2)
    | some x =>
      let ps := liveOf s arr x
      out (ps.getD ((pk.src ^^^ pk.dest).toNat % ps.length) 0)

/-- Whether a header is one that a router discards (R320). -/
def badHeader (pk : Packet) : Bool := decide (8192 < pk.len.toNat) || pk.rsv0 != 0 || pk.rsv1 != 0

/-- Whether a packet is malformed (R320, R321). -/
def badPacket (pk : Packet) : Bool := (typeKind pk.typ.toNat).isNone || badHeader pk

/-- Whether a packet is bound for an address that is not routed beyond one link (R313). -/
def unrouted (pk : Packet) : Bool := decide (bits pk.dest 23 8 = 0 ∨ bits pk.dest 23 8 = 0xFFFF)

/-- Send a response or a packet that must not be answered: a failure discards and counts it (R322). -/
def routeLast (s : State) (arr : Nat) (pk : Packet) : State :=
  if badPacket pk ∨ unrouted pk ∨ pk.ttl.toNat ≤ 1 then fabDiscard s
  else match routeOf s arr pk with
    | .mine => { s with net := { s.net with rx := s.net.rx ++ [pk] } }
    | .port p => enqueueVia s arr p { pk with ttl := pk.ttl - 1 }
    | .fail _ => fabDiscard s

/-- Answer a request that cannot be delivered with UNREACHABLE (R322), which waits while the engine set is unaddressed (R315). -/
def unreachableFor (s : State) (pk : Packet) (reason : Nat) : State :=
  if isRequest pk then
    let r := mkPacket 0x10 pk.src (ownAddr s 0) pk.cls.toNat pk.tag (BitVec.ofNat 16 reason) (headerBytes pk)
    if addressed s then routeLast s 15 r else { s with net := { s.net with tx := s.net.tx ++ [r] } }
  else fabDiscard s

/-- Route a packet that came by a port, 15 for the router's own (R320, R330). -/
def routePacket (s : State) (arr : Nat) (pk : Packet) : State :=
  if badPacket pk then fabDiscard s
  else if pk.ttl.toNat ≤ 1 then
    let s := fabDiscard s
    if isRequest pk then unreachableFor s pk 3 else s
  else if unrouted pk then unreachableFor s pk 1
  else match routeOf s arr pk with
    | .mine => { s with net := { s.net with rx := s.net.rx ++ [pk] } }
    | .port p => enqueueVia s arr p { pk with ttl := pk.ttl - 1 }
    | .fail r => unreachableFor s pk r

/-! ## Forming packets -/

/-- Whether a packet's DEST is a multicast group (R337). -/
def grouped (p : Packet) : Bool := p.typ == 0x0D || (p.typ == 0x0F && p.aux.getLsbD 0)

/-- Let a formed packet leave its endpoint: the span's by its Abutment or Pier link, the Pier's by its span link, the
Abutment's by its router (R314). -/
def emit (s : State) (p : Packet) : State :=
  match epOf p.src with
  | 1 => enqueue s (if ¬ grouped p ∧ isOwn s p.dest ∧ epOf p.dest = 2 then 17 else 16) p
  | 2 => enqueue s 18 p
  | _ => routePacket s 15 p

/-- Send a formed packet; while the engine set is unaddressed it waits (R315). -/
def sendPacket (s : State) (p : Packet) : State :=
  if addressed s then emit s p else { s with net := { s.net with tx := s.net.tx ++ [p] } }

/-- Let a packet that the router has formed for one of its ports leave by it; while the engine set is unaddressed it waits (R315). -/
def portSend (s : State) (q : Nat) (p : Packet) : State :=
  if addressed s then enqueue s q p else { s with net := { s.net with txPort := s.net.txPort ++ [(q, p)] } }

/-- Send the packets that waited for an address, which they now carry, but for MC_ACK, whose SRC is its group (R315). -/
def flushTx (s : State) : State :=
  if ¬ addressed s then s
  else
    let t := s.net.tx.foldl (fun s p => emit s { p with src := ownAddr s (epOf p.src) }) { s with net := { s.net with tx := [], txPort := [] } }
    s.net.txPort.foldl (fun t e => enqueue t e.1 (if e.2.typ = 0x0E then e.2 else { e.2 with src := ownAddr t 0 })) t

/-- Take an arrived packet out of those received. -/
def takeRx (s : State) (p : Packet) : State := { s with net := { s.net with rx := s.net.rx.erase p } }

/-- Remember the lease of a TAG of the span's; 16 is no lease's (R359). -/
def ownTag (s : State) (tag : BitVec 16) (l : Nat) : State :=
  { s with net := { s.net with whose := Tab.set 0 s.net.whose tag.toNat (if l < 16 then l + 1 else 0) } }

/-- Send a request of an endpoint, with its next TAG, and remember what its response serves (R322, R323), and of the span's which lease it
is of. -/
def sendRequest (s : State) (ep typ : Nat) (dest : BitVec 24) (cls : Nat) (aux : BitVec 16) (payload : List Byte)
    (what : ReqFor) (l : Nat := 16) : State :=
  let tag := Tab.get 0 s.net.tags ep
  let s := if ep = 1 then ownTag s tag l else s
  let s := sendPacket s (mkPacket typ dest (ownAddr s ep) cls tag aux payload)
  { s with net := { s.net with tags := Tab.set 0 s.net.tags ep (tag + 1)
                               out := s.net.out ++ [(65536 * ep + tag.toNat, what)] } }

/-- Enter a response in the deduplication table of an endpoint (R323): 4,096 entries, the oldest giving way. -/
def remember (s : State) (ep : Nat) (src : BitVec 24) (tag : BitVec 16) (resp : Packet) : State :=
  let mine := s.abut.dedup.filter (fun d => d.ep == ep)
  let full := decide (4096 ≤ mine.length)
  let old := match mine.head? with | some d => s.abut.dedup.erase d | none => s.abut.dedup
  let kept := if full then old else s.abut.dedup
  let s := if full then event s 0x201 1 srcNone else s
  { s with abut := { s.abut with dedup := kept ++ [⟨ep, src, tag, resp, s.now⟩] } }

/-- Answer a packet: SRC and DEST exchanged, TAG and CLASS copied (R320, R322). -/
def respond (s : State) (p : Packet) (src : BitVec 24) (typ : Nat) (aux : BitVec 16) (payload : List Byte) : State :=
  let r := mkPacket typ p.src src p.cls.toNat p.tag aux payload
  remember (sendPacket s r) (epOf src) p.src p.tag r

/-- The stored response of a request resent with RETRY (R323). -/
def dedupHit (s : State) (p : Packet) : Option Packet :=
  if p.retry then (s.abut.dedup.find? (fun d => d.ep == epOf p.dest && d.src == p.src && d.tag == p.tag)).map (·.resp)
  else none

/-- The entry of an outstanding request that a response answers. -/
def outstanding (s : State) (p : Packet) : Option ReqFor :=
  (s.net.out.find? (fun e => e.1 == 65536 * epOf p.dest + p.tag.toNat)).map (·.2)

/-- Forget an outstanding request. -/
def answered (s : State) (p : Packet) : State :=
  { s with net := { s.net with out := s.net.out.filter (fun e => e.1 != 65536 * epOf p.dest + p.tag.toNat) } }

/-- The address and count word of a READ or WRITE (R321). -/
def memWordOf (pa len : Nat) : List Byte := leBytes 8 (pa % 2 ^ 48 + (len % 2 ^ 16) * 2 ^ 48)

/-- On whose behalf the span accesses memory (R376): the lease, with CLASS, CACHE_DOMAIN and XLATE_ROOT in effect when the access or its
instruction crossed, and the instruction whose completion awaits the acknowledgement of its writes (R258). -/
structure Acc where
  l : Nat
  root : Nat
  cls : Nat
  dom : BitVec 16
  u : Option Nat := none
  deriving DecidableEq, Repr

/-- An access of a lease that crosses now. -/
def accOf (s : State) (l : Nat) : Acc := ⟨l, xlateRoot s l, leaseClass s l, cacheDomain s l, none⟩

/-- An access of an instruction. -/
def accI (i : SpanI) : Acc := ⟨i.lease, i.root.toNat, i.cls, i.dom, some i.u⟩

/-- Send a span's read or write of memory that another endpoint owns (R321, R348); none for its own Pier, whose link is the
span's own. -/
def sendMemory (s : State) (pa len : Nat) (c : Acc) (rep : Bool) (data : Option (List Byte)) (what : ReqFor) : State :=
  match mapTarget s pa with
  | none => s
  | some d =>
    if d = ownAddr s 2 then s
    else match data with
      | some bs => sendRequest s 1 0x01 d c.cls 0 (memWordOf pa len ++ bs) what c.l
      | none => sendRequest s 1 0x03 d c.cls 0
          (memWordOf pa len ++ leBytes 8 (c.dom.toNat + (if rep then 65536 else 0))) what c.l

/-! ## Directed packets (R335) -/

/-- A route or return route with one more hop in front. -/
def pushHop (w : Word) (p : Nat) : Word :=
  BitVec.ofNat 64 (((bits w 51 48 + 1) % 16) * 2 ^ 48 + ((bits w 47 0) * 16 + p % 16) % 2 ^ 48)
/-- A route without its first hop. -/
def popHop (w : Word) : Word := BitVec.ofNat 64 ((bits w 51 48 - 1) * 2 ^ 48 + bits w 47 0 / 16)

/-- A DIRECTED packet's payload from its route, return route and enclosed packet. -/
def directedBytes (route ret : Word) (inner : List Byte) : List Byte := wordBytes [route, ret] ++ inner

/-- Why a DIRECTED packet cannot leave by its first hop, if it cannot: its port is not UP, or TTL expires (R320, R322). -/
def hopFails (s : State) (pk : Packet) : Option Nat :=
  let q := bits (payloadWord pk 0) 3 0
  if ¬ portUp s q ∨ portLooped s q ∨ 14 ≤ q then some 2 else if pk.ttl.toNat ≤ 1 then some 3 else none

/-- Send a DIRECTED packet by the first hop of its route. -/
def takeHop (s : State) (arr : Nat) (pk : Packet) : State :=
  let route := payloadWord pk 0
  enqueueVia s arr (bits route 3 0) { pk with ttl := pk.ttl - 1, payload := wordBytes [popHop route] ++ pk.payload.drop 8 }

/-- The answer to a DIRECTED request: an enclosed packet along its return route. -/
def directedReply (s : State) (pk inner : Packet) : Packet :=
  mkPacket 0x15 pk.src (ownAddr s 0) 3 pk.tag 0 (directedBytes (payloadWord pk 1) 0 (headerBytes inner ++ inner.payload))

/-- Send a DIRECTED answer; one whose hop cannot take it is discarded and counted (R322). -/
def sendReply (s : State) (pk : Packet) : State := if (hopFails s pk).isSome then fabDiscard s else takeHop s 15 pk

/-- The header of the packet that a DIRECTED packet encloses: its TYPE, DEST, SRC, CLASS and TAG. -/
def enclosed (pk : Packet) : Packet :=
  let w0 := payloadWord pk 2
  let w1 := payloadWord pk 3
  { typ := fld w0 56 8, dest := fld w0 32 24, src := fld w0 8 24, cls := fld w0 6 2, retry := w0.getLsbD 5, rsv0 := fld w0 0 5
    len := fld w1 50 14, ttl := fld w1 44 6, rsv1 := fld w1 32 12, tag := fld w1 16 16, aux := fld w1 0 16, payload := [] }

/-- A DIRECTED packet that cannot go on: a request is answered with UNREACHABLE by its return route, an answer discarded (R322, R335). -/
def directedFails (s : State) (pk : Packet) (reason : Nat) : State :=
  let s := if reason = 3 then fabDiscard s else s
  let q := enclosed pk
  if isRequest q then
    sendReply s (directedReply s pk (mkPacket 0x10 q.src (ownAddr s 0) q.cls.toNat q.tag (BitVec.ofNat 16 reason) (headerBytes q)))
  else if reason = 3 then s else fabDiscard s

/-- Send a DIRECTED packet on. -/
def sendHop (s : State) (arr : Nat) (pk : Packet) : State :=
  match hopFails s pk with
  | some r => directedFails s pk r
  | none => takeHop s arr pk

/-- The lease of a packet of the span's own requests; 16 where it is no lease's (R359). -/
def packetLease (s : State) (p : Packet) : Nat :=
  if epOf p.src = 1 ∧ isOwn s p.src ∧ (isRequest p ∨ p.typ = 0x0A) then (Tab.get 0 s.net.whose p.tag.toNat + 16) % 17 else 16

/-! ## READY (R402, R404) -/

/-- READY is reached when FAB_ADDR takes effect in phase ADDRESS; START_DONE is sent once READY and ENGINE_EVENT_DEST are
both there (R404). -/
def readyCheck (s : State) : State :=
  let s := if s.eng.phase = 6 ∧ addressed s ∧ ¬ s.eng.startFail then
      { s with eng := { s.eng with phase := 7, mode := if s.eng.mode = 0 then 1 else s.eng.mode } }
    else s
  if s.eng.phase = 7 ∧ s.eng.eventDest ≠ 0 ∧ ¬ s.eng.startDone ∧ s.eng.mode ≠ 4 then
    engineReport { s with eng := { s.eng with startDone := true } } 0x69 (startStatus s) (arrayGeom s)
  else s

end Sys2Proof.Machine
end

