-- ==== Sys2Proof/Machine/Virt.lean ====
section
/-! DEFINITION. How the span reaches device memory (R15, R16, R314, R348, R460): its own stack by the Pier link, every other byte by READ
and WRITE packets to the endpoint that owns it; and the translation of a lease's virtual addresses (R373, R374, R192). -/

namespace Sys2Proof.Machine

/-! ## Memory of other endpoints (R15, R16, R348, R460) -/

/-- Whether a physical address belongs to an endpoint other than the own Pier. -/
def isFar (s : State) (pa : Nat) : Bool := (mapTarget s pa).any (fun d => d != ownAddr s 2)

/-- A run cut at every 512-byte boundary: one READ or WRITE carries at most 512 bytes (R321). -/
def cuts512 (a n : Nat) : List (Nat × Nat) :=
  if n = 0 then []
  else (List.range ((a + n - 1) / 512 - a / 512 + 1)).map (fun k =>
    let lo := max a ((a / 512 + k) * 512)
    (lo, min (a + n) ((a / 512 + k + 1) * 512) - lo))

/-- The READs that a run of other endpoints' memory takes and whose answers have not come (R15, R16). -/
def farNeeds (s : State) (l a n : Nat) : List (Nat × Nat) :=
  (cuts512 a n).filter (fun c => isFar s c.1 && !s.net.got.contains (l, c.1, c.2))

/-- Whether a run's bytes still lie with other endpoints: a unit takes them only once their READs are answered (log entry 49). -/
def farWaits (s : State) (l a n : Nat) : Bool := !(farNeeds s l a n).isEmpty

/-- Send the READs that a run needs and that are not on their way. -/
def farRead (s : State) (c : Acc) (a n : Nat) : State :=
  (farNeeds s c.l a n).foldl (fun s k =>
    if s.net.out.any (fun e => e.2 == .table c.l k.1 k.2) then s
    else sendMemory s k.1 k.2 c false none (.table c.l k.1 k.2)) s

/-- Take a run that READs have brought. -/
def farTake (s : State) (l a n : Nat) : State :=
  { s with net := { s.net with got := s.net.got.filter (fun g => !(cuts512 a n).any (fun c => g == (l, c.1, c.2))) } }

/-- Send the READs that a list of runs needs. -/
def farReads (s : State) (c : Acc) (rs : List (Nat × Nat)) : State := rs.foldl (fun s r => farRead s c r.1 r.2) s

/-- Take a list of runs that READs have brought. -/
def farTakes (s : State) (l : Nat) (rs : List (Nat × Nat)) : State := rs.foldl (fun s r => farTake s l r.1 r.2) s

/-- Forget what READs have brought for a lease, and let those on their way bring nothing for it: they are then of lease 16, nobody. -/
def forgetFar (s : State) (l : Nat) : State :=
  { s with net := { s.net with
      got := s.net.got.filter (fun g => g.1 != l)
      out := s.net.out.map (fun e => match e.2 with
        | .table k a n => if k = l then (e.1, .table 16 a n) else e
        | _ => e) } }

/-- Send the WRITEs of a record, result or image that lies with other endpoints. -/
def farWrite (s : State) (c : Acc) (a : Nat) (bs : List Byte) : State :=
  (cuts512 a bs.length).foldl (fun s k =>
    if isFar s k.1 then sendMemory s k.1 k.2 c false (some ((bs.drop (k.1 - a)).take k.2)) ((c.u.map ReqFor.result).getD .other)
    else s) s

/-- A write of the span for a lease, wherever its bytes lie. -/
def spanWrite (s : State) (c : Acc) (a : Nat) (bs : List Byte) : State := memRun (farWrite s c a bs) a bs

/-- Whether writes of an instruction to other endpoints are not acknowledged (R214, R258). -/
def writesOut (s : State) (u : Nat) : Bool := s.net.out.any (fun e => e.2 == .result u)

/-- Whether requests of a lease to other endpoints are not answered. -/
def farOut (s : State) (l : Nat) : Bool :=
  s.net.out.any (fun e => decide (e.1 / 65536 = 1 ∧ Tab.get 0 s.net.whose (e.1 % 65536) = l + 1))

/-- Addressed bytes as runs that lie within one 512-byte block. -/
def runsOf : List (Nat × Byte) → List (Nat × List Byte)
  | [] => []
  | (a, b) :: t => match runsOf t with
    | (c, bs) :: rest => if c = a + 1 ∧ c / 512 = a / 512 then (a, b :: bs) :: rest else (a, [b]) :: (c, bs) :: rest
    | [] => [(a, [b])]

/-- A write of the span for a lease, as addressed bytes. -/
def spanWrites (s : State) (c : Acc) (ws : List (Nat × Byte)) : State :=
  memWrite ((runsOf ws).foldl (fun s r => farWrite s c r.1 r.2) s) ws

/-! ## Translation (R373, R374, R192) -/

/-- The access a translation is asked for. -/
inductive Access where
  | r | w | x
  deriving DecidableEq, Repr

/-- The table entry at a level's base and index; none where the read fails: the table lies in no window, is poisoned, or is unreachable. -/
def walkRead (s : State) (base idx : Nat) : Option Word :=
  let a := base + 8 * idx
  if inMap s a 8 ∧ ¬ poisoned s a 8 ∧ ¬ cutOff s a 8 then some (memWord s a) else none

/-- Whether an entry is valid with its reserved bits 0. -/
def entryOk (e : Word) : Bool := e.getLsbD 0 && decide (bits e 11 5 = 0) && decide (bits e 63 52 = 0)

/-- The walk below a table at the level whose index lies at bit `sh` of the address (R373). -/
def walkFrom (s : State) (l : Nat) (va : Word) : Nat → Nat → Option TlbEntry
  | 0, _ => none
  | n + 1, base =>
    let lvl := 4 - (n + 1) + 1
    let sh := 12 + 9 * n
    match walkRead s base (bits va (sh + 8) sh) with
    | none => none
    | some e =>
      if ¬ entryOk e then none
      else if e.getLsbD 1 then
        if lvl = 4 then
          some ⟨l, va.toNat >>> 12, bits e 51 12, e.getLsbD 2, e.getLsbD 3, e.getLsbD 4⟩
        else if lvl = 3 ∧ bits e 20 12 = 0 then
          some ⟨l, va.toNat >>> 12, (bits e 51 21) * 512 + bits va 20 12, e.getLsbD 2, e.getLsbD 3, e.getLsbD 4⟩
        else none
      else if lvl = 4 then none
      else walkFrom s l va n (bits e 51 12 * 4096)

/-- The walk of a lease's translation for a virtual address, from the root in effect where the access crossed (R373, R376). -/
def walk (s : State) (l : Nat) (va : Word) (root : Nat := xlateRoot s l) : Option TlbEntry :=
  if bits va 63 48 ≠ 0 then none else walkFrom s l va 4 root

/-- The table entries that a walk reads, as addresses. -/
def walkAddrs (s : State) (va : Word) : Nat → Nat → List Nat
  | 0, _ => []
  | n + 1, base =>
    let sh := 12 + 9 * n
    let a := base + 8 * bits va (sh + 8) sh
    if ¬ inMap s a 8 then []
    else
      let e := memWord s a
      a :: (if entryOk e ∧ ¬ e.getLsbD 1 then walkAddrs s va n (bits e 51 12 * 4096) else [])

/-- The table entries that a translation's walk reads, as addresses. -/
def walkList (s : State) (va : Word) (root : Nat) : List Nat := if bits va 63 48 ≠ 0 then [] else walkAddrs s va 4 root

/-- The first table entry of a walk whose bytes still lie with another endpoint. Those before it have been read, so its address is right. -/
def walkNeeds (s : State) (c : Acc) (va : Word) : Option Nat := (walkList s va c.root).find? (fun a => farWaits s c.l a 8)

/-- Take the entries that a walk's READs have brought. -/
def walkTake (s : State) (c : Acc) (va : Word) : State := (walkList s va c.root).foldl (fun s a => farTake s c.l a 8) s

/-- Whether a translation permits an access. -/
def permits (e : TlbEntry) : Access → Bool
  | .r => e.r
  | .w => e.w
  | .x => e.x

/-- The physical address of a translated address. -/
def physOf (e : TlbEntry) (va : Word) : Nat := e.ppn * 4096 + bits va 11 0

/-- A translation through a cache: the walk's, or, until the invalidation of R374, any the cache still holds. The answer,
the cache after it, and the free counter after it. -/
def lookup (s : State) (cache : List TlbEntry) (l : Nat) (va : Word) (root : Nat := xlateRoot s l) :
    Option TlbEntry × List TlbEntry × Nat :=
  let w := walk s l va root
  let held := cache.filter (fun e => decide (e.lease = l ∧ e.vpn = va.toNat >>> 12))
  let keep := fun (r : Option TlbEntry) => match r with
    | some e => if cache.contains e then cache else e :: cache
    | none => cache
  if held.all (fun e => some e == w) then (w, keep w, s.free)
  else
    let cands := held.map some ++ [w]
    let r := cands.getD (Config.freeNat s.free % cands.length) w
    (r, keep r, s.free + 1)

/-- What a translation gives: the physical address, no mapping that permits the access, or that the walk still waits for the answer to a
READ of a table entry, which the state with it has sent. -/
inductive Xl where
  | at (pa : Nat)
  | no
  | wait
  deriving DecidableEq, Repr

/-- Whether a translation cache holds a page of a lease. -/
def holds (cache : List TlbEntry) (l : Nat) (va : Word) : Bool := cache.any (fun e => decide (e.lease = l ∧ e.vpn = va.toNat >>> 12))

/-- Translate through a cache: the answer, the cache and the state after it. -/
def xlateIn (s : State) (cache : List TlbEntry) (c : Acc) (va : Word) (k : Access) : Xl × List TlbEntry × State :=
  match if holds cache c.l va then none else walkNeeds s c va with
  | some a => (.wait, cache, farRead s c a 8)
  | none =>
    let r := lookup s cache c.l va c.root
    let s := if holds cache c.l va then s else walkTake s c va
    (match r.1 with
     | some e => if permits e k then .at (physOf e va) else .no
     | none => .no, r.2.1, { s with free := r.2.2 })

/-- Translate for a unit of the span, through its translation caches. -/
def xlate (s : State) (c : Acc) (va : Word) (k : Access) : Xl × State :=
  let r := xlateIn s s.xlate c va k
  (r.1, { r.2.2 with xlate := r.2.1 })

/-- A virtual run cut at page boundaries: address and length of each piece. -/
def pieces (va n : Nat) : List (Nat × Nat) :=
  if n = 0 then []
  else (List.range ((va + n - 1) / 4096 - va / 4096 + 1)).map (fun k =>
    let a := if k = 0 then va else (va / 4096 + k) * 4096
    (a, min (va + n) ((va / 4096 + k + 1) * 4096) - a))

/-- Why an access to a lease's memory fails: a page that is not mapped for it, poison at an address, or bytes that READs must bring first,
which the state with it has sent: nothing else has come about, and the unit tries again. -/
inductive MemErr where
  | page (vpn : Nat)
  | poison (addr : Nat)
  | wait
  deriving DecidableEq, Repr

/-- Translate the pieces of a run: the physical runs, or why the first that fails does. -/
def xlatePieces (c : Acc) (k : Access) : List (Nat × Nat) → State → Except MemErr (List (Nat × Nat)) × State
  | [], s => (.ok [], s)
  | (a, n) :: t, s =>
    let r := if a < 2 ^ 64 then xlate s c (BitVec.ofNat 64 a) k else (.no, s)
    match r.1 with
    | .wait => (.error .wait, r.2)
    | .no => (.error (.page (a / 4096)), r.2)
    | .at pa =>
      if ¬ inMap s pa n then (.error (.page (a / 4096)), r.2)
      else
        let q := xlatePieces c k t r.2
        (q.1.map (fun rest => (pa, n) :: rest), q.2)

/-- Physical runs once their bytes have come: the bytes, or why not (R322, R415, R475). The state after it has sent the READs that they
wait for, or has taken what READs have brought. -/
def readRuns (s : State) (c : Acc) (va : Nat) (ps : List (Nat × Nat)) : Except MemErr (List Byte) × State :=
  if ps.any (fun p => farWaits s c.l p.1 p.2) then (.error .wait, ps.foldl (fun s p => farRead s c p.1 p.2) s)
  else
    (if ps.any (fun p => cutOff s p.1 p.2) then .error (.page (va / 4096))
     else if ps.any (fun p => poisoned s p.1 p.2) then .error (.poison va)
     else .ok (ps.map (fun p => memBytes s p.1 p.2)).flatten,
     ps.foldl (fun s p => farTake s c.l p.1 p.2) s)

/-- Read a virtual run of a lease: its bytes, or the page that is not mapped readable or whose path faults (R322, R475), or poison
(R415), or a wait for READs (R15, R16). -/
def readVirt (s : State) (c : Acc) (va n : Nat) : Except MemErr (List Byte) × State :=
  let r := xlatePieces c .r (pieces va n) s
  match r.1 with
  | .error e => (.error e, r.2)
  | .ok ps => readRuns r.2 c va ps

/-- The state of a command that finds in its further reads that it has to wait: what its earlier reads brought stays for its next try. -/
def keepGot (s t : State) : State := { t with net := { t.net with got := s.net.got } }

/-- The addressed physical bytes of a virtual write, or why there are none. -/
def writeVirt (s : State) (c : Acc) (va : Nat) (bs : List Byte) : Except MemErr (List (Nat × Byte)) × State :=
  let r := xlatePieces c .w (pieces va bs.length) s
  (r.1.map (fun ps => ((ps.map (fun p => (List.range p.2).map (fun k => p.1 + k))).flatten).zip bs), r.2)

end Sys2Proof.Machine
end

