-- ==== Sys2Proof/Machine/Operands.lean ====
section
/-! DEFINITION. The words of the thread instructions (R193 to R196, R209, R210), and how a thread issues one: the state it
must be in, the decode check, the wait for a load's result, the register-file check, the advance of PC and the fetch of
the next instruction. -/

namespace Sys2Proof.Machine

/-! ## Instruction words (R193, R209) -/

/-- Format A. -/
def wA (fn : BitVec 6) (rd ra rb rsv : BitVec 5) : Half := (0 : BitVec 6) ++ rd ++ ra ++ rb ++ fn ++ rsv
/-- Formats I, M and B. -/
def wI (op : BitVec 6) (rd ra : BitVec 5) (imm : BitVec 16) : Half := op ++ rd ++ ra ++ imm
/-- Format J. -/
def wJ (op : BitVec 6) (off : BitVec 26) : Half := op ++ off
/-- Format S. -/
def wS (sub : BitVec 8) (rd ra : BitVec 5) (imm : BitVec 8) : Half := (0x2E : BitVec 6) ++ rd ++ ra ++ sub ++ imm
/-- The first word of a span instruction. -/
def wX (op : BitVec 6) (len : BitVec 2) (sub : BitVec 4) (f : BitVec 20) : Half := op ++ len ++ sub ++ f

/-- The words a span instruction has, by OP and SUB (R209); none where the table does not list them. -/
def spanWords (op sub : Nat) : Option Nat :=
  match op with
  | 0x30 => if sub < 3 then some 1 else if sub = 3 then some 2 else none
  | 0x31 => if sub = 0 ∨ sub = 2 ∨ sub = 3 then some 2 else if sub = 1 ∨ sub = 4 then some 1 else none
  | 0x32 => if sub = 0 then some 1 else none
  | 0x33 => if sub < 5 then some 1 else none
  | 0x34 => if sub = 0 then some 2 else none
  | 0x35 => if sub < 2 then some 2 else none
  | 0x36 => if sub = 0 then some 2 else none
  | 0x37 => if sub < 10 then some 2 else none
  | 0x38 => if sub < 2 then some 3 else none
  | 0x39 => if sub = 0 then some 2 else none
  | 0x3A => if sub = 0 then some 2 else none
  | 0x3B => if sub < 7 then some 1 else none
  | _ => none

/-- Whether a first word names an instruction: its opcode, FUNC or SUB is listed, and LEN matches (R193 to R196, R209). -/
def knownWord (w : Half) : Bool :=
  let op := bits w 31 26
  if op = 0 then decide (bits w 10 5 ≤ 0x13)
  else if op = 0x2E then decide (bits w 15 8 ≤ 5)
  else if op < 0x30 then
    decide (op ≤ 0x0B) || decide (0x10 ≤ op ∧ op ≤ 0x16) || decide (0x18 ≤ op ∧ op ≤ 0x1B) ||
      decide (0x20 ≤ op ∧ op ≤ 0x2A)
  else spanWords op (bits w 23 20) == some (bits w 25 24 + 1)

/-- The number of words of an instruction with a known first word. -/
def wordCount (w : Half) : Nat := if bits w 31 26 < 0x30 then 1 else bits w 25 24 + 1

/-! ## Fetch (R189) -/

/-- The instruction-cache line of a lease at a line number. -/
def icLine (k : Core) (l line : Nat) : Option ICLine := k.icache.find? (fun c => decide (c.lease = l ∧ c.line = line))

/-- The cached instruction word at an address. -/
def cachedWord (k : Core) (l : Nat) (pc : Word) : Option Half :=
  (icLine k l (pc.toNat / 64)).map (fun c => BitVec.ofNat 32 (leNat ((c.bytes.drop (pc.toNat % 64)).take 4)))

/-- The first line that the instruction at a thread's PC needs and the cache lacks. -/
def missingLine (s : State) (t : ThreadId) : Option Nat :=
  let x := getThr s t
  let k := getCore s t.core.val
  match cachedWord k x.lease x.pc with
  | none => some (x.pc.toNat / 64)
  | some w =>
    let last := (x.pc.toNat + 4 * (wordCount w - 1)) / 64
    if (icLine k x.lease last).isSome then none else some last

/-- Keep a TLB within its 64 entries (R192): a further entry takes the place of a free choice. -/
def tlbFit (c : List TlbEntry) (k : Nat) : List TlbEntry × Nat :=
  if c.length ≤ 64 then (c, k) else (c.take 1 ++ (c.drop 1).eraseIdx (Config.freeNat k % 64), k + 1)

/-- Count a TLB miss of a thread's access once its walk has ended (R192, R389). -/
def tlbMiss (s : State) (held : Bool) (x : Xl) (src : SampleSrc) : State :=
  if held ∨ x = .wait then s else event s 0x063 1 src

/-- Translate a code address of a thread through its core's instruction TLB: the physical address where the page is mapped executable
(R192). `w` is the instruction's word, as far as it is known. -/
def codeXlate (s : State) (t : ThreadId) (va : Word) (w : Half) : Xl × State :=
  let x := getThr s t
  let c := getCore s t.core.val
  let r := xlateIn s c.itlb (accOf s x.lease) va .x
  let f := tlbFit r.2.1 r.2.2.free
  let s := setCore { r.2.2 with free := f.2 } t.core.val { c with itlb := f.1 }
  (r.1, tlbMiss s (holds c.itlb x.lease va) r.1 (srcThread x t w))

/-- Fetch the next instruction of a READY thread: it waits in FETCH for a missing line (R184, R189); an unlisted opcode, FUNC or SUB
halts it at decode (R193, R201), and a cached line whose page is not mapped executable at its fetch (R192). It waits in FETCH too while a
table entry of its page is read (R373). -/
def fetchNext (s : State) (t : ThreadId) : State :=
  let x := getThr s t
  if x.st ≠ .ready then s
  else match cachedWord (getCore s t.core.val) x.lease x.pc with
    | some w =>
      let r := codeXlate s t x.pc w
      let last := x.pc + BitVec.ofNat 64 (4 * (wordCount w - 1))
      if r.1 = .wait then setThr r.2 t (waiting x .fetch)
      else if r.1 = .no then preciseFault r.2 t 0x05 x.pc 0 0
      else if ¬ knownWord w then preciseFault r.2 t 0x01 0 0 w
      else if (missingLine r.2 t).isSome then event (setThr r.2 t (waiting x .fetch)) 0x062 1 (srcThread x t w)
      else if last.toNat / 4096 = x.pc.toNat / 4096 then r.2
      else
        let q := codeXlate r.2 t last w
        if q.1 = .wait then setThr q.2 t (waiting x .fetch)
        else if q.1 = .no then preciseFault q.2 t 0x05 last 0 w
        else q.2
    | none => event (setThr s t (waiting x .fetch)) 0x062 1 (srcThread x t 0)

/-- Put a thread's new record in place with the PC it continues at, and fetch there. -/
def retire (s : State) (t : ThreadId) (x : Thread) (pc : Word) : State := fetchNext (setThr s t { x with pc := pc }) t

/-! ## Issue -/

/-- Whether a thread has an instruction that has issued, has not crossed, and may still return to it: one for which no entry was there
at its issue (R198; log entry 9). -/
def offering (s : State) (t : ThreadId) : Bool := (getCore s t.core.val).offers.any (fun o => o.th == t && !o.sure)

/-- Whether a thread may issue: READY, its core in service (R411), its lease not being saved (R363), no store of before a
save outstanding (R208), not killed (R206), no earlier instruction that may return from its crossing (R184, R198; log entry 9),
and the engine set not stopped (R417). -/
def canIssue (s : State) (t : ThreadId) : Bool :=
  let x := getThr s t
  decide (x.st = .ready) && !x.storeHold && !x.killed && !(getRt s x.lease).saving && s.eng.coresOk.getLsbD t.core.val &&
    !offering s t && !stopping s

/-- Whether a word is the one that a thread's fetch brought for a place behind its PC (R189, R193); where an invalidation has taken the line
away since, the word is whatever the thread had fetched. -/
def fetched (s : State) (t : ThreadId) (k : Nat) (w : Half) : Bool :=
  let x := getThr s t
  (cachedWord (getCore s t.core.val) x.lease (x.pc + BitVec.ofNat 64 (4 * k))).all (· == w)

/-- Whether a source register waits for a load (R184). -/
def needsLoad (x : Thread) (srcs : List (BitVec 5)) : Bool :=
  x.loads.any (fun q => q.live && decide (q.rd ≠ 0) && srcs.contains q.rd)

/-- The source registers of a waiting instruction, as a mask kept beside its wait. -/
def srcMask (srcs : List (BitVec 5)) : Word := srcs.foldl (fun m r => m ||| ((1 : Word) <<< r.toNat)) 0

/-- REG_UE on the first uncorrectable source register (R182, R201), told to the engine set as well (R407). -/
def ueFault (s : State) (t : ThreadId) (r : BitVec 5) (w : Half) : State :=
  faultNotice (preciseFault s t 0x0A (r.setWidth 64) 0 w)

/-- Count an instruction that has issued (R389). -/
def countInstr (s : State) (t : ThreadId) (x : Thread) (w : Half) : State := event s 0x060 1 (srcThread x t w)

/-- Issue an instruction whose body may still have it wait and issue again: the decode check first (R11, R201), then the wait for the
sources' loads, then the body, which counts it. A thread issues no other word than the one it has fetched (R189). -/
def issueMay (s : State) (t : ThreadId) (w : Half) (legal : Bool) (srcs : List (BitVec 5)) (body : State → Thread → State) :
    State :=
  if ¬ canIssue s t ∨ ¬ fetched s t 0 w then s
  else if ¬ legal then preciseFault s t 0x01 0 0 w
  else
    let x := getThr s t
    if needsLoad x srcs then setThr s t (waiting x .load (amount := srcMask srcs)) else body s x

/-- Issue an instruction: the decode check first (R11, R201), then the wait for the sources' loads, then its effect. -/
def issue (s : State) (t : ThreadId) (w : Half) (legal : Bool) (srcs : List (BitVec 5)) (body : State → Thread → State) :
    State :=
  issueMay s t w legal srcs (fun s x => body (countInstr s t x w) x)

/-- As `issue`, for an instruction whose only other fault is REG_UE. -/
def issueReg (s : State) (t : ThreadId) (w : Half) (legal : Bool) (srcs : List (BitVec 5))
    (body : State → Thread → State) : State :=
  issue s t w legal srcs (fun s x => match srcs.find? (isUe x) with
    | some r => ueFault s t r w
    | none => body s x)

/-- An instruction that writes RD from its sources and continues at PC + 4. -/
def alu (s : State) (t : ThreadId) (w : Half) (legal : Bool) (srcs : List (BitVec 5)) (rd : BitVec 5)
    (f : Thread → Word) : State :=
  issueReg s t w legal srcs (fun s x => retire s t (wrReg x rd (f x)) (x.pc + 4))

/-- A two-register operation of the ALU group (R195). -/
def aluRR (s : State) (t : ThreadId) (fn : BitVec 6) (rd ra rb rsv : BitVec 5) (f : Word → Word → Word) : State :=
  alu s t (wA fn rd ra rb rsv) (rsv = 0) [ra, rb] rd (fun x => f (rdReg x ra) (rdReg x rb))

/-- A one-register operation of the ALU group, with RB reserved (R195). -/
def aluR (s : State) (t : ThreadId) (fn : BitVec 6) (rd ra rb rsv : BitVec 5) (f : Word → Word) : State :=
  alu s t (wA fn rd ra rb rsv) (rsv = 0 ∧ rb = 0) [ra] rd (fun x => f (rdReg x ra))

/-- An immediate operation (R194). -/
def aluI (s : State) (t : ThreadId) (op : BitVec 6) (legal : Bool) (rd ra : BitVec 5) (imm : BitVec 16)
    (f : Word → Word) : State :=
  alu s t (wI op rd ra imm) legal [ra] rd (fun x => f (rdReg x ra))

/-! ## Memory (R190, R192) -/

/-- Translate a data access of a thread through its core's data TLB: the physical address where the access is permitted
and its bytes lie in a window. -/
def dataXlate (s : State) (t : ThreadId) (w : Half) (va : Word) (n : Nat) (k : Access) : Xl × State :=
  let x := getThr s t
  let c := getCore s t.core.val
  let r := xlateIn s c.dtlb (accOf s x.lease) va k
  let f := tlbFit r.2.1 r.2.2.free
  let s := setCore { r.2.2 with free := f.2 } t.core.val { c with dtlb := f.1 }
  let s := tlbMiss s (holds c.dtlb x.lease va) r.1 (srcThread x t w)
  match r.1 with
  | .at pa => if inMap s pa n then (.at pa, s) else (.no, s)
  | a => (a, s)

/-- Extend a loaded value to 64 bits. -/
def loadValue (bytes : Nat) (signed : Bool) (v : Nat) : Word :=
  if signed then (BitVec.ofNat (8 * bytes) v).signExtend 64 else BitVec.ofNat 64 v

/-- The TAG that the span's next request takes, where the bytes lie with another endpoint (R323, R348). -/
def farTag (s : State) (pa : Nat) : Option Nat := if isFar s pa then some (Tab.get 0 s.net.tags 1).toNat else none

/-- A load (R190, R194): alignment, translation, the limit of four, and an outstanding request that LOAD_RETURN ends. Bytes of another
endpoint are asked for by a READ (R16, R348). While its page's table entries are read, or four loads are out, it waits and issues again. -/
def doLoad (s : State) (t : ThreadId) (op : BitVec 6) (rd ra : BitVec 5) (imm : BitVec 16) (bytes : Nat) (signed : Bool) :
    State :=
  let w := wI op rd ra imm
  issueMay s t w true [ra] (fun s x =>
    let va := rdReg x ra + imm.signExtend 64
    if isUe x ra then ueFault (countInstr s t x w) t ra w
    else if va.toNat % bytes ≠ 0 then preciseFault (countInstr s t x w) t 0x04 va (BitVec.ofNat 64 bytes) w
    else
      let r := dataXlate s t w va bytes .r
      match r.1 with
      | .wait => r.2
      | .no => preciseFault (countInstr r.2 t x w) t 0x06 va 1 w
      | .at pa =>
        if 4 ≤ x.loads.length then setThr r.2 t (waiting x .load)
        else
          let r := (pa, countInstr r.2 t x w)
          let older := x.loads.map (fun q => if q.rd = rd then { q with live := false } else q)
          let q : LoadReq := { rd := rd, bytes := bytes, signed := signed, va := va, pa := pa
                               val := loadValue bytes signed (leNat (memBytes r.2 pa bytes))
                               poison := false, live := true, fixed := false, pc := x.pc, w := w, far := farTag r.2 pa }
          let s := if isFar r.2 pa then sendMemory r.2 pa bytes (accOf r.2 x.lease) false none (.load t) else r.2
          retire s t { x with loads := older ++ [q] } (x.pc + 4))

/-- Whether two byte runs overlap. -/
def overlap (a n b m : Nat) : Bool := decide (a < b + m ∧ b < a + n)

/-- A store (R190, R194): alignment, translation, the limit of eight, and the write, by a WRITE where the bytes lie with another endpoint
(R16, R348). An outstanding load of overlapping bytes keeps the value it had before (R190, program order). -/
def doStore (s : State) (t : ThreadId) (op : BitVec 6) (rs ra : BitVec 5) (imm : BitVec 16) (bytes : Nat) : State :=
  let w := wI op rs ra imm
  issueMay s t w true [ra, rs] (fun s x =>
    if isUe x ra then ueFault (countInstr s t x w) t ra w
    else
      let va := rdReg x ra + imm.signExtend 64
      if va.toNat % bytes ≠ 0 then preciseFault (countInstr s t x w) t 0x04 va (BitVec.ofNat 64 bytes) w
      else
        let r := dataXlate s t w va bytes .w
        match r.1 with
        | .wait => r.2
        | .no => preciseFault (countInstr r.2 t x w) t 0x06 va 2 w
        | .at pa =>
          if isUe x rs then ueFault (countInstr r.2 t x w) t rs w
          else if 8 ≤ x.stores.length then setThr r.2 t (waiting x .store)
          else
            let r := (pa, countInstr r.2 t x w)
            let old := memBytes r.2 pa bytes
            let data := leBytes bytes (rdReg x rs).toNat
            let s := memRun r.2 pa data
            let s := if isFar s pa then sendMemory s pa bytes (accOf s x.lease) false (some data) (.store t) else s
            let ls := x.loads.map (fun q => if overlap q.pa q.bytes pa bytes then { q with fixed := true } else q)
            let q : StoreReq := { pa := pa, bytes := bytes, old := old, far := farTag r.2 pa, va := va, pc := x.pc, w := w }
            retire s t { x with stores := x.stores ++ [q], loads := ls } (x.pc + 4))

/-! ## Branches (R187, R188) -/

/-- Train the predictor with a resolved branch, and count a misprediction, which the predictor's open parts leave free.
Neither changes a result (R188). -/
def train (s : State) (t : ThreadId) (x : Thread) (taken : Bool) (target : Word) (w : Half) : State :=
  let c := getCore s t.core.val
  let k := Config.predIndex x.pc % 4096
  let p := Tab.get {} c.pred k
  let p' : PredEntry := { valid := true, dir := Config.predDir p.dir taken, target := target, lease := x.lease }
  let s := setCore s t.core.val { c with pred := Tab.set {} c.pred k p' }
  let miss := Config.freeBit s.free
  let s := { s with free := s.free + 1 }
  if miss then event s 0x061 1 (srcThread x t w) else s

/-- A conditional branch (R194). -/
def branch (s : State) (t : ThreadId) (op : BitVec 6) (ra rb : BitVec 5) (off : BitVec 16) (c : Word → Word → Bool) :
    State :=
  let w := wI op ra rb off
  issueReg s t w true [ra, rb] (fun s x =>
    let taken := c (rdReg x ra) (rdReg x rb)
    let target := x.pc + (off.signExtend 64) * 4
    retire (train s t x taken target w) t x (if taken then target else x.pc + 4))

/-- Push the return stack of four entries (R187). -/
def pushRas (x : Thread) (a : Word) : Thread := { x with ras := (a :: x.ras).take 4 }

end Sys2Proof.Machine
end

