-- ==== Sys2Proof/Machine/Counter.lean ====
section
/-! DEFINITION. The CNT family, the end of counter waits, and the host's debug view of the counters (R245 to R267, R463). -/

namespace Sys2Proof.Machine

/-- Whether a stream is an armed ring stream that names a counter as DATA_CNT (R250). -/
def ringOn (x : Stream) (n : Nat) : Bool :=
  let w := x.desc.getD 7 0
  x.st ≠ .unarmed && decide (bits w 20 18 < 2) && decide (bits w 55 48 = n)

/-- Whether a capacity is legal for a counter as it stands (R250). -/
def capOk (s : State) (n : Nat) (a : Word) : Bool :=
  a ≠ 0 && decide (a.toNat ≤ 0xFFFFFFFF) && decide (avail (getCnt s n) ≤ a.toNat) &&
    s.str.all (fun kx => !ringOn kx.2 n || decide (bits (kx.2.desc.getD 7 0) 46 41 ≤ a.toNat))

/-- Issue a CNT instruction (R210, R245): the decode checks, the counter's range (R261), a fault of the family, which R201
lists before REG_UE, the register-file check, and the operation on the counter number and the amount. `rdFree` marks
`CNT.RDP` and `CNT.RDC`, which read no register. -/
def cntOp (s : State) (t : ThreadId) (sub : BitVec 4) (len : BitVec 2) (f : BitVec 20) (rdFree : Bool)
    (body : State → Thread → Nat → Word → Half → State) : State :=
  let w := wX 0x3B len sub f
  let rd : BitVec 5 := fld f 15 5
  let ra : BitVec 5 := fld f 10 5
  let imm := f.getLsbD 9
  let n := bits f 7 0
  let srcs := if imm ∨ rdFree then [] else [ra]
  issue s t w (len = 0 ∧ f.getLsbD 8 = false ∧ (rdFree ∨ rd = 0)) srcs (fun s x =>
    if ¬ cntInRange s x.lease n then preciseFault s t 0x02 (BitVec.ofNat 64 n) 1 w
    else match srcs.find? (isUe x) with
      | some r => ueFault s t r w
      | none => body s x n (if imm then ra.setWidth 64 else rdReg x ra) w)

/-- WAIT_ARG of a counter wait (R207). -/
def cntArg (n : Nat) (a : Word) : Word := (a <<< 8) ||| BitVec.ofNat 64 n

/-- `CNT.SIG`: CNT_OVERFLOW where it would break R249 (R254). -/
def execCntSig (t : ThreadId) (len : BitVec 2) (f : BitVec 20) (s : State) : Result :=
  .next (cntOp s t 0 len f false (fun s x n a w => match sigCnt (getCnt s n) a with
    | some c => retire (setCnt s n c) t x (x.pc + 4)
    | none => preciseFault s t 0x08 (BitVec.ofNat 64 n) a w))

/-- `CNT.TAKE`: CNT_UNDERFLOW where the amount exceeds the availability (R253, R254). -/
def execCntTake (t : ThreadId) (len : BitVec 2) (f : BitVec 20) (s : State) : Result :=
  .next (cntOp s t 1 len f false (fun s x n a w => match takeCnt (getCnt s n) a with
    | some c => retire (setCnt s n c) t x (x.pc + 4)
    | none => preciseFault s t 0x07 (BitVec.ofNat 64 n) a w))

/-- `CNT.WAIT`: check 8 where the amount exceeds CAPACITY (R257); continues at once where it is available. -/
def execCntWait (t : ThreadId) (len : BitVec 2) (f : BitVec 20) (s : State) : Result :=
  .next (cntOp s t 2 len f false (fun s x n a w =>
    if (getCnt s n).cap.toNat < a.toNat then preciseFault s t 0x03 8 0 w
    else if a.toNat ≤ avail (getCnt s n) then retire s t x (x.pc + 4)
    else setThr s t (waiting x .counter (cntArg n a) a)))

/-- `CNT.WTAKE`: as `CNT.WAIT`, with the take at the end of the wait. -/
def execCntWtake (t : ThreadId) (len : BitVec 2) (f : BitVec 20) (s : State) : Result :=
  .next (cntOp s t 3 len f false (fun s x n a w =>
    if (getCnt s n).cap.toNat < a.toNat then preciseFault s t 0x03 8 0 w
    else match takeCnt (getCnt s n) a with
      | some c => retire (setCnt s n c) t x (x.pc + 4)
      | none => setThr s t (waiting x .counter (cntArg n a) a .take)))

/-- `CNT.RDP`. -/
def execCntRdp (t : ThreadId) (len : BitVec 2) (f : BitVec 20) (s : State) : Result :=
  .next (cntOp s t 4 len f true (fun s x n _ _ => retire s t (wrReg x (fld f 15 5) (getCnt s n).p) (x.pc + 4)))

/-- `CNT.RDC`. -/
def execCntRdc (t : ThreadId) (len : BitVec 2) (f : BitVec 20) (s : State) : Result :=
  .next (cntOp s t 5 len f true (fun s x n _ _ => retire s t (wrReg x (fld f 15 5) (getCnt s n).c) (x.pc + 4)))

/-- `CNT.CAP`: check 8 in the cases of R250. -/
def execCntCap (t : ThreadId) (len : BitVec 2) (f : BitVec 20) (s : State) : Result :=
  .next (cntOp s t 6 len f false (fun s x n a w =>
    if capOk s n a then retire (setCnt s n { getCnt s n with cap := a.setWidth 32 }) t x (x.pc + 4)
    else preciseFault s t 0x03 8 0 w))

/-- Judge one waiting thread against a counter: its wait ends where its amount is available, with its take where `take`
(R252). -/
def judgeWaiter (n : Nat) (take : Bool) (s : State) (t : ThreadId) : State :=
  let x := getThr s t
  if x.st = .waiting ∧ x.reason = .counter ∧ bits x.arg 7 0 = n ∧ decide (x.after = .take) = take ∧
      x.amount.toNat ≤ avail (getCnt s n) then
    let s := if take then unitTake s n x.amount else s
    retire s t (ready x) (x.pc + 4)
  else s

/-- COUNTER_WAIT_END (R252): every `CNT.WTAKE` waiter is judged in source order, each after the takes before it, then every
`CNT.WAIT`. -/
def execCounterWaitEnd (n : Fin 192) (s : State) : Result :=
  .next (allThreads.foldl (judgeWaiter n.val false) (allThreads.foldl (judgeWaiter n.val true) s))

/-! ## The debug view (R267, R463) -/

/-- Whether the span applies host register writes: from the end of SCRUB (R451). -/
def hostWrites (s : State) : Bool := s.eng.scrubDone

/-- CNT_SIGNAL (R463): a signal through the debug view, applied whatever the counter's lease state. No counter rises once a
stop has begun (R417). -/
def cntSignalWrite (s : State) (n : Nat) (v : Word) : State :=
  if stopping s then s
  else match sigCnt (getCnt s n) v with
    | some c => setCnt s n c
    | none => refuseSignal s n v

/-- CNT_CFG (R463): the W1C bits, and a CAPACITY that differs from the current one judged under R250. -/
def cntCfgWrite (s : State) (n : Nat) (v : Word) : State :=
  let v := w1c s .span (0x20010 + 32 * n) v
  let c := getCnt s n
  let c := if v.getLsbD 33 then { c with ovf := false } else c
  let c := if v.getLsbD 34 then { c with capRefused := false } else c
  let a : Half := fld v 0 32
  if a = c.cap then setCnt s n c
  else if capOk s n (a.setWidth 64) then setCnt s n { c with cap := a }
  else setCnt s n { c with capRefused := true }

/-- A write of P or C (R463): only where no position holds the counter, and never one that would break R249. -/
def cntPcWrite (s : State) (n : Nat) (half : Bool) (v : Word) : State :=
  let c := getCnt s n
  let c' := if half then { c with c := v, copyBad := 0 } else { c with p := v, copyBad := 0 }
  if (cntOwner s n).isSome then s
  else if c'.c.toNat ≤ c'.p.toNat ∧ c'.p.toNat - c'.c.toNat ≤ c'.cap.toNat then setCnt s n c' else s

def execCntSignal (n : Fin 192) (v : BitVec 64) (s : State) : Result :=
  .next (if hostWrites s then cntSignalWrite s n.val v else s)
def execCntCfg (n : Fin 192) (v : BitVec 64) (s : State) : Result :=
  .next (if hostWrites s then cntCfgWrite s n.val v else s)
def execCntPcWrite (n : Fin 192) (half : Bool) (v : BitVec 64) (s : State) : Result :=
  .next (if hostWrites s then cntPcWrite s n.val half v else s)

end Sys2Proof.Machine
end

