-- ==== Sys2Proof/Machine/SpanIssue.lean ====
section
/-! DEFINITION. The span instructions as a thread issues them (R209, R210), their crossing into the span (R198, R199,
R211), and the end of a wait for a queue entry. -/

namespace Sys2Proof.Machine

/-! ## Queues and the checks of the crossing (R198, R211) -/

/-- The slots a chain instruction's second and third words name, S0 first (R242). -/
def chainSlots (w1 w2 : Half) : List Nat :=
  [bits w1 29 25, bits w1 24 20, bits w1 19 15, bits w1 14 10, bits w1 9 5, bits w1 4 0, bits w2 26 22, bits w2 21 17]
/-- Slots named by a chain instruction. -/
def chainNslot (w2 : Half) : Nat := bits w2 16 14 + 1
/-- The queue of an instruction: 0 ARRAY, 1 GIRDER, 2 STREAM, 3 VECTOR, 4 LINK (R198). -/
def queueOf : SpanOp → Nat
  | .passFwd | .passDx | .passDw | .passPair | .rowsetCommit => 0
  | .slotOpen | .slotClose | .slotSpill | .slotFill | .slotStat | .drain => 1
  | .streamArm | .streamRearm | .streamRearmRows | .streamResume | .streamQuiesce => 2
  | .rotMatrix | .rotSmooth | .scaleUpdate | .vec _ => 3
  | .chainSend | .chainRecv | .mcSend | .updIssue => 4

/-- The instructions that have issued and not crossed, for which an entry is kept (log entry 9). -/
def sureOffers (s : State) : List SpanI :=
  ((List.range 4).map (fun c => (getCore s c).offers.filter (·.sure))).flatten

/-- Entries a lease holds in a queue, those kept for instructions on their way included. -/
def queueCount (s : State) (q l : Nat) : Nat :=
  (s.instrs.filter (fun i => decide (i.stage = .queued ∧ queueOf i.op = q ∧ i.lease = l))).length +
    ((sureOffers s).filter (fun i => decide (queueOf i.op = q ∧ i.lease = l))).length

/-- Whether an entry of a queue is available to a lease: two reserved, or one of the 32 shared of which it holds fewer than
16 (R198). -/
def queueRoom (s : State) (q l : Nat) : Bool :=
  let n := queueCount s q l
  let shared := sumL ((List.range 16).map (fun k => queueCount s q k - 2))
  decide (n < 2 ∨ (n - 2 < 16 ∧ shared < 32))

/-- The last word of an instruction, where it carries SIG and CNT (R211). -/
def lastWord (i : SpanI) : Option Half :=
  match i.op with
  | .slotSpill | .slotFill | .rowsetCommit | .rotMatrix | .rotSmooth | .scaleUpdate | .vec _ | .mcSend | .updIssue =>
    some i.w1
  | .chainSend | .chainRecv => some i.w2
  | _ => none

/-- The counter an instruction's SIG field names. -/
def sigCounter (i : SpanI) : Option Nat :=
  (lastWord i).bind (fun w => if w.getLsbD 8 then some (bits w 7 0) else none)

/-- The slots an instruction's words name (R211). -/
def slotsNamed (i : SpanI) : List Nat :=
  match i.op with
  | .slotOpen | .slotClose | .slotSpill | .slotFill | .slotStat => [bits i.w0 4 0]
  | .chainSend | .chainRecv => (chainSlots i.w1 i.w2).take (chainNslot i.w2)
  | _ => []

/-- Whether a slot is bound to another lease than l (R106). -/
def slotForeign (s : State) (l x : Nat) : Bool := decide ((getSlot s x).st ≠ .free ∧ (getSlot s x).lease ≠ l)

/-- Whether an instruction names a stream context. -/
def namesCtx (i : SpanI) : Bool := decide (bits i.w0 31 26 = 0x33)

/-- The privilege fault of the crossing, resource number and kind (R211, R204); none where every check passes. -/
def crossFault (s : State) (i : SpanI) : Option (Nat × Nat) :=
  match sigCounter i with
  | some n => if cntInRange s i.lease n then none' i else some (n, 1)
  | none => none' i
where
  none' (i : SpanI) : Option (Nat × Nat) :=
    match (slotsNamed i).find? (slotForeign s i.lease) with
    | some x => some (x, 3)
    | none =>
      let c := bits i.w0 4 0
      if namesCtx i ∧ ¬ (ctxMask s i.lease).getLsbD c then some (c, 2) else none

/-- Whether an instruction is a `STREAM.REARM`. -/
def isRearm : SpanOp → Bool
  | .streamRearm | .streamRearmRows => true
  | _ => false

/-- Whether a `STREAM.REARM` must wait in its thread for an earlier one of its context to be taken (R172). -/
def rearmBusy (s : State) (i : SpanI) : Bool :=
  isRearm i.op && (s.instrs ++ sureOffers s).any (fun j => isRearm j.op && bits j.w0 4 0 == bits i.w0 4 0)

/-- Whether an instruction that issues is sure to cross: its checks pass, and an entry is there for it. `SLOT.STAT`, whose thread waits
for the crossing, is never so. -/
def sureToCross (s : State) (i : SpanI) : Bool :=
  decide (i.op ≠ .slotStat) && (crossFault s i).isNone && !rearmBusy s i && queueRoom s (queueOf i.op) i.lease

/-! ## Issue -/

/-- The mark of a LOAD wait that only the crossing of `SLOT.STAT` ends. -/
def statWait : Word := 1 <<< 63

/-- Issue a span instruction: its register operands are read now (R198) and it is offered for the crossing. `ra` to `rd`
are the registers of its first to fourth operand, `g0` where it has none. -/
def spanIssue (s : State) (t : ThreadId) (op : SpanOp) (opc : BitVec 6) (sub : BitVec 4) (len : BitVec 2) (f : BitVec 20)
    (legal : Bool) (ra rb rc rd : BitVec 5) (w1 : Half := 0) (w2 : Half := 0) : State :=
  let w := wX opc len sub f
  let n := (spanWords opc.toNat sub.toNat).getD 1
  if (1 < n ∧ ¬ fetched s t 1 w1) ∨ (2 < n ∧ ¬ fetched s t 2 w2) then s
  else issueReg s t w (legal && decide (len.toNat + 1 = n)) [ra, rb, rc, rd] (fun s x =>
    let i : SpanI := { op := op, lease := x.lease, th := t, inst := x.inst, pc := x.pc, w0 := w, w1 := w1, w2 := w2,
                       a := rdReg x ra, b := rdReg x rb, c := rdReg x rc, d := rdReg x rd }
    let k := getCore s t.core.val
    let s := setCore s t.core.val { k with offers := k.offers ++ [{ i with sure := sureToCross s i }] }
    if op = .slotStat then setThr s t (waiting x .load (amount := statWait)) else retire s t x (x.pc + BitVec.ofNat 64 (4 * n)))

/-- The register fields of a first word (R210). -/
def fRA (f : BitVec 20) : BitVec 5 := fld f 15 5
def fRB (f : BitVec 20) : BitVec 5 := fld f 10 5
def fRC (f : BitVec 20) : BitVec 5 := fld f 5 5
def fLow (f : BitVec 20) : BitVec 5 := fld f 0 5

/-- SIG and CNT of a last word: CNT is 0 where SIG is 0 (R211). -/
def sigOk (w : Half) : Bool := w.getLsbD 8 || decide (bits w 7 0 = 0)

def execPassFwd (t : ThreadId) (len : BitVec 2) (f : BitVec 20) (s : State) : Result :=
  .next (spanIssue s t .passFwd 0x30 0 len f (fRB f = 0 ∧ bits f 2 0 = 0) (fRA f) 0 (fRC f) 0)
def execPassDx (t : ThreadId) (len : BitVec 2) (f : BitVec 20) (s : State) : Result :=
  .next (spanIssue s t .passDx 0x30 1 len f (fRB f = 0 ∧ bits f 2 0 = 0) (fRA f) 0 (fRC f) 0)
def execPassDw (t : ThreadId) (len : BitVec 2) (f : BitVec 20) (s : State) : Result :=
  .next (spanIssue s t .passDw 0x30 2 len f (fRB f = 0 ∧ bits f 2 0 = 0) (fRA f) 0 (fRC f) 0)
/-- `PASS.PAIR`: the second word holds ALT_X − 1 and ALT_W − 1 (R222). -/
def execPassPair (t : ThreadId) (len : BitVec 2) (f : BitVec 20) (w1 : BitVec 32) (s : State) : Result :=
  .next (spanIssue s t .passPair 0x30 3 len f (bits f 2 0 = 0 ∧ bits w1 31 8 = 0) (fRA f) (fRB f) (fRC f) 0 w1)

/-- `SLOT.OPEN`: a zero N, FR or FC is illegal at decode (R217, R225). -/
def execSlotOpen (t : ThreadId) (len : BitVec 2) (f : BitVec 20) (w1 : BitVec 32) (s : State) : Result :=
  .next (spanIssue s t .slotOpen 0x31 0 len f
    (fRB f = 0 ∧ fRC f = 0 ∧ bits w1 15 13 = 0 ∧ bits w1 12 0 ≠ 0 ∧ bits w1 22 20 ≠ 0 ∧ bits w1 19 16 ≠ 0)
    (fRA f) 0 0 0 w1)
def execSlotClose (t : ThreadId) (len : BitVec 2) (f : BitVec 20) (s : State) : Result :=
  .next (spanIssue s t .slotClose 0x31 1 len f (fRA f = 0 ∧ fRB f = 0 ∧ fRC f = 0) 0 0 0 0)
def execSlotSpill (t : ThreadId) (len : BitVec 2) (f : BitVec 20) (w1 : BitVec 32) (s : State) : Result :=
  .next (spanIssue s t .slotSpill 0x31 2 len f (fRA f = 0 ∧ fRB f = 0 ∧ bits w1 31 9 = 0 ∧ sigOk w1) 0 0 (fRC f) 0 w1)
def execSlotFill (t : ThreadId) (len : BitVec 2) (f : BitVec 20) (w1 : BitVec 32) (s : State) : Result :=
  .next (spanIssue s t .slotFill 0x31 3 len f (fRA f = 0 ∧ fRB f = 0 ∧ bits w1 31 9 = 0 ∧ sigOk w1) 0 0 (fRC f) 0 w1)
/-- `SLOT.STAT`: the thread waits in LOAD until the crossing writes RD (R227). -/
def execSlotStat (t : ThreadId) (len : BitVec 2) (f : BitVec 20) (s : State) : Result :=
  .next (spanIssue s t .slotStat 0x31 4 len f (fRA f = 0 ∧ fRC f = 0) 0 0 0 0)
def execDrain (t : ThreadId) (len : BitVec 2) (f : BitVec 20) (s : State) : Result :=
  .next (spanIssue s t .drain 0x32 0 len f (fRB f = 0 ∧ bits f 2 0 = 0) (fRA f) 0 (fRC f) 0)

def execStreamArm (t : ThreadId) (len : BitVec 2) (f : BitVec 20) (s : State) : Result :=
  .next (spanIssue s t .streamArm 0x33 0 len f (fRB f = 0) (fRA f) 0 (fRC f) 0)
def execStreamRearm (t : ThreadId) (len : BitVec 2) (f : BitVec 20) (s : State) : Result :=
  .next (spanIssue s t .streamRearm 0x33 1 len f (fRB f = 0) (fRA f) 0 (fRC f) 0)
def execStreamRearmRows (t : ThreadId) (len : BitVec 2) (f : BitVec 20) (s : State) : Result :=
  .next (spanIssue s t .streamRearmRows 0x33 4 len f true (fRA f) (fRB f) (fRC f) 0)
def execStreamResume (t : ThreadId) (len : BitVec 2) (f : BitVec 20) (s : State) : Result :=
  .next (spanIssue s t .streamResume 0x33 2 len f (fRA f = 0 ∧ fRB f = 0) 0 0 (fRC f) 0)
def execStreamQuiesce (t : ThreadId) (len : BitVec 2) (f : BitVec 20) (s : State) : Result :=
  .next (spanIssue s t .streamQuiesce 0x33 3 len f (fRA f = 0 ∧ fRB f = 0) 0 0 (fRC f) 0)

def execRowsetCommit (t : ThreadId) (len : BitVec 2) (f : BitVec 20) (w1 : BitVec 32) (s : State) : Result :=
  .next (spanIssue s t .rowsetCommit 0x34 0 len f (fRB f = 0 ∧ fLow f = 0 ∧ bits w1 31 9 = 0 ∧ sigOk w1) (fRA f) 0
    (fRC f) 0 w1)
/-- `ROT.LOAD` matrix: N is 0 (R236). -/
def execRotLoadMatrix (t : ThreadId) (len : BitVec 2) (f : BitVec 20) (w1 : BitVec 32) (s : State) : Result :=
  .next (spanIssue s t .rotMatrix 0x35 0 len f (fLow f = 0 ∧ bits w1 31 12 = 0 ∧ bits w1 9 9 = 0 ∧ sigOk w1)
    (fRA f) (fRB f) (fRC f) 0 w1)
/-- `ROT.LOAD` smoothing: ROT_SLOT is 0 (R237). -/
def execRotLoadSmooth (t : ThreadId) (len : BitVec 2) (f : BitVec 20) (w1 : BitVec 32) (s : State) : Result :=
  .next (spanIssue s t .rotSmooth 0x35 1 len f (bits w1 11 9 = 0 ∧ sigOk w1) (fRA f) (fRB f) (fRC f) (fLow f) w1)
/-- `SCALE.UPDATE`: the second word holds GATHER in [23:16] (R238). -/
def execScaleUpdate (t : ThreadId) (len : BitVec 2) (f : BitVec 20) (w1 : BitVec 32) (s : State) : Result :=
  .next (spanIssue s t .scaleUpdate 0x36 0 len f
    (fRB f = 0 ∧ fLow f = 0 ∧ bits w1 31 24 = 0 ∧ bits w1 15 9 = 0 ∧ sigOk w1) (fRA f) 0 (fRC f) 0 w1)

/-- A VEC instruction (R239). -/
def vecIssue (k : Fin 10) (t : ThreadId) (len : BitVec 2) (f : BitVec 20) (w1 : BitVec 32) (s : State) : State :=
  spanIssue s t (.vec k) 0x37 (BitVec.ofNat 4 k.val) len f (fRB f = 0 ∧ fLow f = 0 ∧ bits w1 31 9 = 0 ∧ sigOk w1)
    (fRA f) 0 (fRC f) 0 w1
def execVecAdd (t : ThreadId) (len : BitVec 2) (f : BitVec 20) (w1 : BitVec 32) (s : State) : Result :=
  .next (vecIssue 0 t len f w1 s)
def execVecMul (t : ThreadId) (len : BitVec 2) (f : BitVec 20) (w1 : BitVec 32) (s : State) : Result :=
  .next (vecIssue 1 t len f w1 s)
def execVecFma (t : ThreadId) (len : BitVec 2) (f : BitVec 20) (w1 : BitVec 32) (s : State) : Result :=
  .next (vecIssue 2 t len f w1 s)
def execVecAxpb (t : ThreadId) (len : BitVec 2) (f : BitVec 20) (w1 : BitVec 32) (s : State) : Result :=
  .next (vecIssue 3 t len f w1 s)
def execVecRsum (t : ThreadId) (len : BitVec 2) (f : BitVec 20) (w1 : BitVec 32) (s : State) : Result :=
  .next (vecIssue 4 t len f w1 s)
def execVecCsum (t : ThreadId) (len : BitVec 2) (f : BitVec 20) (w1 : BitVec 32) (s : State) : Result :=
  .next (vecIssue 5 t len f w1 s)
def execVecRssq (t : ThreadId) (len : BitVec 2) (f : BitVec 20) (w1 : BitVec 32) (s : State) : Result :=
  .next (vecIssue 6 t len f w1 s)
def execVecRsqrt (t : ThreadId) (len : BitVec 2) (f : BitVec 20) (w1 : BitVec 32) (s : State) : Result :=
  .next (vecIssue 7 t len f w1 s)
def execVecArgmax (t : ThreadId) (len : BitVec 2) (f : BitVec 20) (w1 : BitVec 32) (s : State) : Result :=
  .next (vecIssue 8 t len f w1 s)
def execVecArgmin (t : ThreadId) (len : BitVec 2) (f : BitVec 20) (w1 : BitVec 32) (s : State) : Result :=
  .next (vecIssue 9 t len f w1 s)

/-- The decode rules of a chain instruction's further words (R242). -/
def chainOk (w1 w2 : Half) : Bool :=
  decide (bits w1 31 30 = 0 ∧ bits w2 31 27 = 0 ∧ bits w2 13 9 = 0) && sigOk w2 &&
    ((chainSlots w1 w2).drop (chainNslot w2)).all (fun x => x == 0)
def execChainSend (t : ThreadId) (len : BitVec 2) (f : BitVec 20) (w1 w2 : BitVec 32) (s : State) : Result :=
  .next (spanIssue s t .chainSend 0x38 0 len f (fRB f = 0 ∧ fLow f = 0 ∧ chainOk w1 w2) (fRA f) 0 (fRC f) 0 w1 w2)
def execChainRecv (t : ThreadId) (len : BitVec 2) (f : BitVec 20) (w1 w2 : BitVec 32) (s : State) : Result :=
  .next (spanIssue s t .chainRecv 0x38 1 len f (fRB f = 0 ∧ fLow f = 0 ∧ chainOk w1 w2) (fRA f) 0 (fRC f) 0 w1 w2)
/-- `MC.SEND`: the second word holds the group in [31:16] (R243). -/
def execMcSend (t : ThreadId) (len : BitVec 2) (f : BitVec 20) (w1 : BitVec 32) (s : State) : Result :=
  .next (spanIssue s t .mcSend 0x39 0 len f (fLow f = 0 ∧ bits w1 15 9 = 0 ∧ sigOk w1) (fRA f) (fRB f) (fRC f) 0 w1)
def execUpdIssue (t : ThreadId) (len : BitVec 2) (f : BitVec 20) (w1 : BitVec 32) (s : State) : Result :=
  .next (spanIssue s t .updIssue 0x3A 0 len f (fRB f = 0 ∧ fLow f = 0 ∧ bits w1 31 9 = 0 ∧ sigOk w1) (fRA f) 0 (fRC f)
    0 w1)

/-! ## The descriptor cache and the slots of an instruction (R110, R213) -/

/-- Whether an instruction is the AO form of a pass or DRAIN, and whether it reloads its descriptor. -/
def isAO (i : SpanI) : Bool :=
  match i.op with
  | .passFwd | .passDx | .passDw | .passPair | .drain => i.w0.getLsbD 4
  | _ => false
def isReload (i : SpanI) : Bool :=
  match i.op with
  | .passFwd | .passDx | .passDw | .passPair | .drain => i.w0.getLsbD 3
  | _ => false

/-- The cached entry of a lease at an address. -/
def cachedEntry (s : State) (l a : Nat) : Option DescEntry := s.dcache.find? (fun e => decide (e.lease = l ∧ e.addr = a))

/-- The addresses of the 64-byte entries that a descriptor of n bytes takes. -/
def entryAddrs (a n : Nat) : List Nat := (List.range (n / 64)).map (fun k => a + 64 * k)

/-- Whether a descriptor is cached whole. -/
def descCached (s : State) (l a n : Nat) : Bool := (entryAddrs a n).all (fun x => (cachedEntry s l x).isSome)

/-- The words of a descriptor of n bytes as the cache has them. -/
def cachedDesc (s : State) (l a n : Nat) : Option (List Word) :=
  if descCached s l a n then some (((entryAddrs a n).filterMap (cachedEntry s l)).map (·.words)).flatten else none

def pdSlot (d : List Word) : Nat := bits (d.getD 6 0) 43 39
def pdCnt (d : List Word) : Nat := bits (d.getD 6 0) 7 0
/-- Slots a drain descriptor names, S0 first (R229). -/
def ddNslot (d : List Word) : Nat := bits (d.getD 8 0) 23 21 + 1
def ddSlotList (d : List Word) : List Nat := (List.range 8).map (fun k => bits (d.getD 8 0) (63 - 5 * k) (59 - 5 * k))
def ddSlots (d : List Word) : List Nat := (ddSlotList d).take (ddNslot d)
def isPass : SpanOp → Bool
  | .passFwd | .passDx | .passDw | .passPair => true
  | _ => false

/-- The slots an instruction works on, from its descriptor, or from the cache while that is still to be taken up (R109, R213); none while
it is not known. -/
def opSlots (s : State) (i : SpanI) : Option (List Nat) :=
  let desc := fun (d : List Word) (a : Word) (n : Nat) =>
    if i.ready then some d else if isReload i then none else cachedDesc s i.lease a.toNat n
  match i.op with
  | .passFwd | .passDx | .passDw => (desc i.desc i.a 64).map (fun d => [pdSlot d])
  | .passPair => (desc i.desc i.a 64).bind (fun d => (desc i.desc2 i.b 64).map (fun e => [pdSlot d, pdSlot e]))
  | .drain => (desc i.desc i.a 128).map ddSlots
  | .slotStat => some []
  | _ => some (slotsNamed i)

/-! ## The crossing (R198, R199, R211) -/

/-- SLOTSTAT of a slot (R111); a FREE slot reads as 0 (R227). -/
def slotStat (v : Slot) : Half :=
  if v.st = .free then 0
  else
  let st : Nat := match v.st with
    | .free => 0 | .open => 1 | .active => 2 | .spilled => 3 | .spilling => 4 | .filling => 5
  BitVec.ofNat 32
    ((if v.poison then 2 ^ 31 else 0) + (if v.accSat then 2 ^ 30 else 0) + (if v.psat then 2 ^ 29 else 0) +
      (if v.special then 2 ^ 28 else 0) + st * 2 ^ 25 + Nat.log2 v.fr * 2 ^ 23 + Nat.log2 v.fc * 2 ^ 21 +
      v.lease * 2 ^ 16 + v.segs.length * 2 ^ 12 + v.ksum.toNat)

/-- Take an offer out of a core. -/
def popOffer (s : State) (c : Nat) (i : SpanI) : State :=
  let k := getCore s c
  setCore s c { k with offers := k.offers.erase i }

/-- A touch of a slot (R109): the number of the instruction that names it last. -/
def touchSlot (s : State) (x u : Nat) : State :=
  let v := getSlot s x
  setSlot s x { v with touched := max v.touched (u + 1) }

/-- Whether an offer is an Express lease's. -/
def isExpress (s : State) (i : SpanI) : Bool := decide (leaseClass s i.lease = 0)

/-- The thread in hardware that holds an instruction's instance and can still act on it. -/
def issuer (s : State) (i : SpanI) : Option ThreadId :=
  match instThread s i.lease i.inst with
  | some t =>
    let x := getThr s t
    if x.st = .halted ∨ x.killed then none else some t
  | none => none

/-- Whether an instruction enters its queue if it crosses: an entry is kept for it, or is there. -/
def entryFor (s : State) (i : SpanI) : Bool := i.sure || (!rearmBusy s i && queueRoom s (queueOf i.op) i.lease)

/-- Whether an offer can only stay offered: it finds no entry, and no thread is there to take it back (R198). It does not stand in the
way of the offers behind it. -/
def stuckOffer (s : State) (i : SpanI) : Bool :=
  (crossFault s i).isNone && decide (i.op ≠ .slotStat) && !entryFor s i && (issuer s i).isNone

/-- The offer that wins the arbitration (R199): an Express lease's first, which waits only behind other Express instructions, else the
cores round-robin after the last. Of a core, the first Express offer, else the first. -/
def arbitrate (s : State) : Option (Nat × SpanI) :=
  let cores := (List.range 4).map (fun d => (s.rrCore + 1 + d) % 4)
  let offers := fun (c : Nat) => (getCore s c).offers.filter (fun i => !stuckOffer s i)
  match cores.findSome? (fun c => ((offers c).find? (isExpress s)).map (fun i => (c, i))) with
  | some ci => some ci
  | none => cores.findSome? (fun c => (offers c).head?.map (fun i => (c, i)))

/-- An instruction as it enters its queue: its number, its issue sequence, and what of its lease's entry the crossing fixes (R199,
R376). -/
def crossed (s : State) (i : SpanI) : SpanI :=
  { i with u := s.nextUid, seq := (getRt s i.lease).seq, stage := .queued, sure := false, cls := leaseClass s i.lease
           leg := legacy s i.lease, dom := cacheDomain s i.lease, root := leaseWord s i.lease 6 }

/-- Whether an instruction's issue touches the slots it names (R109): passes, drains, spills, fills and chain reads. -/
def touches : SpanOp → Bool
  | .slotOpen | .slotClose | .slotStat => false
  | _ => true

/-- An instruction touches the slots of its lease that it names, as far as they are known (R109). -/
def touchNamed (s : State) (i : SpanI) : State :=
  if touches i.op ∧ ¬ isAO i then
    ((opSlots s i).getD []).foldl (fun s x =>
      if (getSlot s x).st = .free ∨ slotForeign s i.lease x then s else touchSlot s x i.u) s
  else s

/-- Count a crossing and take the lease's next issue sequence (R199). A sample of it is of the kind "Thread" (R389, R392). -/
def nextSeq (s : State) (i : SpanI) : State :=
  let s := event s 0x065 1 { srcOf i with seq := 0 }
  let rt := getRt s i.lease
  setRt s i.lease { rt with seq := rt.seq + 1 }

/-- Enter an instruction in its queue (R199). -/
def enterQueue (s : State) (c : Nat) (i : SpanI) : State :=
  let j := crossed s i
  let s := nextSeq (popOffer s c i) j
  touchNamed { s with nextUid := s.nextUid + 1, instrs := s.instrs ++ [j] } j

/-- A precise privilege fault found at the crossing (R201, R211): the thread that still holds the instance halts with PC at the
instruction, a thread already HALTED stays as it is, and the report says whether the thread is HALTED. -/
def crossFaulted (s : State) (i : SpanI) (res kind : Nat) : State :=
  match issuer s i with
  | some t =>
    let x := getThr s t
    leaseReport (setThr s t { halted x 0x02 false .precise with pc := i.pc }) i.lease 0x02 (some t) false true i.pc
      i.w0 (BitVec.ofNat 64 res) (BitVec.ofNat 64 kind)
  | none =>
    let h := (instThread s i.lease i.inst).any (fun t => decide ((getThr s t).st = .halted))
    leaseReport s i.lease 0x02 (some i.th) false h i.pc i.w0 (BitVec.ofNat 64 res) (BitVec.ofNat 64 kind)

/-- `SLOT.STAT` at its crossing: it takes an issue sequence, and the slot's word is written to RD (R199, R227). -/
def crossStat (s : State) (i : SpanI) : State :=
  let s := nextSeq s i
  match issuer s i with
  | some t =>
    let x := getThr s t
    let v : Word := (slotStat (getSlot s (bits i.w0 4 0))).setWidth 64
    retire s t (wrReg (ready x) (fld i.w0 10 5) v) (i.pc + 4)
  | none => s

/-- Return an instruction that found no entry to its thread, which waits in QUEUE (R198). -/
def returnOffer (s : State) (c : Nat) (i : SpanI) (t : ThreadId) : State :=
  let q := if rearmBusy s i then 8 + bits i.w0 4 0 else queueOf i.op
  setThr (popOffer s c i) t { waiting (getThr s t) .queue 0 (BitVec.ofNat 64 q) with pc := i.pc }

/-- The crossing of one offered instruction. One that finds no entry and whose thread cannot take it back stays offered, since neither
a KILL, an EXIT nor a fault withdraws it (R198). -/
def crossOne (s : State) (c : Nat) (i : SpanI) : State :=
  match crossFault s i with
  | some (res, kind) => crossFaulted (popOffer s c i) i res kind
  | none =>
    if i.op = .slotStat then crossStat (popOffer s c i) i
    else if entryFor s i then enterQueue s c i
    else match issuer s i with
      | some t => returnOffer s c i t
      | none => s

/-- INSTRUCTION_CROSSING (R199): the winner is checked against its lease (R211), a failure being a precise privilege
fault; each that crosses takes the next issue sequence; `SLOT.STAT` reads its slot; any other enters its queue, or, where no
entry is available, returns to its thread, which waits in QUEUE. -/
def crossing (s : State) : State :=
  match arbitrate s with
  | none => s
  | some (c, i) => crossOne { s with rrCore := c } c i

/-- Whether what a thread waits for in QUEUE is available: an entry of a queue, or, from 8 on, that no rearm of a context
stands before it (R172, R198). -/
def queueFree (s : State) (l q : Nat) : Bool :=
  if q < 8 then queueRoom s q l else !(s.instrs.any (fun j => isRearm j.op && j.owes.isNone && bits j.w0 4 0 == q - 8))

/-- QUEUE_ENTRY_FREE (R198): once an entry is available to its lease, a thread waiting in QUEUE is READY at the instruction,
which it issues again. -/
def execQueueEntryFree (t : ThreadId) (s : State) : Result :=
  let x := getThr s t
  .next (if x.st = .waiting ∧ x.reason = .queue ∧ queueFree s x.lease x.amount.toNat then setThr s t (ready x) else s)

end Sys2Proof.Machine
end

