-- ==== Sys2Proof/Machine/Stores.lean ====
section
/-! DEFINITION. The operand stores: pages and windows (R174, R177), the layout of ring slots and regions (R154, R219), the
packing of elements (R30), and the bytes of a written tile. -/

namespace Sys2Proof.Machine

/-! ## Packing (R30) -/

/-- The code of width w that starts at a bit offset of a byte sequence. -/
def codeAt (byte : Nat → Byte) (w bitOff : Nat) : Nat :=
  let b := bitOff / 8
  (((byte b).toNat + 256 * (byte (b + 1)).toNat + 65536 * (byte (b + 2)).toNat + 16777216 * (byte (b + 3)).toNat +
    4294967296 * (byte (b + 4)).toNat) >>> (bitOff % 8)) % 2 ^ w

/-- Codes of width w packed from bit 0, filled with 0 to whole bytes. -/
def packCodes (w : Nat) (cs : List Nat) : List Byte :=
  leBytes (cdiv (cs.length * w) 8)
    ((List.range cs.length).zipWith (fun k c => (c % 2 ^ w) <<< (k * w)) cs |>.foldl (· ||| ·) 0)

/-- The bytes that a row of n elements of a format takes. -/
def rowBytes (f n : Nat) : Nat := cdiv (n * fmtWidth f) 8

/-! ## Pages and windows (R174, R177) -/

/-- Pages of a store: 4,096 in the West store, 8,192 in the North store. -/
def storePages (north : Bool) : Nat := if north then 8192 else 4096

/-- The absolute page of a page of a lease's window, where n pages from it lie in the window. -/
def winPage (s : State) (north : Bool) (l page n : Nat) : Option Nat :=
  let b := if north then northBase s l else westBase s l
  let p := if north then northPages s l else westPages s l
  if page + n ≤ p ∧ b + page + n ≤ storePages north then some (b + page) else none

/-- One byte of a store. -/
def storeByte (s : State) (north : Bool) (a : Nat) : Byte :=
  if north then Tab.get 0 s.store.north a else Tab.get 0 s.store.west a

/-- Write addressed bytes to a store (R162, R170). -/
def storeWrite (s : State) (north : Bool) (ws : List (Nat × Byte)) : State :=
  if north then { s with store := { s.store with north := putBytes s.store.north ws } }
  else { s with store := { s.store with west := putBytes s.store.west ws } }

/-- The key of a page's tag. -/
def tagKey (north : Bool) (page : Nat) : Nat := if north then 4096 + page else page

def getTag (s : State) (north : Bool) (page : Nat) : PageTag := Tab.get {} s.store.tags (tagKey north page)
def setTag (s : State) (north : Bool) (page : Nat) (t : PageTag) : State :=
  { s with store := { s.store with tags := Tab.set {} s.store.tags (tagKey north page) t } }

/-- Set the tag of n pages. -/
def setTags (s : State) (north : Bool) (page n : Nat) (t : PageTag) : State :=
  (List.range n).foldl (fun s k => setTag s north (page + k) t) s

/-! ## Layout (R154, R219) -/

/-- Bytes of one element row of a slot or region of c columns. -/
def slotRow (f c : Nat) : Nat := 64 * cdiv (c * fmtWidth f) 512

/-- Bytes of the scale plane, before rounding; none for an unscaled format. -/
def planeBytes (f p rows cols : Nat) (axis : Bool) : Nat :=
  if ¬ fmtScaled f ∨ p = 0 then 0 else if axis then cdiv rows p * cols else rows * cdiv cols p

/-- Bytes of a slot or region (R154). -/
def slotBytes (f p rows cols : Nat) (axis : Bool) : Nat :=
  rows * slotRow f cols + 64 * cdiv (planeBytes f p rows cols axis) 64

/-- Pages of a slot or region, at least one. -/
def slotPages (f p rows cols : Nat) (axis : Bool) : Nat := max 1 (cdiv (slotBytes f p rows cols axis) 4096)

/-- The code of element (r, c) of a slot or region that starts at an absolute page. -/
def storeCode (s : State) (north : Bool) (page : Nat) (t : PageTag) (r c : Nat) : Nat :=
  let base := 4096 * page + r * slotRow t.fmt.toNat t.cols
  codeAt (fun k => storeByte s north (base + k)) (fmtWidth t.fmt.toNat) (c * fmtWidth t.fmt.toNat)

/-- The block scale of element (r, c): 127 for an unscaled format (R37). -/
def storeScale (s : State) (north : Bool) (page : Nat) (t : PageTag) (r c : Nat) : Nat :=
  if ¬ fmtScaled t.fmt.toNat ∨ t.p = 0 then 127
  else
    let base := 4096 * page + t.rows * slotRow t.fmt.toNat t.cols
    (storeByte s north
      (base + (if t.axis then (r / t.p) * t.cols + c else r * cdiv t.cols t.p + c / t.p))).toNat

/-- The zero point a tag records, as a number (R50). -/
def tagZp (t : PageTag) : Option Int :=
  if t.zpEn then some (if t.fmt.toNat = 6 then t.zp.toInt else (t.zp.toNat : Int)) else none

/-! ## Streams as seen by their consumers -/

/-- A stream descriptor's fields (R149). -/
def stRing (x : Stream) : Nat := bits (x.desc.getD 7 0) 46 41
def stData (x : Stream) : Nat := bits (x.desc.getD 7 0) 55 48
def stGate (x : Stream) : Option Nat :=
  if (x.desc.getD 7 0).getLsbD 47 then some (bits (x.desc.getD 7 0) 63 56) else none
def stKind (x : Stream) : Nat := bits (x.desc.getD 7 0) 20 18
def stFmt (x : Stream) : Nat := bits (x.desc.getD 7 0) 7 0
def stAxis (x : Stream) : Bool := (x.desc.getD 7 0).getLsbD 8
def stP (x : Stream) : Nat := 32 <<< bits (x.desc.getD 7 0) 17 16
def stRowset (x : Stream) : Bool := (x.desc.getD 7 0).getLsbD 21
def stOrder (x : Stream) : Bool := (x.desc.getD 7 0).getLsbD 22
def stRepeat (x : Stream) : Bool := (x.desc.getD 7 0).getLsbD 23
def stTileRows (x : Stream) : Nat := bits (x.desc.getD 6 0) 15 0
def stTileCols (x : Stream) : Nat := bits (x.desc.getD 6 0) 31 16
def stBase (x : Stream) : Nat := bits (x.desc.getD 6 0) 45 32
def stPages (x : Stream) : Nat := bits (x.desc.getD 6 0) 61 48
def stCols (x : Stream) : Nat := bits (x.desc.getD 4 0) 63 32

/-- The lease that a context is assigned to: the position, not EMPTY, whose mask holds it (R148). -/
def ctxOwner (s : State) (c : Nat) : Option Nat :=
  (List.range 16).find? (fun l => lstate s l ≠ .empty && (ctxMask s l).getLsbD c)

/-- The absolute page of the ring slot that transfer n of a context uses (R154). -/
def ringPage (s : State) (l c n : Nat) : Option Nat :=
  let x := getStr s c
  if stRing x = 0 then none
  else winPage s (stKind x = 1) l (stBase x + (n % stRing x) * stPages x) (max 1 (stPages x))

/-! ## Tiles to bytes -/

/-- A converted tile: rows of codes, and the block scales with their place in the scale plane. -/
structure TileOut where
  codes : List (List Nat)
  scales : List (Nat × Nat)
  deriving DecidableEq, Repr

/-- The store bytes of a tile written as a region at an absolute page (R230): rows from the region's row 0 and column 0. -/
def regionBytes (page f rows cols : Nat) (o : TileOut) : List (Nat × Byte) :=
  let base := 4096 * page
  let pitch := slotRow f cols
  ((List.range o.codes.length).zipWith (fun r cs => addrBytes (base + r * pitch) (packCodes (fmtWidth f) cs)) o.codes).flatten
    ++ o.scales.map (fun kb => (base + rows * pitch + kb.1, BitVec.ofNat 8 kb.2))

end Sys2Proof.Machine
end

