-- ==== Sys2Proof/Machine/Units.lean ====
section
/-! DEFINITION. What the units of the span share: the judgement of an instruction (R202, R216, R475), its status word and
completion (R214, R215), the descriptor cache (R213), the order on slots (R110), the entries of a slot (R104, R105), and
the order between leases (R212, R359). -/

namespace Sys2Proof.Machine

/-! ## Whether a unit takes a lease's work -/

/-- A lease is being parked or suspended, or is to be: its PARK bits or its SUSPEND stand while it is still RESIDENT
(R362, R363). -/
def parking (s : State) (l : Nat) : Bool :=
  (getCtl s l).parkWindow || (getCtl s l).parkExpress || decide ((getRt s l).cmd = 2)

/-- Whether units take instructions of a lease: RESIDENT, neither being saved nor parked (R362), and no stop (R417). -/
def takes (s : State) (l : Nat) : Bool :=
  decide (lstate s l = .resident) && !(getRt s l).saving && !parking s l && !stopping s

/-! ## Verdicts (R202, R216, R217, R475) -/

/-- What an instruction's checks say: nothing, that a READ of what they judge is not answered yet, the illegal instruction of a zero geometry field (R217), the lowest
configuration check that failed with the descriptor's address, or a privilege fault's resource and kind. -/
inductive Verdict where
  | ok
  | wait
  | illegal
  | config (check : Nat) (desc : Word)
  | priv (res kind : Nat)
  deriving DecidableEq, Repr

/-- The first failed check of a list in ascending order of index. -/
def firstCheck (desc : Word) (cs : List (Nat × Bool)) : Verdict :=
  match cs.find? (fun c => c.2) with
  | some c => .config c.1 desc
  | none => .ok

/-- The graver of two verdicts: one that is not known yet, then illegal, then privilege, then the lower check (R216; log entry 11). -/
def worst (a b : Verdict) : Verdict :=
  match a, b with
  | .wait, _ => .wait
  | _, .wait => .wait
  | .illegal, _ => .illegal
  | _, .illegal => .illegal
  | .priv r k, _ => .priv r k
  | _, .priv r k => .priv r k
  | .config x d, .config y e => if y < x then .config y e else .config x d
  | .ok, v => v
  | v, .ok => v

/-- Fault an instruction in its unit: it has no effect and leaves the span (R202, R214). One that waits for a READ stays as it is. -/
def faultInstr (s : State) (i : SpanI) (v : Verdict) : State :=
  match v with
  | .ok | .wait => s
  | .illegal => impreciseFault (dropInstr s i.u) i 0x01 0 0
  | .config c d => configFault (dropInstr s i.u) i c d
  | .priv r k => privFault (dropInstr s i.u) i r k

/-- What a failed read of a descriptor, table or list raises: the privilege fault of an unreadable page (R475), check 3
for poison (R415), or nothing while it is not answered. -/
def pageFault : MemErr → Verdict
  | .wait => .wait
  | .page vpn => .priv vpn 4
  | .poison a => .config 3 (BitVec.ofNat 64 a)

/-- The privilege fault of a counter outside the lease's range. -/
def cntVerdict (s : State) (l n : Nat) : Verdict := if cntInRange s l n then .ok else .priv n 1

/-! ## Status words and completion (R214, R215) -/

/-- The parts of a status word beside the instruction's own. -/
structure Status where
  count : Nat := 0
  skipped : Bool := false
  deferred : Bool := false
  notHalted : Bool := false
  smoothZero : Bool := false
  singular : Bool := false
  sticky : Nat := 0
  deriving DecidableEq, Repr

/-- The status word (R215). -/
def statusWord (i : SpanI) (x : Status) : Word :=
  BitVec.ofNat 64 ((x.count % 2 ^ 32) * 2 ^ 32 + bits i.w0 31 26 * 2 ^ 26 + bits i.w0 23 20 * 2 ^ 22 +
    (if x.skipped then 2 ^ 9 else 0) + (if x.deferred then 2 ^ 8 else 0) + (if x.notHalted then 2 ^ 7 else 0) +
    (if x.smoothZero then 2 ^ 6 else 0) + (if x.singular then 2 ^ 5 else 0) + (x.sticky % 16) * 2 + 1)

/-- Whether an instruction names a status address: its RC is not `g0` (R210). -/
def hasStatus (i : SpanI) : Bool := decide (bits i.w0 9 5 ≠ 0)

/-- Whether its status address is misaligned (check 3). -/
def statusSkew (i : SpanI) : Bool := hasStatus i && decide (i.c.toNat % 8 ≠ 0)

/-- Translate the status address at arm: whether check 30 fails, and the instruction with the translation it keeps. -/
def armStatus (s : State) (i : SpanI) : Bool × SpanI × State :=
  if hasStatus i then
    let r := xlate s (accI i) i.c .w
    match r.1 with
    | .at pa => if inMap s pa 8 then (false, { i with statusPa := some pa }, r.2) else (true, i, r.2)
    | _ => (true, i, r.2)
  else (false, i, s)

/-- Whether the translation of an instruction's status address waits for a READ of a table entry. -/
def statusWaits (s : State) (i : SpanI) : Bool :=
  hasStatus i && !holds s.xlate i.lease i.c && (walkNeeds s (accI i) i.c).isSome

/-- The signals of an instruction that is done; it leaves the span (R214). -/
def signalDone (s : State) (i : SpanI) (cnts : List Nat) : State := dropInstr (cnts.foldl (fun s n => unitSignal s n 1) s) i.u

/-- An instruction that is done and whose writes to other endpoints are not all acknowledged: it keeps the status word and the signals that
it owes (R214, R258). -/
def owing (s : State) (i : SpanI) (w : Option Word) (cnts : List Nat) : State :=
  putInstr s { i with stage := .running, owes := some (w, cnts) }

/-- The last two steps of R214: the status word once every write of the results is acknowledged, and the signals once the status word
is. Writes to the own stack are acknowledged within the step. -/
def complete (s : State) (i : SpanI) (w : Option Word) (cnts : List Nat) : State :=
  if writesOut s i.u then owing s i w cnts
  else match i.statusPa, w with
    | some pa, some v =>
      let s := spanWrite s (accI i) pa (leBytes 8 v.toNat)
      if writesOut s i.u then owing s i none cnts else signalDone s i cnts
    | _, _ => signalDone s i cnts

/-- Complete an instruction: its status word, then its signals; it leaves the span (R214). -/
def finish (s : State) (i : SpanI) (x : Status) (cnts : List Nat) : State := complete s i (some (statusWord i x)) cnts

/-- A write of an instruction's results or status word is acknowledged: it completes as far as it can (R214, R258). -/
def resultAcked (s : State) (u : Nat) : State :=
  match getInstr s u with
  | some i => (match i.owes with
    | some o => complete s { i with owes := none } o.1 o.2
    | none => s)
  | none => s

/-- End a command whose instruction fails in a state: faulted, or, where the failure is a READ that is not answered, as it was before the
command's reads (R15, R16). -/
def faultOr (s t : State) (i : SpanI) (v : Verdict) : State := if v = .wait then keepGot s t else faultInstr t i v

/-- End a command whose read fails. -/
def faultRead (s t : State) (i : SpanI) (e : MemErr) : State := faultOr s t i (pageFault e)

/-- The counters an instruction signals by its last word. -/
def sigList (i : SpanI) : List Nat := (sigCounter i).toList

/-! ## The descriptor cache (R213) -/

/-- Put an entry at the front of the cache; the lease keeps its 16 most recently used. -/
def cachePut (c : List DescEntry) (e : DescEntry) : List DescEntry :=
  let rest := c.filter (fun x => !(x.lease == e.lease && x.addr == e.addr))
  let mine := (rest.filter (fun x => x.lease == e.lease)).take 15
  e :: rest.filter (fun x => x.lease != e.lease || mine.contains x)

/-- A descriptor's words: from the cache, or from memory into it; or why it cannot be read. -/
def readDesc (s : State) (c : Acc) (a : Word) (n : Nat) (reload : Bool) : Except MemErr (List Word) × State :=
  if descCached s c.l a.toNat n ∧ ¬ reload then
    let es := (entryAddrs a.toNat n).filterMap (cachedEntry s c.l)
    (.ok ((es.map (·.words)).flatten), { s with dcache := es.foldl cachePut s.dcache })
  else
    let r := readVirt s c a.toNat n
    match r.1 with
    | .error p => (.error p, r.2)
    | .ok bs =>
      let ws := words64 bs
      let es := (List.range (n / 64)).map (fun k => (⟨c.l, a.toNat + 64 * k, (ws.drop (8 * k)).take 8⟩ : DescEntry))
      (.ok ws, { r.2 with dcache := es.foldl cachePut r.2.dcache })

/-! ## Chunks -/

/-- Chunks of a chain descriptor's region (R299). -/
def cdRows (d : List Word) : Nat := bits (d.getD 2 0) 47 32
def cdCols (d : List Word) : Nat := bits (d.getD 2 0) 15 0
def cdTotal (d : List Word) : Nat := cdRows d * cdiv (cdCols d) 1024

/-! ## Order on slots (R110) -/

/-- Put an instruction whose descriptor has arrived in its queue's unit. Slots that were not known at its issue are touched now, by its
place in issue order (R109). -/
def arrived (s : State) (i : SpanI) : State := touchNamed (putInstr s i) i

/-- Whether an instruction only reads its slots. -/
def slotReader : SpanOp → Bool
  | .drain | .slotSpill | .chainSend | .chainRecv => true
  | _ => false

/-- Whether a chain hop has read all its own chunks. -/
def chainReadDone (r : ChainRun) : Bool := decide (cdTotal r.desc ≤ r.read)

/-- The run that holds the array or is held by the instruction's lease. -/
def runOf (s : State) (i : SpanI) : Option PassRun :=
  match s.arr.run with
  | some r => if r.u = i.u then some r else (getRt s i.lease).held.filter (fun h => h.u == i.u)
  | none => (getRt s i.lease).held.filter (fun h => h.u == i.u)

/-- Whether an instruction has completed its Girder access on a slot. -/
def accessDone (s : State) (j : SpanI) (x : Nat) : Bool :=
  j.owes.isSome || (match j.op with
  | .drain => decide (j.stage = .running)
  | .chainSend | .chainRecv => s.chn.any (fun r => r.u == j.u && chainReadDone r)
  | .passPair => (runOf s j).any (fun r => r.parts.any (fun p => p.slot == x && p.signalled))
  | _ => false)

/-- Whether an earlier operation of the lease on a slot holds an instruction back (R110). A reader waits for passes, fills,
openings and closings; every other operation waits for all. An earlier pass or DRAIN whose descriptor is neither read nor cached may name
the slot, and holds it back too (log entry 83). -/
def slotWaits (s : State) (i : SpanI) (x : Nat) : Bool :=
  s.instrs.any (fun j =>
    decide (j.lease = i.lease ∧ j.u < i.u) && !isAO j &&
      (!slotReader i.op || isPass j.op || decide (j.op = .slotFill ∨ j.op = .slotOpen ∨ j.op = .slotClose)) &&
      (match opSlots s j with | none => true | some l => l.contains x) && !accessDone s j x)

/-- Whether any earlier operation of the lease on a slot has yet to complete (R144, R217, R306). -/
def slotBehind (s : State) (i : SpanI) (x : Nat) : Bool :=
  s.instrs.any (fun j => decide (j.lease = i.lease ∧ j.u < i.u) && !isAO j &&
    (match opSlots s j with | none => true | some l => l.contains x))

/-- Whether a slot's spill or fill stands in the way. -/
def slotMoving (v : Slot) : Bool := decide (v.st = .spilling ∨ v.st = .filling)

/-- Sticky bits of slots, in the order of R215: POISON 8, SPECIAL 4, ACC_SAT 2, PSAT 1. -/
def stickyOf (s : State) (xs : List Nat) : Nat :=
  let any := fun (p : Slot → Bool) => xs.any (fun x => p (getSlot s x))
  (if any (·.poison) then 8 else 0) + (if any (·.special) then 4 else 0) + (if any (·.accSat) then 2 else 0) +
    (if any (·.psat) then 1 else 0)

/-- Whether an operation still works on a slot. -/
def slotBusy (s : State) (x : Nat) : Bool :=
  (match s.arr.run with | some r => r.parts.any (fun p => p.slot == x && partWorks p) | none => false) ||
  (List.range 16).any (fun l => match (getRt s l).held with
    | some r => r.parts.any (fun p => p.slot == x && partWorks p)
    | none => false) ||
  (match s.drn with | some d => d.slots.contains x | none => false) || s.chn.any (fun c => c.slots.contains x)

/-- Mark slots ACTIVE at the start of an operation (R107). -/
def activate (s : State) (xs : List Nat) : State :=
  xs.foldl (fun s x => let v := getSlot s x; if v.st = .open then setSlot s x { v with st := .active } else s) s

/-- Return slots to OPEN once no operation works on them (R107). -/
def settle (s : State) (xs : List Nat) : State :=
  xs.foldl (fun s x =>
    let v := getSlot s x
    if v.st = .active ∧ ¬ slotBusy s x then setSlot s x { v with st := .open } else s) s

/-! ## Entries (R104, R105, R409) -/

/-- Bank and word of the entry of a slot's plane q at tile row i and column j (R83, R86, R104); none beyond the segments
the slot holds (log entry 12). -/
def entryAt (v : Slot) (q i j : Nat) : Option (Nat × Nat) :=
  let b := q % v.fr
  let c := q / v.fr
  let col := c * (4096 / v.fc) + j
  (v.segs[col / 512]?).map (fun seg => (b * (256 / v.fr) + i, 512 * seg + col % 512))

/-- An entry as a reader sees it: uncorrectable where its bank's row is poisoned (R409). -/
def readEntry (s : State) (v : Slot) (q i j : Nat) : Entry :=
  match entryAt v q i j with
  | none => { s := nan32 }
  | some (r, w) => if v.poisonRows.getLsbD r then { getEnt s r w with chk := 2 } else getEnt s r w

/-- A slot's first uncorrectable entry sets POISON and is reported to the lease and the engine set (R105, R407). -/
def poisonSlot (s : State) (x bank : Nat) : State :=
  let v := getSlot s x
  if v.poison then s
  else faultNotice (leaseReport (setSlot s x { v with poison := true }) v.lease 0x11 none false false 0 0 (BitVec.ofNat 64 x)
    (BitVec.ofNat 64 bank))

/-- An entry of a slot reads uncorrectable (R105): the slot is poisoned, and the bank gives one more uncorrectable word unless its row is
masked already (R408). -/
def entryUe (s : State) (x bank w : Nat) : State :=
  let s := poisonSlot s x bank
  let recent := s.gir.ueWords.filter (fun e => decide (s.now < e.2 + 2 ^ 20))
  let word := 32768 * bank + w
  if (getSlot s x).poisonRows.getLsbD bank ∨ recent.any (fun e => e.1 == word) then s
  else { s with gir := { s.gir with ueWords := recent ++ [(word, s.now)] } }

/-- The planes of a tile element. -/
def planesAt (s : State) (v : Slot) (i j : Nat) : List Entry :=
  (List.range (v.fr * v.fc)).map (fun q => readEntry s v q i j)

/-- Account for reading every entry of a rectangle of a slot: correctable errors are corrected and counted, uncorrectable
ones poison the slot (R105). -/
def scanEntries (s : State) (x row0 rows col0 cols : Nat) (src : SampleSrc) : State :=
  let v := getSlot s x
  if s.gir.ent.all (fun ke => ke.2.chk == 0) then s
  else
    (List.range rows).foldl (fun s i => (List.range cols).foldl (fun s j =>
      (List.range (v.fr * v.fc)).foldl (fun s q =>
        match entryAt v q (row0 + i) (col0 + j) with
        | none => s
        | some (r, w) =>
          let e := getEnt s r w
          if e.chk = 1 then event (setEnt s r w { e with chk := 0 }) 0x032 1 src
          else if e.chk = 2 then entryUe s x r w else s) s) s) s

/-- KSUM as a number. -/
def ksumOf (v : Slot) : Int := v.ksum.toInt

/-! ## Segments and the mover's requests (R108, R109, R119) -/

/-- Segments that a slot takes (R106). -/
def segsNeeded (v : Slot) : Nat := if v.fr * v.fc = 1 then cdiv v.cols 512 else 8

/-- Segments that a lease holds. -/
def segsHeld (s : State) (l : Nat) : Nat :=
  sumL ((List.range 32).map (fun x => let v := getSlot s x; if v.lease = l then v.segs.length else 0))

/-- Free scrubbed segments, ascending. -/
def freeSegs (s : State) : List Nat := (List.range 64).filter (fun k => s.gir.segFree.getLsbD k)

/-- Take n free segments. -/
def takeSegs (s : State) (n : Nat) : List Nat × State :=
  let segs := (freeSegs s).take n
  (segs, { s with gir := { s.gir with segFree := segs.foldl (fun w k => w &&& ~~~((1 : Word) <<< k)) s.gir.segFree } })

/-- The lease's least recently touched OPEN slot (R109); of slots with the same stamp, never touched or named by one operation, the lowest
(DESIGN CHOICE, log entry 91: the spec gives no tie rule). -/
def evictable (s : State) (l : Nat) : Option Nat :=
  ((List.range 32).filter (fun x => decide ((getSlot s x).st = .open ∧ (getSlot s x).lease = l))).foldl
    (fun best x => match best with
      | none => some x
      | some y => if (getSlot s x).touched < (getSlot s y).touched then some x else best) none

/-- Ask for the eviction of a lease's least recently touched OPEN slot: it becomes SPILLING until the mover takes it. -/
def evict (s : State) (l : Nat) : State :=
  match evictable s l with
  | some x => setSlot s x { getSlot s x with st := .spilling, evicting := true }
  | none => s

/-- Segments of a lease that spills under way will free. -/
def segsLeaving (s : State) (l : Nat) : Nat :=
  sumL ((List.range 32).map (fun x => let v := getSlot s x; if v.lease = l ∧ v.st = .spilling then v.segs.length else 0))

/-- Give a lease n segments within its quota (R108, R109): taken where they fit and are free; else an eviction is asked
for, where one is needed and none under way frees enough; else the request waits. -/
def allot (s : State) (l n : Nat) : Option (List Nat) × State :=
  if segsHeld s l + n ≤ segQuota s l then
    if n ≤ (freeSegs s).length then let r := takeSegs s n; (some r.1, r.2) else (none, s)
  else if segsHeld s l - segsLeaving s l + n ≤ segQuota s l then (none, s)
  else (none, evict s l)

/-- Ask for the fill of a SPILLED slot (R119) that an instruction needs: it becomes FILLING once its segments are allotted. -/
def askFill (u : Nat) (s : State) (x : Nat) : State :=
  let v := getSlot s x
  let r := allot s v.lease (segsNeeded v)
  match r.1 with
  | some segs => setSlot r.2 x { getSlot r.2 x with st := .filling, segs := segs, fillFor := some u }
  | none => r.2

/-- Reclaim a lease's holdings above a cut quota (R369): one eviction at a time. -/
def reclaim (s : State) (l : Nat) : State :=
  if segQuota s l < segsHeld s l - segsLeaving s l then evict s l else s

/-! ## Meters (R382) -/

/-- Add to a lease's meters of the present beat. -/
def addMeters (s : State) (l : Nat) (cell replay bytes : Nat) : State :=
  let rt := getRt s l
  setRt s l { rt with acc := { rt.acc with cell := rt.acc.cell + BitVec.ofNat 64 cell
                                           replay := rt.acc.replay + BitVec.ofNat 64 replay
                                           bytes := rt.acc.bytes + BitVec.ofNat 64 bytes } }

/-! ## The class order (R212, R359) -/

/-- Whether a unit does an instruction's work: 1 the array, 2 the drain path, 3 the Girder mover, 4 the Spandrel. -/
def unitDoes (unit : Nat) (op : SpanOp) : Bool :=
  match unit with
  | 1 => isPass op
  | 2 => decide (op = .drain)
  | 3 => decide (op = .slotSpill ∨ op = .slotFill)
  | 4 => decide (queueOf op = 3)
  | _ => false

/-- The class in which a unit serves a lease: that of its first instruction there, as it crossed (R376), or the entry's where the unit
does its work without one. -/
def workClass (s : State) (unit l : Nat) : Nat :=
  match s.instrs.find? (fun i => decide (i.lease = l ∧ (i.stage ≠ .running ∨ unit = 1)) && unitDoes unit i.op && !isAO i && i.owes.isNone) with
  | some i => i.cls
  | none => leaseClass s l

/-- The class of a run: that of its instruction (R376). -/
def runClass (s : State) (r : PassRun) : Nat :=
  match getInstr s r.u with
  | some i => i.cls
  | none => leaseClass s r.lease

/-- The order in which a unit serves leases: by class, and within one round-robin after the last served. -/
def leaseOrder (s : State) (unit : Nat) : List Nat :=
  let rr := (List.range 16).map (fun d => (Tab.get 0 s.lease.served unit + 1 + d) % 16)
  ((List.range 3).map (fun c => rr.filter (fun l => decide (workClass s unit l = c)))).flatten

/-- Record the lease a unit has served. -/
def serve (s : State) (unit l : Nat) : State :=
  { s with lease := { s.lease with served := Tab.set 0 s.lease.served unit l } }

end Sys2Proof.Machine
end

