-- ==== Sys2Proof/Machine/Passes.lean ====
section
/-! DEFINITION. Passes before and at the edges: the descriptor's static checks (R216 to R219, R222, R224), the dynamic
checks and the operands of a starting pass (R221, R223), the schedule of a pair (R132), and the blocks the feeders capture
(R74, R84, R89, R137, R157). -/

namespace Sys2Proof.Machine

/-! ## The descriptor (R218) -/

def pdK (d : List Word) : Nat := bits (d.getD 4 0) 63 32
def pdN (d : List Word) : Nat := bits (d.getD 4 0) 31 16
def pdM (d : List Word) : Nat := bits (d.getD 4 0) 15 0
def pdFirst (d : List Word) : Nat := bits (d.getD 5 0) 63 40
def pdCount (d : List Word) : Nat := bits (d.getD 5 0) 39 16
def pdKsum (d : List Word) : BitVec 9 := fld (d.getD 6 0) 55 9
def pdPcode (d : List Word) : Nat := bits (d.getD 6 0) 54 53
def pdP (d : List Word) : Nat := 32 <<< pdPcode d
def pdFr (d : List Word) : Nat := bits (d.getD 6 0) 52 50
def pdFc (d : List Word) : Nat := bits (d.getD 6 0) 49 46
def pdSerial (d : List Word) : Bool := (d.getD 6 0).getLsbD 45
def pdRowset (d : List Word) : Bool := (d.getD 6 0).getLsbD 44
def pdMask (d : List Word) : Nat := bits (d.getD 6 0) 38 37
def pdWrow (d : List Word) : Nat := bits (d.getD 6 0) 31 8
def pdMaskAddr (d : List Word) : Word := d.getD 7 0

/-- The reserved bits of an operand's word A (R219). -/
def opndReserved (a : Word) : Bool :=
  decide (bits a 61 58 ≠ 0 ∨ bits a 52 50 ≠ 0 ∨ bits a 19 0 ≠ 0) ||
    (if a.getLsbD 63 then decide (bits a 49 36 ≠ 0 ∨ bits a 35 20 ≠ 0) else decide (bits a 57 53 ≠ 0))

def legalFr (n : Nat) : Bool := n == 1 || n == 2 || n == 4
def legalFc (n : Nat) : Bool := n == 1 || n == 2 || n == 4 || n == 8

/-- KSUM within ±240 (R218). -/
def legalKsum (k : BitVec 9) : Bool := decide (-240 ≤ k.toInt ∧ k.toInt ≤ 240)

/-- The folds as the array runs them (R88). -/
def effFr (legacy : Bool) (d : List Word) : Nat := if legacy then 1 else pdFr d
def effFc (legacy : Bool) (d : List Word) : Nat := if legacy then 1 else pdFc d

/-- Whether a block range breaks R137 for a reduction of length k. -/
def badRange (legacy : Bool) (d : List Word) (k : Nat) : Bool :=
  decide (k ≠ 0) && (decide (pdFirst d % (effFr legacy d * effFc legacy d) ≠ 0) ||
    decide (cdiv k (pdP d) < pdFirst d + pdCount d))

/-- Whether a pass takes its reduction length from the row set (R89, R218). -/
def kFromRows (k : PassKind) (d : List Word) : Bool := decide (k = .dw) && pdRowset d

/-- The static checks of one descriptor, in ascending order. -/
def passChecks (legacy : Bool) (k : PassKind) (d : List Word) (skew : Bool) : List (Nat × Bool) :=
  [(1, opndReserved (d.getD 0 0) || opndReserved (d.getD 2 0) || decide (bits (d.getD 5 0) 15 0 ≠ 0) ||
      decide (bits (d.getD 6 0) 36 32 ≠ 0) || (decide (pdMask d = 0) && pdMaskAddr d != 0)),
   (2, decide (pdPcode d = 3) || !legalFr (pdFr d) || !legalFc (pdFc d) || !legalKsum (pdKsum d)),
   (3, (decide (pdMask d ≠ 0) && decide ((pdMaskAddr d).toNat % 64 ≠ 0)) || skew),
   (13, (decide (k = .dx) && pdSerial d) || (decide (k = .dw) && !pdSerial d)),
   (14, decide (256 / effFr legacy d < pdM d) || decide (4096 / effFc legacy d < pdN d)),
   (18, !kFromRows k d && badRange legacy d (pdK d)),
   (20, decide (pdMask d = 3) || (decide (pdMask d ≠ 0) && decide (k ≠ .dw)))]

/-- The verdict of one descriptor: the zero fields of R217 first. -/
def passStatic (legacy : Bool) (k : PassKind) (d : List Word) (skew : Bool) (a : Word) : Verdict :=
  if pdM d = 0 ∨ pdN d = 0 ∨ pdFr d = 0 ∨ pdFc d = 0 then .illegal else firstCheck a (passChecks legacy k d skew)

/-- Check 19 of a pair's descriptors (R133). -/
def pairStatic (legacy : Bool) (x w : List Word) (a : Word) : Verdict :=
  if pdSlot x = pdSlot w ∨ pdPcode x ≠ pdPcode w ∨ pdRowset x ≠ pdRowset w ∨ effFr legacy x ≠ effFr legacy w ∨
      effFc legacy x ≠ effFc legacy w then .config 19 a
  else .ok

/-- The kind of a single pass. -/
def passKind : SpanOp → PassKind
  | .passDx => .dx
  | .passDw => .dw
  | _ => .fwd

/-- The static verdict of a pass or pair. -/
def passVerdict (i : SpanI) (d e : List Word) : Verdict :=
  let leg := i.leg
  let skew := !isAO i && statusSkew i
  if i.op = .passPair then
    worst (worst (passStatic leg .dx d skew i.a) (passStatic leg .dw e false i.b)) (pairStatic leg d e i.a)
  else passStatic leg (passKind i.op) d skew i.a

/-- A pass's descriptors arrive, from memory or the cache, and run the static checks (R213, R216). The AO form ends
here. -/
def passArrive (s : State) (i : SpanI) : State :=
  if i.a.toNat % 64 ≠ 0 then faultInstr s i (.config 3 i.a)
  else if i.op = .passPair ∧ i.b.toNat % 64 ≠ 0 then faultInstr s i (.config 3 i.b)
  else
    let r := readDesc s (accI i) i.a 64 (isReload i)
    let q := if i.op = .passPair then readDesc r.2 (accI i) i.b 64 (isReload i) else (.ok [], r.2)
    match r.1, q.1 with
    | .error p, _ => faultRead s r.2 i p
    | _, .error p => faultRead s q.2 i p
    | .ok d, .ok e =>
      let s := q.2
      match passVerdict i d e with
      | .ok => if isAO i then dropInstr s i.u else arrived s { i with ready := true, stage := .taken, desc := d, desc2 := e }
      | v => faultInstr s i v

/-! ## Operands (R219, R223) -/

/-- The length of a lease's committed row set (R89). -/
def rowLen (s : State) (l : Nat) : Option Nat := (getRt s l).rowSet.map (fun es => sumL (es.map (·.len)))

/-- Whether a ring slot of a row-set stream is of another generation than the lease's (R153). -/
def staleSlot (s : State) (l : Nat) (rowset : Bool) (t : PageTag) : Bool :=
  rowset && t.rowset && t.gen != some (getRt s l).rsGen

/-- The checks of an operand's tag: the role's transposition, block axis and block length (R223). -/
def roleBad (trans need axis : Bool) (p : Nat) (t : PageTag) : Bool :=
  !t.valid || trans != need || (fmtScaled t.fmt.toNat && (t.axis != axis || t.p != p))

/-- Pages from the first of a region that a read of its rows below r and columns below c touches, the scale plane included (R177,
R219); at least those of the region itself. -/
def pagesRead (t : PageTag) (r c : Nat) : Nat :=
  let f := t.fmt.toNat
  let w := fmtWidth f
  let whole := slotPages f t.p t.rows t.cols t.axis
  if r = 0 ∨ c = 0 then whole
  else
    let codes := (r - 1) * slotRow f t.cols + cdiv (c * w) 8
    let scales := if ¬ fmtScaled f ∨ t.p = 0 then 0
      else t.rows * slotRow f t.cols +
        (if t.axis then ((r - 1) / t.p) * t.cols + c else (r - 1) * cdiv t.cols t.p + (c - 1) / t.p + 1)
    max whole (cdiv (max codes scales) 4096)

/-- One operand resolved: its verdict and record. `axis` is the block axis its role needs; `er` and `ec` are the rows and columns that
the pass reads from the operand's origin on. -/
def operand (s : State) (l : Nat) (north : Bool) (need axis rowset : Bool) (p er ec : Nat) (a b desc : Word) :
    Verdict × Opnd :=
  let trans := a.getLsbD 62
  let o : Opnd := { trans := trans, row0 := bits b 63 32, col0 := bits b 31 0 }
  if a.getLsbD 63 then
    let c := bits a 57 53
    let x := getStr s c
    if ¬ (ctxMask s l).getLsbD c then (.priv c 2, o)
    else if x.st = .unarmed ∨ stKind x ≠ (if north then 1 else 0) then (.config 12 desc, o)
    else
      let cn := getCnt s (stData x)
      match ringPage s l c cn.c.toNat with
      | none => (.config 28 desc, o)
      | some pg =>
        let t := getTag s north pg
        let v := if 0 < avail cn ∧ staleSlot s l rowset t then Verdict.config 10 desc
          else if roleBad trans need axis p t then .config 12 desc else .ok
        (v, { o with ring := true, ctx := c, page := pg, tag := t, slot0 := cn.c.toNat })
  else
    match winPage s north l (bits a 49 36) 1 with
    | none => (.config 28 desc, o)
    | some pg =>
      let t := getTag s north pg
      let rc := bits a 35 20
      let v := if roleBad trans need axis p t ∨ (rc ≠ 0 ∧ rc ≠ t.cols) then Verdict.config 12 desc
        else if (winPage s north l (bits a 49 36)
            (pagesRead t (if er = 0 then 0 else o.row0 + er) (if ec = 0 then 0 else o.col0 + ec))).isNone then .config 28 desc
        else .ok
      (v, { o with page := pg, tag := t })

/-- The operand pairs of R66, by serial and parallel format. -/
def formatPair (sf pf : Nat) : Bool :=
  (decide (1 ≤ sf ∧ sf ≤ 5) && decide (1 ≤ pf ∧ pf ≤ 5)) || (sf == 8 && pf == 8) || (sf == 6 && (pf == 6 || pf == 7)) ||
    (sf == 7 && pf == 6)

/-- The masked rows of a tile (R143), or the bitmap's page that is not readable. -/
def readMask (s : State) (c : Acc) (d : List Word) : Except MemErr (List Bool) × State :=
  if pdMask d = 0 then (.ok [], s)
  else
    let idx := (List.range (pdM d)).map (fun i => if pdMask d = 1 then pdWrow d + i else (pdWrow d + i) / 64)
    let lo := (idx.headD 0) / 8
    let r := readVirt s c ((pdMaskAddr d).toNat + lo) (maxL idx / 8 + 1 - lo)
    (r.1.map (fun bs => idx.map (fun k => (bs.getD (k / 8 - lo) 0).getLsbD (k % 8))), r.2)

/-- The masked rows that a pass uses (R143): those read when it was armed, or, at its arm, those that the bitmap shows. -/
def armMask (s : State) (i : SpanI) (d : List Word) : Except MemErr (List Bool) × State :=
  match i.mask with
  | some m => (.ok (if pdMask d = 0 then [] else m.take (pdM d)), s)
  | none => readMask s (accI i) d

/-- The dynamic verdict of one tile and the tile (R221). In a ROWSET = 1 pass the rows of a West ring end where its ring slots end (R154):
a ring whose stream has ROWSET = 0 holds rows of its own extent, which the model never cuts at L (DESIGN CHOICE, log entry 93: R115 states
no case for it). -/
def passPart (s : State) (l : Nat) (leg : Bool) (k : PassKind) (d : List Word) (desc : Word) (masked : List Bool) :
    Verdict × PassPart :=
  let rows := if pdRowset d then rowLen s l else none
  let kk := if kFromRows k d then rows.getD 0 else pdK d
  let kEnd := min kk ((pdFirst d + pdCount d) * pdP d)
  let w := operand s l false (decide (k = .dw)) (decide (k = .dw)) (pdRowset d) (pdP d)
    (if k = .dw then kEnd else pdM d) (if k = .dw then pdM d else kEnd) (d.getD 0 0) (d.getD 1 0) desc
  let n := operand s l true false true (pdRowset d) (pdP d) kEnd (pdN d) (d.getD 2 0) (d.getD 3 0) desc
  let fw := w.2.tag.fmt.toNat
  let fn := n.2.tag.fmt.toNat
  let sf := if pdSerial d then fn else fw
  let pf := if pdSerial d then fw else fn
  let tags := w.2.tag.valid && n.2.tag.valid
  let v := getSlot s (pdSlot d)
  let own := firstCheck desc
    [(9, tags && ((w.2.tag.zpEn && (decide (k ≠ .fwd) || fn != 6)) || n.2.tag.zpEn)),
     (10, pdRowset d && rows.isNone),
     (11, tags && !formatPair sf pf),
     (15, decide (v.st = .free)),
     (16, decide (v.st ≠ .free) && (decide (v.fr ≠ effFr leg d ∨ v.fc ≠ effFc leg d) || v.ksum != pdKsum d)),
     (17, decide (v.st = .spilled ∧ segQuota s l < segsNeeded v)),
     (18, kFromRows k d && badRange leg d kk)]
  let foreign := if slotForeign s l (pdSlot d) then Verdict.priv (pdSlot d) 3 else .ok
  (worst (worst (worst own w.1) n.1) (worst foreign (cntVerdict s l (pdCnt d))),
   { kind := k, west := w.2, north := n.2, rows := pdM d, cols := pdN d, k := kk, p := pdP d, s := fmtS sf,
     fr := effFr leg d, fc := effFc leg d, blkFirst := pdFirst d, blkCount := pdCount d, slot := pdSlot d,
     serial := pdSerial d, masked := masked
     validRows := if pdRowset d ∧ k ≠ .dw ∧ ¬ w.2.ring then (rows.getD 0) - w.2.row0 else pdM d
     zp := tagZp w.2.tag, cnt := pdCnt d, rowset := pdRowset d, signalled := false })

/-- The tiles of a pass or pair with their verdict, and the state after the mask was read. The mask of a pair is that of its dW
half. -/
def passPlan (s : State) (i : SpanI) : (Verdict × List PassPart) × State :=
  let m := armMask s i (if i.op = .passPair then i.desc2 else i.desc)
  match m.1 with
  | .error p => ((pageFault p, []), m.2)
  | .ok mask =>
    if i.op = .passPair then
      let x := passPart m.2 i.lease i.leg .dx i.desc i.a []
      let w := passPart m.2 i.lease i.leg .dw i.desc2 i.b mask
      ((worst (worst x.1 w.1) (if x.2.s ≠ w.2.s then .config 19 i.a else .ok), [x.2, w.2]), m.2)
    else
      let x := passPart m.2 i.lease i.leg (passKind i.op) i.desc i.a mask
      ((x.1, [x.2]), m.2)

/-- The masked rows of a planned pass. -/
def planMask (parts : List PassPart) : List Bool := ((parts.find? (fun p => p.masked != [])).map (·.masked)).getD []

/-! ## The schedule (R132) -/

/-- The tile and its own interval that pair interval t runs, for tiles of nx and nw intervals. -/
def pairSched (ax aw nx nw t : Nat) : Nat × Nat :=
  let r := min (nx / ax) (nw / aw)
  if t < r * (ax + aw) then
    let o := t % (ax + aw)
    let q := t / (ax + aw)
    if o < ax then (0, q * ax + o) else (1, q * aw + (o - ax))
  else
    let u := t - r * (ax + aw)
    let kx := min ax (nx - r * ax)
    let kw := min aw (nw - r * aw)
    if u < kx then (0, r * ax + u)
    else if u < kx + kw then (1, r * aw + (u - kx))
    else if kx < nx - r * ax then (0, r * ax + (u - kw))
    else (1, r * aw + (u - kx))

/-- Intervals of one sweep. -/
def runN (r : PassRun) : Nat := sumL (r.parts.map partN)

/-- The logical groups that a run uses (R102): those of its tiles that have intervals. -/
def runGroups (r : PassRun) : Nat :=
  maxL ((r.parts.filter (fun p => partN p != 0)).map (fun p => (p.fc - 1) * (64 / p.fc) + cdiv p.cols 64))

/-- The sweeps of a pass (R102): logical groups by active groups. -/
def runSweeps (r : PassRun) : Nat := cdiv (runGroups r) (max 1 r.groups)

/-- Intervals of the whole pass, numbered across its sweeps (R93). -/
def runTotal (r : PassRun) : Nat := runN r * runSweeps r

/-- The tile and its own interval of an interval of a sweep. -/
def runSched (r : PassRun) (t : Nat) : Nat × Nat :=
  match r.parts with
  | [x, w] => pairSched (max 1 r.altX) (max 1 r.altW) (partN x) (partN w) t
  | _ => (0, t)

/-! ## Capture (R74, R84, R157) -/

/-- Whether the reduction runs along the rows of an operand's region (R130). -/
def alongRows (k : PassKind) (north : Bool) : Bool := north || decide (k = .dw)

/-- Elements along the reduction in one ring slot. -/
def ringSpan (s : State) (o : Opnd) (rows : Bool) : Nat :=
  max 1 (if rows then stTileRows (getStr s o.ctx) else stTileCols (getStr s o.ctx))

/-- The origin of an operand along its reduction. -/
def origin (o : Opnd) (rows : Bool) : Nat := if rows then o.row0 else o.col0

/-- The place of an element of an operand: page, tag, row and column, for output index x and reduction index k. A ring's
slots follow one another along the reduction from the pass's first block. -/
def place (s : State) (l : Nat) (p : PassPart) (o : Opnd) (rows : Bool) (x k : Nat) : Option (Nat × PageTag × Nat × Nat) :=
  if o.ring then
    let pos := origin o rows + (k - p.blkFirst * p.p)
    let n := ringSpan s o rows
    (ringPage s l o.ctx (o.slot0 + pos / n)).map (fun pg =>
      let t := getTag s (stKind (getStr s o.ctx) = 1) pg
      if rows then (pg, t, pos % n, o.col0 + x) else (pg, t, o.row0 + x, pos % n))
  else some (if rows then (o.page, o.tag, o.row0 + k, o.col0 + x) else (o.page, o.tag, o.row0 + x, o.col0 + k))

/-- Whether a tile row sends valid elements (R90, R143). -/
def rowOk (p : PassPart) (i : Nat) : Bool := decide (i < p.validRows) && !(p.masked.getD i false)

/-- One operand element as its feeder forms it, its block scale, and whether its code is INT8's 0x80 (R29, R31). -/
def feed (s : State) (l : Nat) (p : PassPart) (o : Opnd) (north : Bool) (x k : Nat) : Elem × Nat × Bool :=
  match place s l p o (alongRows p.kind north) x k with
  | none => ({}, 127, false)
  | some (pg, t, r, c) =>
    let present := !o.ring || (decide (r < t.validRows) && decide (c < t.validCols))
    if k < p.k ∧ present ∧ (north ∨ rowOk p x) then
      let b := storeScale s north pg t r c
      let code := storeCode s north pg t r c
      (element t.fmt.toNat b code, b, decide (t.fmt.toNat = 6 ∧ code = 128))
    else ({}, 127, false)

/-- Whether an output row or column lies within what a ring slot holds of it (R90, R154). -/
def feedLive (s : State) (l : Nat) (p : PassPart) (o : Opnd) (north : Bool) (x k : Nat) : Bool :=
  let rows := alongRows p.kind north
  match place s l p o rows x k with
  | none => false
  | some (_, t, r, c) => !o.ring || (if rows then decide (c < t.validCols) else decide (r < t.validRows))

/-- The block of one row or column: P elements, the scale of its first (R74). -/
def feedBlock (s : State) (l : Nat) (p : PassPart) (o : Opnd) (north : Bool) (x beta : Nat) : Block × Nat :=
  let es := (List.range p.p).map (fun q => feed s l p o north x (beta * p.p + q))
  let b := ((es.head?).map (·.2.1)).getD 127
  ({ mkBlock o.tag.fmt.toNat b (es.map (·.1)) with live := feedLive s l p o north x (beta * p.p) },
    (es.filter (·.2.2)).length)

/-- The block that a band works on in a tile's interval (R84, R137); none where the band is idle (R80). -/
def bandBlock (p : PassPart) (it q : Nat) : Option Nat :=
  let k := it * (p.fr * p.fc) + q
  if k < p.blkCount then some (p.blkFirst + k) else none

/-- The bands of a tile that work in an interval, with their blocks. -/
def bandsOf (p : PassPart) (it : Nat) : List (Nat × Nat) :=
  (List.range (p.fr * p.fc)).filterMap (fun q => (bandBlock p it q).map (fun b => (q, b)))

/-- The position past the last reduction element of a tile's interval, from the first element of the pass. -/
def lastPos (p : PassPart) (o : Opnd) (rows : Bool) (it : Nat) : Nat :=
  let e := min p.k ((p.blkFirst + min p.blkCount ((it + 1) * (p.fr * p.fc))) * p.p)
  origin o rows + (e - p.blkFirst * p.p)

/-- Ring slots wholly read once an interval's blocks are in the block buffers (R157). -/
def ringRead (s : State) (l : Nat) (p : PassPart) (o : Opnd) (rows : Bool) (it : Nat) : Nat :=
  let e := lastPos p o rows it
  let n := ringSpan s o rows
  let j := e / n
  let t := (ringPage s l o.ctx (o.slot0 + j)).map (getTag s (stKind (getStr s o.ctx) = 1))
  let ext := (t.map (fun t => if rows then t.validRows else t.validCols)).getD 0
  if 0 < e % n ∧ ext ≤ e % n then j + 1 else j

/-- What a feeder set finds when it is to read an operand's blocks of an interval: the elements are there, a slot lacks, or
a slot is of another generation. -/
inductive Ready where
  | yes | dry | stale
  deriving DecidableEq, Repr

/-- Whether an operand's blocks of an interval can be read (R78, R153, R157): slot C + j only while P − C > j. -/
def opReady (s : State) (l : Nat) (p : PassPart) (o : Opnd) (north : Bool) (it : Nat) : Ready :=
  if ¬ o.ring then .yes
  else
    let rows := alongRows p.kind north
    let e := lastPos p o rows it
    let n := ringSpan s o rows
    let first := lastPos p o rows (it - 1) / n
    let lo := if it = 0 then 0 else first
    let hi := (e - 1) / n
    let have_ := avail (getCnt s (stData (getStr s o.ctx))) + o.taken
    let gone := (getStr s o.ctx).xfers.any (fun t => t.again && decide (o.slot0 + lo ≤ t.n ∧ t.n ≤ o.slot0 + hi))
    if e ≠ 0 ∧ (have_ ≤ hi ∨ gone) then .dry
    else if (List.range (hi + 1 - lo)).any (fun k =>
        match ringPage s l o.ctx (o.slot0 + lo + k) with
        | some pg => staleSlot s l p.rowset (getTag s north pg)
        | none => false) then .stale
    else .yes

/-- Capture a tile's interval: the blocks of its bands, and the 0x80 codes among them. -/
def capture (s : State) (l : Nat) (p : PassPart) (it : Nat) : Captured × Nat :=
  let bands := bandsOf p it
  let w := (bands.map (fun qb => (List.range p.rows).map (fun i =>
    (256 * qb.1 + i, feedBlock s l p p.west false i qb.2)))).flatten
  let n := (bands.map (fun qb => (List.range p.cols).map (fun j =>
    (4096 * qb.1 + j, feedBlock s l p p.north true j qb.2)))).flatten
  ({ west := w.map (fun kb => (kb.1, kb.2.1)), north := n.map (fun kb => (kb.1, kb.2.1)) },
   sumL (w.map (·.2.2)) + sumL (n.map (·.2.2)))

/-- Take the ring slots of an operand that have been read and not taken, as far as they are available: a take waits for
availability (R157, R256). -/
def takeRing (s : State) (o : Opnd) : Opnd × State :=
  let c := stData (getStr s o.ctx)
  let n := min (o.read - o.taken) (avail (getCnt s c))
  if n = 0 then (o, s) else ({ o with taken := o.taken + n }, unitTake s c (BitVec.ofNat 64 n))

/-- Note the ring slots of an operand that its feeders have read with an interval, and take them (R157). -/
def readRing (s : State) (l : Nat) (p : PassPart) (o : Opnd) (north : Bool) (it : Nat) : Opnd × State :=
  if ¬ o.ring then (o, s)
  else takeRing s { o with read := max o.read (ringRead s l p o (alongRows p.kind north) it) }

end Sys2Proof.Machine
end

