-- ==== Sys2Proof/Machine/Array.lean ====
section
/-! DEFINITION. The Truss array: the start of a pass (R220, R221), the periods at its edges (R78 to R80), the ends of
intervals and their promotion (R67, R91, R112 to R117), residue errors and repair (R95, R100, R101), stops and resumes
(R92 to R94, R168), and completion (R131, R220). -/

namespace Sys2Proof.Machine

/-! ## Accounting (R382, R390) -/

/-- Charge cycles in which a pass holds the array to one slot class: 0x011 Wasted, 0x012 Front-starved, 0x013
Back-starved, 0 for those whose class is settled later. -/
def charge (s : State) (r : PassRun) (cycles cls : Nat) : State :=
  let a := s.fuse.activeGroups
  let src := srcRun s r
  let s := event s 0x015 cycles src
  let s := if cls = 0 then s else event s cls (cycles * a * 16384) src
  addMeters s r.lease (a * cycles) 0 0

/-- Switch a cold array on: one that has ramped down, or that has been idle for more than 64 cycles (R76, R82). -/
def rampUp (s : State) (r : PassRun) : State :=
  if s.arr.warm ∧ s.arr.idle ≤ 64 then s else event (charge s r 32 0x011) 0x016 1 (srcRun s r)

/-- Put a run into the array at the start of its fill: the ramp charged, the throttle phase at 0. -/
def enterArray (s : State) (r : PassRun) : State :=
  let s := rampUp s r
  { s with arr := { s.arr with run := some { r with fill := 0 }, warm := true, idle := 0, phase := 0, cells := [], hold := none } }

/-- Charge the rest of the 338 cycles of a sweep's fill and final promotion (R76, R390) to a run whose last promotion has ended. -/
def chargeFill (s : State) (r : PassRun) : State := charge s r (338 - r.fill) 0x011

/-! ## Choice (R212, R220, R235, R359) -/

/-- Whether a pass that may start is held back by its lease's earlier row-set commits or earlier unstarted passes. -/
def passHeld (s : State) (i : SpanI) : Bool :=
  s.instrs.any (fun j => decide (j.lease = i.lease ∧ j.u < i.u) && !isAO j &&
    (decide (j.op = .rowsetCommit) || (isPass j.op && decide (j.stage ≠ .running))))

/-- Whether an earlier pass of the lease has started and not completed. -/
def passUnderWay (s : State) (i : SpanI) : Bool :=
  s.instrs.any (fun j => decide (j.lease = i.lease ∧ j.u < i.u ∧ j.stage = .running) && isPass j.op && j.owes.isNone)

/-- Whether a pass's descriptors are at hand. -/
def passArrived (s : State) (i : SpanI) : Bool :=
  i.ready || (!isReload i && descCached s i.lease i.a.toNat 64 &&
    (i.op ≠ .passPair || descCached s i.lease i.b.toNat 64))

/-- Whether the order on slots lets an instruction start on its slots, spills and fills in the way included. -/
def slotsClear (s : State) (i : SpanI) (xs : List Nat) : Bool :=
  xs.all (fun x => !slotWaits s i x && !slotMoving (getSlot s x))

/-- The pass of a lease that is next in sequence: its passes start in issue sequence (R212), and one that has started keeps the others
back until it completes, for a lease keeps one ARRAY_POS (R93, R368). -/
def nextPass (s : State) (l : Nat) : Option SpanI :=
  if ¬ takes s l then none
  else (s.instrs.find? (fun i => decide (i.lease = l ∧ i.stage ≠ .running) && isPass i.op && !isAO i)).filter (fun i =>
    !passHeld s i && !passUnderWay s i)

/-- The pass of a lease that stands to start: chosen, in sequence, with its descriptors and its slots at hand. -/
def passReady (s : State) (l : Nat) : Option SpanI :=
  (nextPass s l).filter (fun i => passArrived s i && slotsClear s i ((opSlots s i).getD []))

/-- Whether a tile's operands have the slots that an interval needs. -/
def partReady (s : State) (l : Nat) (p : PassPart) (it : Nat) : Ready :=
  match opReady s l p p.west false it, opReady s l p p.north true it with
  | .dry, _ => .dry
  | _, .dry => .dry
  | .stale, _ => .stale
  | _, .stale => .stale
  | .yes, .yes => .yes

/-- The tile and own interval that a run sends next. -/
def nextPart (r : PassRun) : Option (Nat × PassPart × Nat) :=
  let pt := runSched r (r.t % max 1 (runN r))
  (r.parts[pt.1]?).map (fun p => (pt.1, p, pt.2))

/-- Whether a held pass of a lease can resume: an abandoned one once the slot it lacked is shown (R168). -/
def heldReady (s : State) (l : Nat) : Option PassRun :=
  if ¬ takes s l then none
  else (getRt s l).held.filter (fun r =>
    r.parts.all (fun p => !partWorks p || !slotMoving (getSlot s p.slot)) &&
      (decide (r.stop ≠ some .abandon) || (match nextPart r with
        | some (_, p, it) => decide (partReady s l p it ≠ .dry)
        | none => true)))

/-- Whether a slot has to be filled, or is being filled, before a pass may use it (R119). -/
def wantsFill (s : State) (x : Nat) : Bool := decide ((getSlot s x).st = .spilled ∨ (getSlot s x).st = .filling)

/-- What a lease's next pass waits for once the array unit has chosen it with the array free (R390): 0x012 its descriptor, 0x013 an
implicit fill, 0 neither. A held pass that lacks its data has released the array (R168). -/
def waitClass (s : State) (l : Nat) : Nat :=
  match (getRt s l).held with
  | some r =>
    if takes s l ∧ r.stop ≠ some .abandon ∧ r.parts.any (fun p => partWorks p && wantsFill s p.slot) then 0x013 else 0
  | none =>
    match nextPass s l with
    | none => 0
    | some i =>
      if ¬ passArrived s i then 0x012
      else if ((opSlots s i).getD []).any (fun x => wantsFill s x && !slotForeign s l x && !slotWaits s i x) then 0x013 else 0

/-- Whether a lease's pass could start. -/
def couldStart (s : State) (l : Nat) : Bool := (heldReady s l).isSome || (passReady s l).isSome

/-- The lease whose pass holds the free array while it waits (R390). An Express pass that could start takes it from any other class
(R359; log entry 72). -/
def arrayHeld (s : State) : Option Nat :=
  s.arr.hold.filter (fun l => takes s l && ((getRt s l).held.isSome || (nextPass s l).isSome) &&
    (decide (workClass s 1 l = 0) || !(leaseOrder s 1).any (fun k => decide (workClass s 1 k = 0) && couldStart s k)))

/-- The lease whose pass stands next for the array (R359, R361). -/
def standsNext (s : State) : Option Nat :=
  match arrayHeld s with
  | some l => if couldStart s l then some l else none
  | none => (leaseOrder s 1).find? (couldStart s)

/-- Whether the array is out of use for a pass: a loop-back of its feeders runs, or a store bank waits for its spare (R408, R419). -/
def arrayOut (s : State) : Bool := looping s .span 1 || s.store.badWest != [] || s.store.badNorth != []

/-! ## PASS_START -/

/-- The run of a started pass: no interval sent. -/
def newRun (s : State) (i : SpanI) (parts : List PassPart) : PassRun :=
  { u := i.u, lease := i.lease, legacy := i.leg, parts := parts, altX := bits i.w1 7 4 + 1,
    altW := bits i.w1 3 0 + 1, groups := s.fuse.activeGroups, counts := List.replicate 319 0 }

/-- The tiles of a plan that have nothing to do. -/
def idleParts (parts : List PassPart) : List PassPart := parts.filter (fun p => partN p == 0)

/-- Count what the plan of a pass counts: a fold forced (R88) and masked tiles (R144). FOLD_FORCED counts an instruction once, a pair as
one and one without intervals too, where R88 says only "each such pass" (DESIGN CHOICE, log entry 89). -/
def planEvents (s : State) (i : SpanI) (parts : List PassPart) : State :=
  let s := if i.leg then event s 0x019 1 (srcOf i) else s
  event s 0x024 (parts.filter (fun p => p.masked ≠ [] && p.masked.all (·))).length (srcOf i)

/-- Whether every earlier operation on the slot of each of some tiles has completed (R144, R217). -/
def nothingBehind (s : State) (i : SpanI) (parts : List PassPart) : Bool := parts.all (fun p => !slotBehind s i p.slot)

/-- Complete a pass with nothing to do (R144, R217): its signals, SKIPPED set. -/
def skipPass (s : State) (i : SpanI) (parts : List PassPart) : State :=
  finish (event (planEvents s i parts) 0x017 parts.length (srcOf i)) i
    { skipped := true, sticky := stickyOf s (parts.map (·.slot)) } (parts.map (·.cnt))

/-- Put a changed tile record into a run. -/
def setPart (r : PassRun) (k : Nat) (p : PassPart) : PassRun := { r with parts := r.parts.set k p }

/-- The tile of a run that has no intervals, is not signalled, and on whose slot every earlier operation has completed (R144). -/
def idlePart (s : State) (r : PassRun) : Option (Nat × PassPart) :=
  ((List.range r.parts.length).zip r.parts).find? (fun kp => !kp.2.signalled && partN kp.2 == 0 &&
    (match getInstr s r.u with | some i => !slotBehind s i kp.2.slot | none => true))

/-- Signal the tile without intervals of a pair whose other tile holds the array, as soon as R144 lets it (R144, R217, R389). -/
def signalIdle (s : State) : State :=
  match s.arr.run with
  | none => s
  | some r => match idlePart s r with
    | none => s
    | some (k, p) =>
      let s := { s with arr := { s.arr with run := some (setPart r k { p with signalled := true }) } }
      unitSignal (event s 0x017 1 (srcRun s r)) p.cnt 1

/-- Start a pass with work: its tiles that have intervals hold their slots, and one that has none signals on its own. -/
def runPass (s : State) (i : SpanI) (parts : List PassPart) : State :=
  let s := planEvents s i parts
  let s := activate s ((parts.filter partWorks).map (·.slot))
  let s := serve (putInstr s { i with stage := .running }) 1 i.lease
  signalIdle (enterArray s (newRun s i parts))

/-- The slots of a plan that a pass with work fills first (R119): SPILLED slots of the tiles that have work. -/
def planFills (s : State) (i : SpanI) (parts : List PassPart) : List Nat :=
  ((parts.filter (fun p => partN p != 0)).map (·.slot)).filter (fun x =>
    decide ((getSlot s x).st = .spilled ∧ segsNeeded (getSlot s x) ≤ segQuota s i.lease) && !slotForeign s i.lease x)

/-- A pass that its unit considers, with its descriptors arrived: it is armed, its mask is read once (R143), and it completes, faults,
asks for fills or starts; or it waits for a READ of its mask or of its status address's translation. -/
def considerPass (s : State) (i : SpanI) : State :=
  if ¬ slotsClear s i ((opSlots s i).getD []) then s
  else if statusWaits s i then (armStatus s i).2.2
  else
    let r := passPlan s i
    let j := if r.1.2 = [] then i else { i with mask := some (planMask r.1.2) }
    let a := armStatus (putInstr r.2 j) j
    let v := worst r.1.1 (if a.1 then .config 30 i.a else .ok)
    if v = .wait then r.2
    else if v = .ok ∧ r.1.2.all (fun p => partN p == 0) then
      if nothingBehind s i r.1.2 then skipPass a.2.2 a.2.1 r.1.2 else putInstr r.2 j
    else if s.arr.run.isSome ∨ passUnderWay s i ∨ standsNext s ≠ some i.lease ∨ arrayOut s then
      putInstr r.2 j
    else if v ≠ .ok then faultInstr a.2.2 j v
    else
      let fills := planFills s i r.1.2
      if fills ≠ [] then
        let s := fills.foldl (askFill i.u) (putInstr r.2 j)
        { s with arr := { s.arr with hold := some i.lease } }
      else runPass a.2.2 a.2.1 r.1.2

/-- PASS_START (R220): the array unit's next pass begins its busy time; a SPILLED slot is filled first (R119). -/
def execPassStart (u : Nat) (s : State) : Result :=
  .next (match getInstr s u with
    | none => s
    | some i =>
      if ¬ isPass i.op ∨ isAO i ∨ i.stage = .running ∨ ¬ takes s i.lease ∨ passHeld s i ∨ ¬ passArrived s i then s
      else
        let s := if i.ready then s else passArrive s i
        match getInstr s u with
        | none => s
        | some i => considerPass s i)

/-! ## ELEMENT_PERIOD -/

/-- THROTTLE_LEVEL (R397). -/
def throttleLevel (s : State) : Nat :=
  max s.mon.hostFloor.toNat (max s.mon.thermal.toNat s.mon.droopLvl.toNat)

/-- bitrev4 of R79. -/
def bitrev4 (p : BitVec 4) : Nat :=
  (p.getLsbD 0).toNat * 8 + (p.getLsbD 1).toNat * 4 + (p.getLsbD 2).toNat * 2 + (p.getLsbD 3).toNat

/-- The intervals whose periods the edges send: all, or those that a pre-emption stop still needs (R92). -/
def edgeGoal (r : PassRun) : Nat :=
  match r.stop with
  | none => runTotal r
  | some .preempt => maxL ((List.range 319).map (fun d =>
      if r.counts.getD d 0 < r.limit.getD d 0 then r.limit.getD d 0 else 0))
  | _ => 0

/-- Replace the run. -/
def setRun (s : State) (r : PassRun) : State := { s with arr := { s.arr with run := some r } }

/-! ## The cells between their interval ends (R67, R70) -/

/-- The rows and columns of the array that a tile uses, with plane, row and column in the tile (R83, R86). -/
def tileCells (p : PassPart) : List (Nat × Nat × Nat × Nat × Nat) :=
  ((List.range (p.fr * p.fc)).map (fun q => ((List.range p.rows).map (fun i => (List.range p.cols).map (fun j =>
    ((q % p.fr) * (256 / p.fr) + i, (q / p.fr) * (4096 / p.fc) + j, q, i, j)))).flatten)).flatten

/-- The key of a cell's registers: array row, active group and column of the group. -/
def cellKey (row g jj : Nat) : Nat := 4096 * row + 64 * g + jj

/-- The operand blocks of a cell in an interval, serial first. -/
def cellBlocks (p : PassPart) (c : Captured) (q i j : Nat) : Block × Block :=
  let w := Tab.get {} c.west (256 * q + i)
  let n := Tab.get {} c.north (4096 * q + j)
  if p.serial then (n, w) else (w, n)

/-- The element periods of an interval that the cells of a diagonal have taken: those whose period has reached the diagonal and whose
serial steps are over (R64, R65, R91). -/
def takenPeriods (r : PassRun) (d t : Nat) : Nat :=
  ((Tab.get [] r.times t).filter (fun c => decide (c + 4 + d + (runSP r).1 ≤ r.sent))).length

/-- Whether a diagonal's cells work on an interval: with no stop every one, on a pre-emption stop those that they still complete (R92),
on any other none (R95). -/
def cellsWork (r : PassRun) (d t : Nat) : Bool :=
  match r.stop with
  | none => true
  | some .preempt => decide (t < r.limit.getD d 0)
  | _ => false

/-- What the active register of a cell holds during its current interval, with the saturating steps so far; none where the cell has no
block there, or a stop lets it begin none. -/
def activePartial (r : PassRun) (k : Nat) (p : PassPart) (cell : Nat × Nat × Nat × Nat × Nat) : Option (Nat × PartialRec × Nat) :=
  let n := max 1 (runN r)
  let a := max 1 r.groups
  let lg := cell.2.1 / 64
  let d := cell.1 + lg % a
  let t := r.counts.getD d 0
  let pt := runSched r (t % n)
  if runTotal r ≤ t ∨ ¬ cellsWork r d t ∨ pt.1 ≠ k ∨ lg / a ≠ t / n ∨ (bandBlock p pt.2 cell.2.2.1).isNone then none
  else
    let m := takenPeriods r d t
    let b := cellBlocks p (Tab.get {} r.blocks (t % n)) cell.2.2.1 cell.2.2.2.1 cell.2.2.2.2
    let x := cellPrefix m b.1 b.2
    some (cellKey cell.1 (lg % a) (cell.2.1 % 64), if m = 0 then {} else x.1, if m = 0 then 0 else x.2)

/-- A cell with its active register replaced. -/
def withActive (c : CellRegs) (p : PartialRec) : CellRegs := if c.active then { c with r1 := p } else { c with r0 := p }

/-- Let the cells take what has reached them as a run goes on: every active register holds the partial so far, and the saturating steps
since are counted (R67, R71). -/
def accumulate (s : State) (old new : PassRun) : State :=
  ((List.range new.parts.length).zip new.parts).foldl (fun s kp => (tileCells kp.2).foldl (fun s cell =>
    match activePartial new kp.1 kp.2 cell with
    | none => s
    | some (key, rec, sats) =>
      let d := cell.1 + (cell.2.1 / 64) % max 1 new.groups
      let same := old.counts.getD d 0 == new.counts.getD d 0
      let seen := if same then ((activePartial old kp.1 kp.2 cell).map (·.2.2)).getD 0 else 0
      let s := { s with arr := { s.arr with cells := Tab.set {} s.arr.cells key (withActive (Tab.get {} s.arr.cells key) rec) } }
      event s 0x020 (sats - seen) (srcRun s new)) s) s

/-- A run as it goes on in the array. -/
def advanceRun (s : State) (old new : PassRun) : State := setRun (accumulate s old new) new

/-- One bubble of a class (R391). -/
def bubble (s : State) (r : PassRun) (w cls : Nat) : State :=
  let q := { r with sent := r.sent + w, starved := if cls = 0x012 ∧ r.starved = 0 then 1 else r.starved }
  advanceRun (charge { s with arr := { s.arr with phase := s.arr.phase + 1 } } q w cls) r q

/-- The formats that the hold of R81 goes on with: those of the pass that last ran. -/
def runFmt (s : State) (r : PassRun) : Byte × Byte :=
  match r.parts.getLast? with
  | some p => (p.west.tag.fmt, p.north.tag.fmt)
  | none => s.arr.lastFmt

/-- Empty the array of a pass: the array stays warm (R81). -/
def emptyArray (s : State) (r : PassRun) : State :=
  { s with arr := { s.arr with run := none, warm := true, idle := 0, lastFmt := runFmt s r, cells := [] } }

/-- Take a pass out of the array for good: its slots settle. -/
def leaveArray (s : State) (r : PassRun) : State := settle (emptyArray s r) (r.parts.map (·.slot))

/-- A ring slot of another row-set generation stops the pass with check 10 (R153): no status, no signal. -/
def generationStop (s : State) (r : PassRun) : State :=
  let s := leaveArray (discard s r) r
  match getInstr s r.u with
  | some i => faultInstr s i (.config 10 i.a)
  | none => s

/-- Capture an interval's blocks where they are not yet held, take the ring slots read, and count 0x80 codes. The later sweeps of R102
use the blocks of the first: a ring's slots are taken once, and FORMAT_MINCODE counts a code once (DESIGN CHOICE, log entry 73). -/
def captureInterval (s : State) (r : PassRun) (k : Nat) (p : PassPart) (it : Nat) : PassRun × State :=
  let key := r.t % max 1 (runN r)
  if r.blocks.any (fun b => b.1 == key) then (r, s)
  else
    let c := capture s r.lease p it
    let s := event s 0x023 c.2 (srcRun s r)
    let w := readRing s r.lease p p.west false it
    let n := readRing w.2 r.lease p p.north true it
    (setPart { r with blocks := Tab.put r.blocks key c.1 } k { p with west := w.1, north := n.1 }, n.2)

/-- The takes of ring slots that still wait for availability (R256), made as far as they can be. -/
def takeOwed (s : State) (r : PassRun) : PassRun × State :=
  ((List.range r.parts.length).zip r.parts).foldl (fun (rs : PassRun × State) kp =>
    let w := takeRing rs.2 kp.2.west
    let n := takeRing w.2 kp.2.north
    (setPart rs.1 kp.1 { kp.2 with west := w.1, north := n.1 }, n.2)) (r, s)

/-- Whether a run has taken every ring slot that it has read. -/
def takesMade (r : PassRun) : Bool :=
  r.parts.all (fun p => decide (p.west.read ≤ p.west.taken ∧ p.north.read ≤ p.north.taken))

/-- Cells of the diagonals that a pre-emption stop lets complete no interval from t on: a period still sent for others is Wasted in
them. -/
def stoppedCells (r : PassRun) (t : Nat) : Nat :=
  if r.stop = some .preempt then
    sumL ((List.range 319).map (fun d => if r.limit.getD d 0 ≤ t then diagonalCells r.groups d else 0))
  else 0

/-- One data period: at the first of an interval its blocks are captured; after the last, the next interval or the next
sweep's fill follows (R102). The throttle phase runs on from one sweep into the next (DESIGN CHOICE, log entry 73: R79 starts it at
cycle 0 of each pass, and R102 calls each sweep a full pass under R76). -/
def dataPeriod (s : State) (r : PassRun) (k : Nat) (p : PassPart) (it : Nat) : State :=
  let cs := if r.q = 0 then captureInterval s r k p it else (r, s)
  let r := cs.1
  let s := charge { cs.2 with arr := { cs.2.arr with phase := cs.2.arr.phase + 1 } } r p.s 0
  let s := event s 0x011 (stoppedCells r r.t * p.s) (srcRun s r)
  let s := if r.t < r.replayTo then addMeters s r.lease 0 (s.fuse.activeGroups * p.s) 0 else s
  let q := { r with sent := r.sent + p.s, q := r.q + 1, starved := 0
                    times := Tab.put r.times r.t (Tab.get [] r.times r.t ++ [r.sent]) }
  if q.q < p.p then advanceRun s r q
  else
    let q := { q with q := 0, t := r.t + 1 }
    if q.t % max 1 (runN q) = 0 ∧ q.t < edgeGoal q then advanceRun (charge s q 338 0x011) r { q with sent := q.sent + 338 }
    else advanceRun s r q

/-- The Girder banks that a run's promotions write: one for each row of a band in use (R104). -/
def runBanks (r : PassRun) : List Nat :=
  ((r.parts.filter partWorks).map (fun p =>
    ((List.range p.fr).map (fun b => (List.range p.rows).map (fun i => b * (256 / p.fr) + i))).flatten)).flatten

/-- Whether a promotion of the run waits for a bank whose spare is being filled (R408). -/
def bankStall (s : State) (r : PassRun) : Bool := s.gir.bankBusy.any (fun b => (runBanks r).contains b)

/-- ELEMENT_PERIOD (R78): the edges send a data period or a bubble. `dry` says that a feeder lacks an element whatever the
rings hold, `back` that a promotion is in the way. -/
def execElementPeriod (dry back : Bool) (s : State) : Result :=
  .next (match s.arr.run with
    | none => s
    | some r =>
      let owed := takeOwed s r
      let r := owed.1
      let s := owed.2
      match nextPart r with
      | none => setRun s r
      | some (k, p, it) =>
        if edgeGoal r ≤ r.t then setRun s r
        else if bitrev4 s.arr.phase < throttleLevel s then event (bubble s r p.s 0x013) 0x01B 1 (srcRun s r)
        else if back ∨ bankStall s r then bubble s r p.s 0x013
        else
          let held := r.blocks.any (fun b => b.1 == r.t % max 1 (runN r))
          match (if r.q = 0 ∧ ¬ held then partReady s r.lease p it else .yes) with
          | .stale => generationStop s r
          | .dry => bubble s r p.s 0x012
          | .yes => if dry then bubble s r p.s 0x012 else dataPeriod s r k p it)

/-! ## INTERVAL_END: promotion (R112 to R117) -/

/-- The cells' rows and groups on a diagonal (R91): g counts the active groups only, so that a disabled group's stage adds nothing to the
skew (DESIGN CHOICE, log entry 73). -/
def diagonal (groups d : Nat) : List (Nat × Nat) :=
  (List.range groups).filterMap (fun g => if g ≤ d ∧ d < 256 + g then some (d - g, g) else none)

/-- Whether a cluster had committed an interval before the last restart (R94). -/
def suppressed (r : PassRun) (lg i tau : Nat) : Bool :=
  r.supp.any (fun layer =>
    let a := max 1 layer.1
    decide ((lg / a) * runN r + tau < layer.2.getD (i + lg % a) 0))

/-- A cell ends an interval: its active register takes the partial, and the registers exchange roles (R67). -/
def endCell (c : CellRegs) (p : PartialRec) : CellRegs :=
  if c.active then { c with r1 := p, active := false, r0 := {} } else { c with r0 := p, active := true, r1 := {} }

/-- The record that a cell hands to its adder: the register that is no longer active (R72). -/
def handed (c : CellRegs) : PartialRec := if c.active then c.r0 else c.r1

/-- The integer column sum of a captured North block: its INT8 codes (R52; log entry 13). -/
def colSum (b : Block) : Int := (b.elems.filter (·.valid)).foldl (fun n x => n + x.code) 0

/-- zp_raw of R115. -/
def zpRaw (p : PassPart) (north : Block) (t : Int) : Int :=
  match p.zp with
  | some z => z * colSum north * 2 ^ (18 - t).toNat
  | none => 0

/-- Promote a record into an entry, with the slot's sticky bits (R112 to R114). A SPECIAL record that meets an uncorrectable entry leaves
SPECIAL as it is: R113's words would set it, and the pseudocode of promotion returns first (DESIGN CHOICE, log entry 92). -/
def promoteInto (s : State) (r : PassRun) (p : PassPart) (rec : PartialRec) (zr : Int) (q i j : Nat) : State :=
  let v := getSlot s p.slot
  match entryAt v q i j with
  | none => s
  | some (bank, w) =>
    let e := readEntry s v q i j
    let s := if e.chk = 1 then event s 0x032 1 (srcRun s r) else s
    let s := if e.chk = 2 then entryUe s p.slot bank w else s
    let e := if e.chk = 1 then { e with chk := 0 } else e
    let n := promote e rec zr r.legacy
    let s := if e.chk = 2 then s else setEnt s bank w n.1
    let s := if n.2.1 || n.2.2 then event s 0x021 1 (srcRun s r) else s
    let v := getSlot s p.slot
    setSlot s p.slot { v with accSat := v.accSat || n.2.1, psat := v.psat || rec.psat,
                              special := v.special || (rec.special && e.chk != 2) }

/-- One cell's end of an interval: the state, and its periods with both elements valid. Its saturating steps that are not yet counted are
counted whatever becomes of the interval (R71). -/
def cellEnd (s : State) (r : PassRun) (p : PassPart) (c : Captured) (tau it sweep i g jj : Nat) : State × Nat :=
  let lg := sweep * r.groups + g
  let j := 64 * lg + jj
  let bw := 4096 / p.fc
  let rb := 256 / p.fr
  let q := (j / bw) * p.fr + i / rb
  let b := cellBlocks p c q (i % rb) (j % bw)
  if 4096 ≤ j ∨ p.rows ≤ i % rb ∨ p.cols ≤ j % bw ∨ (bandBlock p it q).isNone ∨ ¬ rowOk p (i % rb) ∨
      ¬ (Tab.get {} c.west (256 * q + i % rb)).live then (s, 0)
  else
    let cell := cellInterval b.1 b.2
    let seen := (cellPrefix (takenPeriods r (i + g) (sweep * max 1 (runN r) + tau)) b.1 b.2).2
    let key := cellKey i g jj
    let regs := endCell (Tab.get {} s.arr.cells key) cell.1
    let s := { s with arr := { s.arr with cells := Tab.set {} s.arr.cells key regs } }
    let s := event s 0x020 (cell.2 - seen) (srcRun s r)
    if suppressed r lg i tau then (s, 0)
    else (promoteInto s r p (handed regs) (zpRaw p (if p.serial then b.1 else b.2) cell.1.t) q (i % rb) (j % bw),
          ((b.1.elems.zip b.2.elems).filter (fun ab => ab.1.valid && ab.2.valid)).length)

/-- The clusters of a diagonal end their interval `t`: every cell hands its record over, and every cluster that has not
committed the interval promotes it (R91, R94). -/
def commitDiagonal (s : State) (r : PassRun) (d t : Nat) : State :=
  let n := max 1 (runN r)
  let pt := runSched r (t % n)
  match r.parts[pt.1]? with
  | none => s
  | some p =>
    let c := Tab.get {} r.blocks (t % n)
    let cells := diagonal r.groups d
    let res := cells.foldl (fun sn ig => (List.range 64).foldl (fun sn jj =>
      let q := cellEnd sn.1 r p c (t % n) pt.2 (t / n) ig.1 ig.2 jj
      (q.1, sn.2 + q.2)) sn) (s, 0)
    let live := (cells.filter (fun ig => !suppressed r (t / n * r.groups + ig.2) ig.1 (t % n))).length
    let src := srcRun s r
    let s := event res.1 0x040 (4 * live) src
    let s := event s 0x010 (p.s * res.2) src
    event s 0x011 (p.s * (64 * p.p * cells.length - res.2)) src

/-! ## INTERVAL_END: residue errors (R95, R100, R101) -/

/-- Where a set of erring cells lies: 0 one physical column, 1 one physical row, 2 unlocated; and the column (65 × group +
column) or row. -/
def locate (errs : List (Nat × Nat)) : Nat × Nat :=
  match errs with
  | [] => (2, 0)
  | (r, c) :: t =>
    if t.all (fun e => e.2 == c) then (0, c) else if t.all (fun e => e.1 == r) then (1, r) else (2, 0)

/-- The physical group that the g-th active group is (R102). -/
def physGroup (s : State) (g : Nat) : Nat :=
  ((List.range 64).filter (fun k => !(Tab.get 0 s.fuse.colRepair k).getLsbD 15)).getD g 0

/-- The physical column of a group that serves its logical column c (R97): past the failed one the next. -/
def physColumn (s : State) (group c : Nat) : Nat :=
  let w := Tab.get 0 s.fuse.colRepair group
  if w.getLsbD 12 ∧ bits w 5 0 ≤ c then c + 1 else c

/-- Used ROWREPAIR entries, ascending. -/
def usedRows (s : State) : List (BitVec 16) :=
  ((List.range 8).map (fun k => Tab.get 0 s.fuse.rowRepair k)).filter (fun w => w.getLsbD 15)

/-- The physical row that serves logical row i (R97): the one that remains after every failed row up to it is skipped. -/
def physRow (s : State) (i : Nat) : Nat := (usedRows s).foldl (fun r w => if bits w 8 0 ≤ r then r + 1 else r) i

/-- The cell of a diagonal that a physical cell serves: its row, active group and column (R97, R102). -/
def servedCell (s : State) (r : PassRun) (d : Nat) (e : Nat × Nat) : Option (Nat × Nat × Nat) :=
  (diagonal r.groups d).findSome? (fun ig =>
    if physRow s ig.1 = e.1 ∧ physGroup s ig.2 = e.2 / 65 then
      ((List.range 64).find? (fun jj => physColumn s (e.2 / 65) jj == e.2 % 65)).map (fun jj => (ig.1, ig.2, jj))
    else none)

/-- The blocks that a cell receives in an interval: those of its tile, or padding where it has none. -/
def receivedBlocks (r : PassRun) (p : PassPart) (it sweep : Nat) (c : Captured) (cell : Nat × Nat × Nat) : Block × Block :=
  let j := 64 * (sweep * r.groups + cell.2.1) + cell.2.2
  let q := (j / (4096 / p.fc)) * p.fr + cell.1 / (256 / p.fr)
  let pad : Block := { elems := List.replicate p.p {} }
  if 4096 ≤ j ∨ p.rows ≤ cell.1 % (256 / p.fr) ∨ p.cols ≤ j % (4096 / p.fc) ∨ (bandBlock p it q).isNone then (pad, pad)
  else cellBlocks p c q (cell.1 % (256 / p.fr)) (j % (4096 / p.fc))

/-- The physical cells of a diagonal whose error bits stand in an interval (R100), of those that a single fault has struck: the
cell serves a cell of the diagonal, and its check has failed. The model lets the fault strike the first element pair of the interval,
where no rule depends on which (DESIGN CHOICE, log entry 71). -/
def errorCells (s : State) (r : PassRun) (d t : Nat) (struck : List (Nat × Nat)) : List (Nat × Nat) :=
  let n := max 1 (runN r)
  let pt := runSched r (t % n)
  struck.filter (fun e => match servedCell s r d e, r.parts[pt.1]? with
    | some cell, some p =>
      let b := receivedBlocks r p pt.2 (t / n) (Tab.get {} r.blocks (t % n)) cell
      errorBit (some ⟨0, 0⟩) b.1 b.2
    | _, _ => false)

/-- The cells that have set error bits in a failing interval (R101): those of the diagonal that ends it, and those of the diagonals behind
it that have taken periods of it. -/
def failedCells (s : State) (r : PassRun) (d t : Nat) (struck : List (Nat × Nat)) : List (Nat × Nat) :=
  errorCells s r d t struck ++ ((List.range 319).map (fun e =>
    if d < e ∧ r.counts.getD e 0 = t ∧ 0 < takenPeriods r e t then errorCells s r e t struck else [])).flatten

/-- Repair a physical column: the group's spare, or the group out of use (R101). -/
def repairColumn (s : State) (c : Nat) : State :=
  let g := c / 65
  let w := Tab.get 0 s.fuse.colRepair g
  let s := event s 0x031 1 srcNone
  if ¬ w.getLsbD 12 ∧ ¬ w.getLsbD 14 ∧ c % 65 < 64 then
    let w := (w &&& 0xFFC0) ||| 0x3000 ||| BitVec.ofNat 16 (c % 65)
    engineReport { s with fuse := { s.fuse with colRepair := Tab.set 0 s.fuse.colRepair g w } } 0x12
      (BitVec.ofNat 64 (c % 65)) (BitVec.ofNat 64 g)
  else
    let n := s.fuse.activeGroups - 1
    let s := { s with fuse := { s.fuse with colRepair := Tab.set 0 s.fuse.colRepair g (w ||| 0x8000), activeGroups := n } }
    let s := engineReport s 0x13 (BitVec.ofNat 64 g) (BitVec.ofNat 64 n)
    if n = 0 then startStopOpen s 5 else s

/-- Put used row entries back in ascending FAILED_ROW order (R99). -/
def putRows (s : State) (ws : List (BitVec 16)) : State :=
  let key := fun (w : BitVec 16) => bits w 8 0
  let ins := ws.foldl (fun (acc : List (BitVec 16)) w =>
    acc.filter (fun x => decide (key x ≤ key w)) ++ [w] ++ acc.filter (fun x => decide (key w < key x))) []
  let tab := (List.range 8).foldl (fun t k => Tab.set 0 t k (ins.getD k 0)) s.fuse.rowRepair
  { s with fuse := { s.fuse with rowRepair := tab } }

/-- Repair a physical row, or stop with the array exhausted (R101). -/
def repairRow (s : State) (row group : Nat) : State :=
  let used := usedRows s
  if used.length < 8 then
    let s := event (putRows s (used ++ [0xC000 ||| BitVec.ofNat 16 row])) 0x031 1 srcNone
    engineReport s 0x12 (BitVec.ofNat 64 (row + 65536)) (BitVec.ofNat 64 group)
  else startStopOpen (engineReport s 0x61 (BitVec.ofNat 64 row) 0) 5

/-- A detection (R101): the first at a place replays, a second within 2^20 cycles repairs or stops. RESIDUE_TRANSIENT counts the first
detection that is unlocated too, of which the rule says only that the interval replays (DESIGN CHOICE, log entry 90). -/
def residue (s : State) (r : PassRun) (errs : List (Nat × Nat)) : State :=
  let loc := locate errs
  let group := ((errs.head?).map (·.2 / 65)).getD 0
  let again := s.arr.detect.any (fun e => e.1 == loc.1 && e.2.1 == loc.2 && decide (s.now ≤ e.2.2 + 2 ^ 20))
  let s := faultStop s
  if ¬ again then
    event { s with arr := { s.arr with detect := s.arr.detect ++ [(loc.1, loc.2, s.now)] } } 0x030 1 (srcRun s r)
  else match loc.1 with
    | 0 => repairColumn s loc.2
    | 1 => repairRow s loc.2 group
    | _ => startStopOpen (engineReport s 0x14 (BitVec.ofNat 64 group) 0) 5

/-- Whether a diagonal may end its next interval: its periods are sent, the diagonals before it are ahead or stopped, the last is at most
five intervals behind, as the skew makes it (R93), and a stop lets it. -/
def mayEnd (r : PassRun) (d : Nat) : Bool :=
  let t := r.counts.getD d 0
  let prev := r.counts.getD (d - 1) 0
  decide (t < r.t ∧ t < r.counts.getD 318 0 + 5) && (d == 0 || decide (t < prev) || (r.stop == some .preempt && decide (r.limit.getD (d - 1) 0 ≤ prev))) &&
    (match r.stop with
      | none => true
      | some .preempt => decide (t < r.limit.getD d 0)
      | _ => false)

/-- Whether a cluster of a diagonal promotes into a bank whose spare is being filled: it stalls (R408). -/
def diagonalStall (s : State) (r : PassRun) (d : Nat) : Bool :=
  bankStall s r && s.gir.bankBusy.any (fun b => (diagonal r.groups d).any (fun ig => ig.1 == b))

/-- INTERVAL_END (R67): every cell of a diagonal ends its interval and hands its record over; clusters promote. With the error
bit of a cell set, nothing of the interval is written and the pass stops (R95, R100). `errs` are the physical cells that a fault has
struck in the interval. -/
def execIntervalEnd (d : Fin 319) (errs : List (Nat × Nat)) (s : State) : Result :=
  .next (match s.arr.run with
    | none => s
    | some r =>
      if ¬ mayEnd r d.val ∨ diagonalStall s r d.val then s
      else if errorCells s r d.val (r.counts.getD d.val 0) errs ≠ [] then
        residue s r (failedCells s r d.val (r.counts.getD d.val 0) errs)
      else
        let t := r.counts.getD d.val 0
        let s := commitDiagonal s r d.val t
        let last := d.val = 318 ∧ runTotal r < t + 1 + runN r
        let q := { r with counts := r.counts.set d.val (t + 1)
                          times := if d.val = 318 then Tab.drop r.times t else r.times
                          blocks := if last then Tab.drop r.blocks (t % max 1 (runN r)) else r.blocks }
        let s := advanceRun s r q
        if d.val = 318 then reclaim s r.lease else s)

/-! ## Stops and resumes (R92 to R94, R168) -/

/-- The layers of committed counts of a run: what each number of active groups has committed, the present one first (R94). -/
def layers (r : PassRun) : List (Nat × List Nat) :=
  match r.supp with
  | (g, c) :: t =>
    if g = r.groups then (g, (List.range 319).map (fun d => max (c.getD d 0) (r.counts.getD d 0))) :: t
    else (r.groups, r.counts) :: r.supp
  | [] => [(r.groups, r.counts)]

/-- The intervals every diagonal has committed, in the numbering of the present active groups: a restart with other groups begins at the
first interval that not every cluster had committed, so that its counts include the earlier ones. -/
def committed (r : PassRun) : List Nat := ((layers r).head?.map (·.2)).getD []

/-- The ARRAY_POS record of a list of counts (R93). -/
def posWords (c : List Nat) : Word × Word :=
  let base := c.getD 318 0
  let brk := fun n => (c.filter (fun k => decide (base + n ≤ k))).length
  (BitVec.ofNat 64 (base * 2 ^ 32),
   BitVec.ofNat 64 (brk 1 * 2 ^ 36 + brk 2 * 2 ^ 27 + brk 3 * 2 ^ 18 + brk 4 * 2 ^ 9 + brk 5))

/-- ARRAY_POS of a run (R93). -/
def arrayPos (r : PassRun) : Word × Word := posWords (committed r)

/-- The counts that an ARRAY_POS record stands for (R93). -/
def posCounts (w0 w1 : Word) : List Nat :=
  let base := bits w0 63 32
  (List.range 319).map (fun d => base + (if d < bits w1 44 36 then 1 else 0) + (if d < bits w1 35 27 then 1 else 0) +
    (if d < bits w1 26 18 then 1 else 0) + (if d < bits w1 17 9 then 1 else 0) + (if d < bits w1 8 0 then 1 else 0))

/-- The intervals that a diagonal's cells have begun: those that they have ended, and any further one whose first period has reached them. -/
def begunIntervals (r : PassRun) (d : Nat) : Nat :=
  (r.times.filter (fun ts => decide (4 + d + ts.2.headD 0 < r.sent))).foldl (fun n ts => max n (ts.1 + 1)) (max r.first (r.counts.getD d 0))

/-- Whether the cells that a diagonal uses had all committed an interval before the last restart (R94). -/
def allSuppressed (r : PassRun) (d t : Nat) : Bool :=
  let n := max 1 (runN r)
  let used := (diagonal r.groups d).filter (fun ig => decide (t / n * r.groups + ig.2 < runGroups r))
  used != [] && used.all (fun ig => suppressed r (t / n * r.groups + ig.2) ig.1 (t % n))

/-- Whether a diagonal's cells stop at once on a pre-emption stop: their current interval is a suppressed one (R92). -/
def stopsAtOnce (r : PassRun) (d : Nat) : Bool :=
  decide (r.counts.getD d 0 < begunIntervals r d) && allSuppressed r d (begunIntervals r d - 1)

/-- The intervals that a diagonal has committed once a pre-emption stop is over (R92): those its cells had begun. Of these, a suppressed
one had been committed before. -/
def preemptLimit (r : PassRun) (d : Nat) : Nat := max (r.counts.getD d 0) (begunIntervals r d)

/-- A run as a pre-emption stop leaves it: cells in a suppressed interval are done at once. -/
def preempted (r : PassRun) : PassRun :=
  { r with stop := some .preempt, limit := (List.range 319).map (preemptLimit r)
           counts := (List.range 319).map (fun d => if stopsAtOnce r d then preemptLimit r d else r.counts.getD d 0) }

/-- A pre-emption stop (R92). -/
def preemptRun (s : State) : State :=
  match s.arr.run with
  | some r =>
    if r.stop.isSome then s
    else setRun (settleWasted (event s 0x018 1 (srcRun s r)) r (preempted r)) (preempted r)
  | none => s

/-- Whether the stopped cells have completed what the stop lets them. -/
def runStopped (r : PassRun) : Bool :=
  r.stop.isSome && (List.range 319).all (fun d => decide (r.limit.getD d 0 ≤ r.counts.getD d 0))

/-- The intervals of a sweep that a cell had committed by some layers, each of which counts them with its own number of groups. -/
def cellDone (ls : List (Nat × List Nat)) (n lg i : Nat) : Nat :=
  maxL (ls.map (fun l => min n (l.2.getD (i + lg % max 1 l.1) 0 - lg / max 1 l.1 * n)))

/-- For each sweep with a number of groups, the least and the greatest number of its intervals that a cluster had committed. -/
def sweepDone (r : PassRun) (ls : List (Nat × List Nat)) (groups : Nat) : List (Nat × Nat) :=
  let n := runN r
  let a := max 1 groups
  (List.range (cdiv (runGroups r) a)).map (fun k =>
    let lgs := ((List.range a).map (fun g => k * a + g)).filter (fun lg => decide (lg < runGroups r))
    (lgs.foldl (fun m lg => min m (cellDone ls n lg 255)) n, maxL (lgs.map (fun lg => cellDone ls n lg 0))))

/-- RESUME_INTERVAL in the numbering of a changed number of groups: the first interval that not every cluster had committed (R93). -/
def resumeAt (r : PassRun) (ls : List (Nat × List Nat)) (groups : Nat) : Nat :=
  let done := (sweepDone r ls groups).map (·.1)
  let full := done.takeWhile (fun m => decide (runN r ≤ m))
  full.length * runN r + done.getD full.length 0

/-- The first interval in the numbering of a changed number of groups that no cluster had committed. -/
def freshAt (r : PassRun) (ls : List (Nat × List Nat)) (groups : Nat) : Nat :=
  let done := (sweepDone r ls groups).map (·.2)
  maxL ((List.range done.length).map (fun k => if done.getD k 0 = 0 then 0 else k * runN r + done.getD k 0))

/-- A stopped run as it restarts (R94): from RESUME_INTERVAL, which a change of the active groups counts anew. -/
def restarted (r : PassRun) (groups : Nat) : PassRun :=
  let ls := layers r
  let same := decide (r.groups = groups)
  let t0 := if same then (committed r).getD 318 0 else resumeAt r ls groups
  let sent := if same then max r.replayTo (r.t + 1) else freshAt r ls groups + 1
  { r with groups := groups, t := t0, q := 0, sent := 0, first := t0, fill := 0, times := [], counts := List.replicate 319 t0
           supp := ls, stop := none, limit := [], starved := 0
           replayTo := if r.stop = some .preempt then (if same then maxL (committed r) else sent - 1) else sent }

/-- PASS_RESUME (R94): a fault-stopped pass replays in the array; a pass held by its lease resumes once the array is free
and the lease stands next. A slot that was spilled meanwhile is filled first. -/
def execPassResume (l : Fin 16) (s : State) : Result :=
  .next (match s.arr.run with
    | some r =>
      if r.lease = l.val ∧ r.stop = some .fault ∧ takes s l.val ∧ s.store.badWest = [] ∧ s.store.badNorth = [] then
        enterArray s (restarted r s.fuse.activeGroups) else s
    | none =>
      match heldReady s l.val with
      | none => s
      | some r =>
        if standsNext s ≠ some l.val ∨ arrayOut s then s
        else
          let fills := (r.parts.filter (fun p => partWorks p && decide ((getSlot s p.slot).st = .spilled))).map (·.slot)
          if fills ≠ [] then
            let s := fills.foldl (askFill r.u) s
            { s with arr := { s.arr with hold := some l.val } }
          else
            let s := setRt s l.val { getRt s l.val with held := none }
            let s := activate s ((r.parts.filter partWorks).map (·.slot))
            enterArray (serve s 1 l.val) (restarted r s.fuse.activeGroups))

/-- PASS_ABANDON (R168): a pass starved for more than STALL_LIMIT complete beats gives the array up. -/
def execPassAbandon (s : State) : Result :=
  .next (match s.arr.run with
    | none => s
    | some r =>
      if r.stop.isNone ∧ stallLimit s r.lease + 3 ≤ r.starved then
        let s := event (discard s r) 0x01A 1 (srcRun s r)
        emptyArray (setRt s r.lease { getRt s r.lease with held := some { r with stop := some .abandon, limit := r.counts } }) r
      else s)

/-! ## Completion (R131, R220) -/

/-- PASS_COMPLETE (R220): the last promotion has ended; the status word, then the counters not yet signalled. A tile without intervals
waits for the earlier operations on its slot (R144). -/
def execPassComplete (s : State) : Result :=
  .next (match s.arr.run with
    | none => s
    | some r =>
      if ¬ r.counts.all (fun c => decide (runTotal r ≤ c)) ∨ ¬ takesMade r ∨ stopping s ∨
          r.parts.any (fun p => !p.signalled && partN p == 0) then s
      else
        let s := chargeFill s r
        let left := r.parts.filter (fun p => !p.signalled)
        let s := event s 0x017 left.length (srcRun s r)
        let st : Status := { sticky := stickyOf s (r.parts.map (·.slot)) }
        match getInstr s r.u with
        | none => leaveArray s r
        | some i => finish (leaveArray s r) i st (left.map (·.cnt)))

/-- The last interval of a pair's tile, numbered across the sweeps. -/
def lastOf (r : PassRun) (k : Nat) : Option Nat :=
  ((List.range (runN r)).reverse.find? (fun t => (runSched r t).1 == k)).map (fun t => (runSweeps r - 1) * runN r + t)

/-- PAIR_HALF_COMPLETE (R131): a pair's access to one tile's slot ends before the other's, and its counter is signalled. -/
def execPairHalfComplete (dw : Bool) (s : State) : Result :=
  .next (match s.arr.run with
    | none => s
    | some r =>
      let k := if dw then 1 else 0
      match r.parts[k]?, r.parts[1 - k]?, lastOf r k with
      | some p, some o, some t =>
        if p.signalled ∨ ¬ partWorks o ∨ ¬ r.counts.all (fun c => decide (t < c)) ∨ stopping s then s
        else
          let r := setPart r k { p with signalled := true }
          let s := event (setRun s r) 0x017 1 (srcRun s r)
          unitSignal (settle s [p.slot]) p.cnt 1
      | _, _, _ => s)

/-! ## A cycle of the array (R82, R390) -/

/-- The array unit's choice with the array free (R359, R390): the first lease whose pass could start or waits for its descriptor or for
a fill; its pass holds the array. -/
def chooseHold (s : State) : Option Nat :=
  match arrayHeld s with
  | some l => some l
  | none => (leaseOrder s 1).find? (fun l => decide (waitClass s l ≠ 0) || (couldStart s l && !arrayOut s))

/-- The class of a cycle in which a lease's pass holds the array before its busy time (R390): that of what it waits for; Wasted, as its
fill, where nothing keeps it from starting (DESIGN CHOICE, log entry 98); 0, Idle, where it does not hold the array after all. -/
def holdClass (s : State) (l : Nat) : Nat :=
  if waitClass s l ≠ 0 then waitClass s l else if couldStart s l then 0x011 else 0

/-- A cycle of the array: with a pass in it that a stop has halted, Wasted; with one whose edges have finished, Wasted, and its elements
go on through the cells; with the array free, Idle, or the class of what the pass that holds it waits for. The cycles in which the edges
send are charged with what they send. -/
def arrayCycle (s : State) : State :=
  let s := signalIdle s
  match s.arr.run with
  | some r =>
    if r.stop = some .fault then charge s r 1 0x011
    else if edgeGoal r ≤ r.t then
      let q := takeOwed s r
      advanceRun (charge q.2 r 1 0x011) r { q.1 with sent := q.1.sent + 1, fill := q.1.fill + 1 }
    else s
  | none =>
    let h := chooseHold s
    let cls := (h.map (holdClass s)).getD 0
    let l := h.getD 0
    let s := { s with arr := { s.arr with idle := s.arr.idle + 1, hold := h } }
    let units := s.fuse.activeGroups * 16384
    if cls = 0 then event s 0x014 units srcNone
    else
      let src := match (getRt s l).held with
        | some r => srcRun s r
        | none => ((nextPass s l).map srcOf).getD (srcLease l)
      addMeters (event s cls units src) l s.fuse.activeGroups 0 0

/-- ARRAY_RAMP_DOWN (R82): at the 65th idle cycle the column groups switch off. -/
def execArrayRampDown (s : State) : Result :=
  .next (if s.arr.run.isNone ∧ 65 ≤ s.arr.idle then { s with arr := { s.arr with warm := false } } else s)

end Sys2Proof.Machine
end

