-- ==== Sys2Proof/Machine/Streams.lean ====
section
/-! DEFINITION. The Trestle streamers (R20, R148 to R173, R233, R413, R464): a stream's tiles and bursts, arming and rearming,
the issue and completion of bursts, signals in transfer order, and the states of a context. -/

namespace Sys2Proof.Machine

/-! ## The descriptor and the tensor (R149, R151, R152) -/

def stElem (x : Stream) : Nat := (x.desc.getD 0 0).toNat
def stScale (x : Stream) : Nat := (x.desc.getD 1 0).toNat
def stExtBase (x : Stream) : Nat := (x.desc.getD 2 0).toNat
def stExtLimit (x : Stream) : Nat := (x.desc.getD 3 0).toNat
def stRows (x : Stream) : Nat := bits (x.desc.getD 4 0) 31 0
def stScalePitch (x : Stream) : Nat := bits (x.desc.getD 5 0) 63 32
def stRowPitch (x : Stream) : Nat := bits (x.desc.getD 5 0) 31 0
def stZpEn (x : Stream) : Bool := (x.desc.getD 7 0).getLsbD 40
def stZp (x : Stream) : Byte := fld (x.desc.getD 7 0) 32 8
def stPcode (x : Stream) : Nat := bits (x.desc.getD 7 0) 17 16
def stScaled (x : Stream) : Bool := fmtScaled (stFmt x)
def stIsRing (x : Stream) : Bool := decide (stKind x < 2)

/-- Rows of the scale array and bytes of one (R151). -/
def scaleRows (x : Stream) : Nat := if ¬ stScaled x then 0 else if stAxis x then cdiv x.rows (stP x) else x.rows
def scaleRowBytes (x : Stream) : Nat := if stAxis x then stCols x else cdiv (stCols x) (stP x)

/-- Tiles down and across, and the transfers of the tensor (R152). -/
def tilesDown (x : Stream) : Nat := cdiv x.rows (stTileRows x)
def tilesAcross (x : Stream) : Nat := cdiv (stCols x) (stTileCols x)
def transfers (x : Stream) : Nat := max 1 (tilesDown x * tilesAcross x)

/-- First row, first column, rows and columns of a transfer's tile. -/
def tileAt (x : Stream) (k : Nat) : Nat × Nat × Nat × Nat :=
  if x.rows = 0 ∨ stCols x = 0 then (0, 0, 0, 0)
  else
    let tr := if stOrder x then k % tilesDown x else k / tilesAcross x
    let tc := if stOrder x then k / tilesDown x else k % tilesAcross x
    let r0 := tr * stTileRows x
    let c0 := tc * stTileCols x
    (r0, c0, min (stTileRows x) (x.rows - r0), min (stTileCols x) (stCols x - c0))

/-- The byte ranges of a transfer: virtual address, length, and offset in a ring slot; the element row segments first, then
the scale row segments (R154, R159). -/
def tileSegs (x : Stream) (k : Nat) : List (Nat × Nat × Nat) :=
  let (r0, c0, rs, cs) := tileAt x k
  let f := stFmt x
  let w := fmtWidth f
  let plane := stTileRows x * slotRow f (stTileCols x)
  let elems := (List.range rs).map (fun i =>
    (stElem x + (r0 + i) * stRowPitch x + c0 * w / 8, rowBytes f cs, i * slotRow f (stTileCols x)))
  let scales :=
    if ¬ stScaled x ∨ cs = 0 then []
    else if stAxis x then
      (List.range (cdiv rs (stP x))).map (fun b =>
        (stScale x + (r0 / stP x + b) * stScalePitch x + c0, cs, plane + b * stTileCols x))
    else
      (List.range rs).map (fun i =>
        (stScale x + (r0 + i) * stScalePitch x + c0 / stP x, cdiv cs (stP x),
          plane + i * cdiv (stTileCols x) (stP x)))
  (elems ++ scales).filter (fun g => g.2.1 ≠ 0)

/-- Ranges contiguous in memory are merged (R159): address, length, and the slot places in address order. -/
def mergeSegs : List (Nat × Nat × Nat) → List (Nat × Nat × List (Nat × Nat))
  | [] => []
  | (a, n, o) :: t => match mergeSegs t with
    | (b, m, ps) :: rest => if a + n = b then (a, n + m, (o, n) :: ps) :: rest else (a, n, [(o, n)]) :: (b, m, ps) :: rest
    | [] => [(a, n, [(o, n)])]

/-- The first n bytes of slot places, and the rest. -/
def cutParts : Nat → List (Nat × Nat) → List (Nat × Nat) × List (Nat × Nat)
  | _, [] => ([], [])
  | n, (o, m) :: t =>
    if n = 0 then ([], (o, m) :: t)
    else if n < m then ([(o, n)], (o + n, m - n) :: t)
    else let r := cutParts (n - m) t; ((o, m) :: r.1, r.2)

/-- Cut a range at every 512-byte-aligned address; each piece is one burst (R159). -/
def cutBursts : Nat → Nat → Nat → List (Nat × Nat) → List Burst
  | 0, _, _, _ => []
  | fuel + 1, a, n, ps =>
    if n = 0 then []
    else
      let m := min n (512 - a % 512)
      let r := cutParts m ps
      { addr := a, len := m, parts := r.1 } :: cutBursts fuel (a + m) (n - m) r.2

/-- The bursts of a transfer's tile. -/
def tileBursts (x : Stream) (k : Nat) : List Burst :=
  ((mergeSegs (tileSegs x k)).map (fun g => cutBursts (g.2.1 / 512 + 2) g.1 g.2.1 g.2.2)).flatten

/-- A stream as it stood in the extent that holds a transfer (R172). -/
def extentOf (x : Stream) (n : Nat) : Stream :=
  if x.base ≤ n then x
  else match x.old.find? (fun e => decide (e.base ≤ n)) with
    | some e => { x with desc := e.desc, disp := e.disp, rows := e.rows, gen := e.gen, base := e.base }
    | none => x

/-- The first transfer whose extent a stream still knows. -/
def firstHeld (x : Stream) : Nat := ((x.old.getLast?).map (·.base)).getD x.base

/-- The bursts of a transfer of a stream, and the valid rows and columns of its tile. -/
def burstsOf (x : Stream) (n : Nat) : List Burst := let e := extentOf x n; tileBursts e (n - e.base)
def validOf (x : Stream) (n : Nat) : Nat × Nat := let e := extentOf x n; (tileAt e (n - e.base)).2.2

/-- Give the bursts of a write their bytes, in the order of the tile's ranges. -/
def feedBursts : List Byte → List Burst → List Burst
  | _, [] => []
  | bs, b :: t => { b with data := bs.take b.len } :: feedBursts (bs.drop b.len) t

/-! ## Checks (R155, R164, R172) -/

/-- Whether the element or scale array leaves the declared extent. -/
def extentBad (x : Stream) : Bool :=
  let out := fun (base rows pitch row : Nat) =>
    decide (rows ≠ 0 ∧ row ≠ 0 ∧ (base < stExtBase x ∨ stExtLimit x < base + (rows - 1) * pitch + row))
  decide (stExtLimit x < stExtBase x) ||
    out (stElem x) x.rows (stRowPitch x) (rowBytes (stFmt x) (stCols x)) ||
    (stScaled x && x.rows ≠ 0 && out (stScale x) (scaleRows x) (stScalePitch x) (scaleRowBytes x))

/-- The checks of a descriptor at arm, in ascending order (R155, R216). -/
def armChecks (s : State) (l : Nat) (x : Stream) (st : SState) (noSet skew bad30 : Bool) : List (Nat × Bool) :=
  let d := x.desc
  let f := stFmt x
  let ring := stIsRing x
  let cap := (getCnt s (stData x)).cap.toNat
  [(1, decide (bits (d.getD 6 0) 63 62 ≠ 0 ∨ bits (d.getD 6 0) 47 46 ≠ 0 ∨ bits (d.getD 7 0) 31 24 ≠ 0 ∨
      bits (d.getD 7 0) 15 9 ≠ 0)),
   (2, decide (2 < stKind x ∨ f = 0 ∨ 9 < f ∨ stPcode x = 3)),
   (3, decide (stElem x % 64 ≠ 0 ∨ stRowPitch x % 64 ≠ 0) || skew ||
      (stScaled x && decide (stScale x % 64 ≠ 0 ∨ stScalePitch x % 64 ≠ 0))),
   (4, decide (1 < x.rows ∧ stRowPitch x < rowBytes f (stCols x)) ||
      decide (1 < scaleRows x ∧ stScalePitch x < scaleRowBytes x)),
   (5, extentBad x),
   (6, decide (stTileRows x = 0 ∨ stTileCols x = 0) ||
      (stScaled x && decide ((if stAxis x then stTileRows x else stTileCols x) % stP x ≠ 0)) ||
      decide (f = 3 ∧ stTileCols x % 2 ≠ 0) || decide ((f = 4 ∨ f = 5) ∧ stTileCols x % 4 ≠ 0)),
   (7, ring && (decide (stRing x = 0) ||
      decide (4096 * stPages x < slotBytes f (stP x) (stTileRows x) (stTileCols x) (stAxis x)) ||
      decide ((if stKind x = 1 then northPages s l else westPages s l) < stBase x + stRing x * stPages x))),
   (8, decide (cap < (if ring then stRing x else 1))),
   (9, stZpEn x && (decide (f ≠ 6 ∧ f ≠ 7) || decide (f = 6 ∧ stZp x = 0x80))),
   (10, noSet), (29, decide (st = .running ∨ st = .halted)), (30, bad30)]

/-! ## Tags (R154) -/

/-- The tag that a stream writes on a slot, keeping what the last landed transfer recorded. -/
def ringTag (x : Stream) (old : PageTag) : PageTag :=
  { old with valid := true, fmt := BitVec.ofNat 8 (stFmt x), axis := stScaled x && stAxis x
             p := if stScaled x then stP x else 0, zpEn := stZpEn x, zp := stZp x, rows := stTileRows x
             cols := stTileCols x, rowset := stRowset x }

/-- Tag every slot of a ring: afresh at arm, keeping generation and counts at a rearm. -/
def tagRing (s : State) (l c : Nat) (fresh : Bool) : State :=
  let x := getStr s c
  if ¬ stIsRing x then s
  else
    (List.range (stRing x)).foldl (fun s k =>
      match ringPage s l c k with
      | none => s
      | some pg =>
        let old := if fresh then {} else getTag s (stKind x = 1) pg
        setTags s (stKind x = 1) pg (max 1 (stPages x)) (ringTag x old)) s

/-! ## Arm and rearm -/

/-- The effective ROWS of a stream and the generation it records (R152, R153). -/
def withRows (s : State) (l : Nat) (x : Stream) : Stream :=
  if stRowset x then { x with rows := ((getRt s l).rowSet.map (fun es => sumL (es.map (·.len)))).getD 0
                              gen := some (getRt s l).rsGen }
  else { x with rows := stRows x, gen := none }

/-- Whether a row-set stream finds no committed row set. -/
def noRowSet (s : State) (l : Nat) (x : Stream) : Bool := stRowset x && (getRt s l).rowSet.isNone

/-- Bind a context to a descriptor: RUNNING, numbered from P of DATA_CNT (R156). A rearm that a QUIESCED context still held is
discarded with its old position (R171; log entry 14). -/
def bindStream (s : State) (i : SpanI) (c : Nat) (d : List Word) : State :=
  let s := match (getStr s c).rearm with | some r => dropInstr s r.u | none => s
  let x := withRows s i.lease { desc := d, notHalted := (getStr s c).notHalted, src := some (srcOf i) }
  let p := (getCnt s (stData x)).p.toNat
  tagRing (setStr s c { x with st := .running, descAddr := i.a, base := p, start := p, next := p }) i.lease c true

/-- The extents, newest first, that hold transfers from a number on. -/
def keepExtents (lo : Nat) : List Extent → List Extent
  | [] => []
  | e :: t => if e.base ≤ lo then [e] else e :: keepExtents lo t

/-- A stream with a rearm applied (R172): the extent it leaves is kept while its ring may hold it, the displacement on four bases, a new ROWS, and the numbering going on. -/
def rearmed (s : State) (l : Nat) (x : Stream) (r : Rearm) : Stream :=
  let move := fun (k : Nat) => x.desc.getD k 0 + r.disp
  let w4 : Word := match r.rows with | some n => setFld (x.desc.getD 4 0) 0 n | none => x.desc.getD 4 0
  let quiet := decide (x.st = .quiesced)
  let b := if quiet then x.next else x.start
  let left : Extent := ⟨x.base, x.desc, x.disp, x.rows, x.gen⟩
  withRows s l { x with desc := [move 0, move 1, move 2, move 3, w4] ++ x.desc.drop 5, disp := x.disp + r.disp
                        st := .running, base := b, start := b, xfers := if quiet then [] else x.xfers
                        old := keepExtents (b - max 128 (stRing x)) (left :: x.old), rearm := none }

/-- Whether a displacement overflows one of the four sums. -/
def rearmOver (x : Stream) (d : Word) : Bool :=
  (List.range 4).any (fun k => decide (2 ^ 64 ≤ (x.desc.getD k 0).toNat + d.toNat))

/-- The checks of a rearm. -/
def rearmVerdict (s : State) (i : SpanI) (x : Stream) (r : Rearm) (bad30 : Bool) : Verdict :=
  firstCheck 0
    [(1, decide (i.op = .streamRearmRows ∧ bits i.b 63 32 ≠ 0)), (3, statusSkew i),
     (5, x.st ≠ .unarmed && !rearmOver x r.disp && extentBad (rearmed s i.lease x r)),
     (10, x.st ≠ .unarmed && noRowSet s i.lease x),
     (29, decide (x.st = .unarmed) || rearmOver x r.disp), (30, bad30)]

/-- Take a rearm on its context, and complete its instruction. -/
def takeRearm (s : State) (c : Nat) (i : SpanI) (r : Rearm) : State :=
  let s := setStr s c { rearmed s i.lease (getStr s c) r with src := some (srcOf i) }
  finish (tagRing s i.lease c false) i {} []

/-! ## Transfers and bursts (R156 to R166) -/

/-- Whether a transfer is the next that the consumer reads; DRAIN_OUT bursts are always demand (R165). -/
def isDemand (s : State) (x : Stream) (n : Nat) : Bool :=
  !stIsRing x || decide (n = (getCnt s (stData x)).c.toNat)

/-- Whether a context may start its next transfer, its gate apart (R156, R171). -/
def mayStart (s : State) (x : Stream) : Bool :=
  decide (x.st = .running ∧ x.start < x.base + transfers x) && !x.stopped &&
    (!stIsRing x || decide (x.start - (getCnt s (stData x)).c.toNat < stRing x))

/-- Whether its gate is open or taken (R158). -/
def gateOpen (x : Stream) : Bool := (stGate x).isNone || x.gated

/-- Start the next transfer with its bursts. -/
def startXfer (s : State) (c : Nat) (bs : List Burst) (u : Nat) : State :=
  let x := getStr s c
  let e := extentOf x x.start
  let v := validOf x x.start
  setStr s c { x with xfers := x.xfers ++ [{ n := x.start, tile := x.start - e.base, bursts := bs, gen := e.gen, u := u
                                             vr := v.1, vc := v.2 }]
                      start := x.start + 1, gated := false }

/-- Whether a burst is out and not yet complete. -/
def inFlight (b : Burst) : Bool := b.issued && !b.done

/-- Credits that a lease holds (R160). -/
def creditsHeld (s : State) (l : Nat) : Nat :=
  sumL ((List.range 32).map (fun c => if ctxOwner s c = some l then
    sumL ((getStr s c).xfers.map (fun t => (t.bursts.filter inFlight).length)) else 0))

/-- A transfer to be fetched again in full. -/
def refetch (t : Xfer) : Xfer := { t with bursts := t.bursts.map (fun b => { b with issued := false, done := false, bad := false }) }

/-- Whether every burst of a transfer has issued. -/
def whollyIssued (t : Xfer) : Bool := t.bursts.all (·.issued)

/-- The oldest transfer of a context whose signal has not been given. -/
def freshNext (x : Stream) : Nat := ((x.xfers.find? (fun t => !t.again)).map (·.n)).getD x.start

/-- A QUIESCING context with no started transfer unsignalled is QUIESCED (R171). -/
def quiesceCheck (x : Stream) : Stream := if x.st = .quiescing ∧ x.xfers = [] then { x with st := .quiesced } else x

/-- A RUNNING context with its last transfer signalled and no rearm pending is DRAINED (R171). -/
def drainedCheck (x : Stream) : Stream :=
  if x.st = .running ∧ x.rearm.isNone ∧ x.xfers = [] ∧ x.start = x.base + transfers x then { x with st := .drained } else x

/-- A stopped ring context takes up its position again once every burst from before has landed: its oldest transfer not wholly issued,
and all after it, are fetched again (R173). A QUIESCING context finishes those that it had started (R171). -/
def wake (x : Stream) : Stream :=
  if ¬ x.stopped then x
  else if ¬ stIsRing x then { x with stopped := false }
  else if x.xfers.any (fun t => t.bursts.any inFlight) then x
  else
    let old := (x.xfers.filter (·.again)).map (fun t => if whollyIssued t then t else refetch t)
    let new := x.xfers.filter (fun t => !t.again)
    let keep := new.takeWhile whollyIssued
    match new.drop keep.length with
    | [] => quiesceCheck { x with stopped := false, xfers := old ++ keep }
    | t :: rest =>
      if x.st = .quiescing then { x with stopped := false, xfers := old ++ keep ++ (t :: rest).map refetch }
      else { x with stopped := false, xfers := old ++ keep, start := t.n, gated := (stGate x).isSome }

/-- The burst that a context would issue next: transfer and burst index. A dropped or poisoned run-ahead burst waits until
its transfer is demand (R165, R415). -/
def nextBurst (s : State) (x : Stream) : Option (Nat × Nat) :=
  x.xfers.findSome? (fun t =>
    (t.bursts.findIdx? (fun b => !b.issued && (!b.dropped || isDemand s x t.n))).map (fun k => (t.n, k)))

/-- Whether a lease's streams issue: a DRAIN_OUT context also while its DRAIN completes (R173) but not in a release (R377), none while a
loop-back holds the streamer (R419). -/
def streamRuns (s : State) (l : Nat) (x : Stream) : Bool :=
  !stopping s && !looping s .span 2 && (takes s l || (!stIsRing x && lstate s l != .releasing))

/-- Whether a context has a burst ready (R161). -/
def burstReady (s : State) (l : Nat) (x : Stream) : Bool :=
  streamRuns s l x && !x.stopped && decide (x.st = .running ∨ x.st = .quiescing) &&
    ((nextBurst s x).isSome || (stIsRing x && mayStart s x && gateOpen x && !(burstsOf x x.start).isEmpty))

/-- Replace a burst of a transfer. -/
def setBurst (x : Stream) (n k : Nat) (b : Burst) : Stream :=
  { x with xfers := x.xfers.map (fun t => if t.n = n then { t with bursts := t.bursts.set k b } else t) }

/-- A burst of a transfer. -/
def getBurst (x : Stream) (n k : Nat) : Option Burst := (x.xfers.find? (fun t => t.n == n)).bind (fun t => t.bursts[k]?)

/-- Halt a context at a burst and report it (R166). -/
def haltStream (s : State) (l c n : Nat) (addr : Nat) (cause : Byte) (d1 : Nat) : State :=
  let x := getStr s c
  leaseReport (setStr s c { x with st := .halted, faultAddr := BitVec.ofNat 64 addr, faultXfer := BitVec.ofNat 64 n })
    l cause none false false 0 0 (BitVec.ofNat 64 addr) (BitVec.ofNat 64 ((n % 2 ^ 32) * 2 ^ 32 + d1 + c))

/-- The occurrence that a context's work is (R392): the DRAIN whose transfer it is, else the instruction that gave it its extent. -/
def srcStream (s : State) (l : Nat) (x : Stream) (u : Nat) : SampleSrc :=
  match getInstr s u with
  | some i => if u = 0 then x.src.getD (srcLease l) else srcOf i
  | none => x.src.getD (srcLease l)

/-- The instruction number that a transfer of a context carries. -/
def xferOf (x : Stream) (n : Nat) : Nat := ((x.xfers.find? (fun t => t.n == n)).map (·.u)).getD 0

/-- 64-byte units that hold bytes of a burst. -/
def burstUnits (b : Burst) : Nat := (b.addr + b.len + 63) / 64 - b.addr / 64

/-- Issue a burst of a context: translated and sent, or dropped, or the stream halts (R159, R160, R165, R166); while a table entry of its
page is read it does not issue (R373). -/
def issueBurst (s : State) (l c n k : Nat) : State :=
  let x := getStr s c
  match getBurst x n k with
  | none => s
  | some b =>
    let r := if b.addr < 2 ^ 64 then xlate s (accOf s l) (BitVec.ofNat 64 b.addr) (if stIsRing x then .r else .w) else (.no, s)
    let s := r.2
    match (match r.1 with | .at pa => if inMap s pa b.len then r.1 else .no | a => a) with
    | .wait => s
    | .no =>
      if isDemand s x n then haltStream s l c n b.addr 0x10 0
      else event (setStr s c (setBurst x n k { b with dropped := true })) 0x052 1 (srcStream s l x (xferOf x n))
    | .at pa =>
      let src := srcStream s l x (xferOf x n)
      let s := setStr s c (setBurst x n k { b with issued := true, dropped := false, bad := false, pa := pa
                                                   data := if stIsRing x then [] else b.data })
      let s := addMeters (event (event s 0x050 1 src) 0x051 (burstUnits b) src) l 0 0 512
      sendMemory s pa b.len (accOf s l) (stRepeat x) (if stIsRing x then none else some b.data) (.burst c n k)

/-- Issue the next burst of a context, starting its next transfer where none is left. -/
def issueNext (s : State) (l c : Nat) : State :=
  match nextBurst s (getStr s c) with
  | some (n, k) => issueBurst s l c n k
  | none =>
    let x := getStr s c
    issueBurst (startXfer s c (burstsOf x x.start) 0) l c x.start 0

/-- The contexts of a class in the order of R161: ascending after the last granted. -/
def ctxOrder (s : State) (cls : Nat) : List Nat :=
  (List.range 32).map (fun d => (Tab.get 31 s.lastCtx cls + 1 + d) % 32)

/-- The context whose burst the datapath grants, with its lease (R160, R161). -/
def grant (s : State) : Option (Nat × Nat) :=
  (List.range 3).findSome? (fun cls => (ctxOrder s cls).findSome? (fun c =>
    match ctxOwner s c with
    | some l =>
      if leaseClass s l = cls ∧ burstReady s l (getStr s c) ∧ creditsHeld s l < creditShare s l then some (c, l) else none
    | none => none))

/-! ## The states of a context (R171) -/

/-- The first stream instruction that stands on a context in issue order; a pending rearm no longer stands, nor does a QUIESCE that the
unit has taken and that waits for QUIESCED. -/
def streamHead (s : State) (c : Nat) : Option SpanI :=
  s.instrs.find? (fun i => decide (queueOf i.op = 2 ∧ bits i.w0 4 0 = c ∧ i.stage ≠ .running) &&
    (i.op != .streamQuiesce || i.stage == .queued))

/-- The first QUIESCE that has been taken on a context. -/
def quiesceTaken (s : State) (c : Nat) : Option SpanI :=
  s.instrs.find? (fun i => decide (i.op = .streamQuiesce ∧ bits i.w0 4 0 = c ∧ i.stage = .taken))

/-- The verdict of an instruction whose context has left its lease. -/
def ctxVerdict (s : State) (i : SpanI) (c : Nat) : Verdict :=
  if (ctxMask s i.lease).getLsbD c then .ok else .priv c 2

/-- An instruction waits for a READ of its status address's translation: the state with the READ, where that is not out yet. -/
def readStatusPage (s : State) (i : SpanI) : Option State :=
  let t := (armStatus s i).2.2
  if t.net.out.length = s.net.out.length then none else some t

/-- The unit takes a `STREAM.REARM`: at once, pending, or it waits (R171, R172, R233). -/
def takeRearmInstr (s : State) (i : SpanI) (c : Nat) : Option State :=
  let x := getStr s c
  let r : Rearm := { disp := i.a, rows := if i.op = .streamRearmRows then some (i.b.setWidth 32) else none, u := i.u }
  let early := worst (ctxVerdict s i c) (firstCheck 0 [(1, decide (i.op = .streamRearmRows ∧ bits i.b 63 32 ≠ 0)), (3, statusSkew i)])
  if early ≠ .ok then some (faultInstr s i early)
  else if x.st = .quiescing ∨ x.rearm.isSome then none
  else if statusWaits s i then readStatusPage s i
  else
    let m := armStatus s i
    match worst (ctxVerdict s i c) (rearmVerdict m.2.2 i x r m.1) with
    | .ok =>
      if x.st = .drained ∨ x.st = .quiesced then some (takeRearm m.2.2 c m.2.1 r)
      else some (setStr (putInstr m.2.2 { m.2.1 with stage := .running }) c { x with rearm := some r })
    | bad => some (faultInstr m.2.2 i bad)

/-- A HALTED context as it is once it runs again: one that a suspension had stopped takes up its position (R173). -/
def unhalted (s : State) (l c : Nat) : Stream :=
  let x := { getStr s c with st := .running }
  if takes s l then wake x else x

/-- The page of the burst that a context retries waits for a READ of a table entry (R373). -/
def pageWaits (s : State) (l c : Nat) : Bool :=
  match (nextBurst s (getStr s c)).bind (fun b => getBurst (getStr s c) b.1 b.2) with
  | some b => !holds s.xlate l (BitVec.ofNat 64 b.addr) && (walkNeeds s (accOf s l) (BitVec.ofNat 64 b.addr)).isSome
  | none => false

/-- Whether a HALTED context can retry its burst now, or has none to retry: every burst from before a suspension has landed, a credit is
free, its streamer runs, and its page's table entries are there (R160, R167, R173). -/
def canRetry (s : State) (l c : Nat) : Bool :=
  let x := unhalted s l c
  let t := setStr s c x
  !x.stopped && ((nextBurst t x).isNone ||
    (streamRuns t l x && decide (creditsHeld t l < creditShare t l) && !pageWaits t l c))

/-- Return a context to RUNNING: a HALTED one retries its burst where it can, a QUIESCED one goes on from its position (R167, R171). -/
def resumeStream (s : State) (l c : Nat) : State :=
  let x := getStr s c
  if x.st = .halted then
    let t := setStr s c (unhalted s l c)
    if canRetry s l c ∧ (nextBurst t (getStr t c)).isSome then issueNext t l c else t
  else if x.st = .quiesced then setStr s c { x with st := .running }
  else s

/-- The unit takes a `STREAM.RESUME` (R171, R233): on a HALTED context it waits until the retry can be made, and completes at it. -/
def takeResumeInstr (s : State) (i : SpanI) (c : Nat) : Option State :=
  if statusWaits s i then readStatusPage s i
  else
    let m := armStatus s i
    match worst (ctxVerdict s i c) (firstCheck 0 [(3, statusSkew i), (30, m.1)]) with
    | .ok =>
      let st := (getStr s c).st
      if st = .halted ∧ ¬ canRetry s i.lease c then
        (if pageWaits (setStr s c (unhalted s i.lease c)) i.lease c then
          let t := issueNext (setStr s c (unhalted s i.lease c)) i.lease c
          let t := setStr t c (getStr s c)
          if t.net.out.length = s.net.out.length then none else some t
         else none)
      else some (finish (resumeStream m.2.2 i.lease c) m.2.1 { notHalted := decide (st ≠ .halted ∧ st ≠ .quiesced) } [])
    | bad => some (faultInstr s i bad)

/-- The unit takes a `STREAM.QUIESCE` (R171, R233): it completes, or waits for QUIESCED. -/
def takeQuiesceInstr (s : State) (i : SpanI) (c : Nat) : Option State :=
  if statusWaits s i then readStatusPage s i
  else
  let m := armStatus s i
  some <| match worst (ctxVerdict s i c) (firstCheck 0 [(3, statusSkew i), (30, m.1)]) with
  | .ok =>
    let s := m.2.2
    let y := if (getStr s c).st = .running then quiesceCheck { getStr s c with st := .quiescing } else getStr s c
    if y.st = .quiescing then putInstr (setStr s c y) { m.2.1 with stage := .taken } else finish (setStr s c y) m.2.1 {} []
  | bad => faultInstr s i bad

/-- One step of the streamers on a context: a QUIESCE that waits ends once the context is not QUIESCING any more, or the first
instruction is taken; none where all wait. -/
def streamStep (s : State) (c : Nat) : Option State :=
  match (quiesceTaken s c).filter (fun _ => decide ((getStr s c).st ≠ .quiescing)) with
  | some i => some (finish s i {} [])
  | none => match streamHead s c with
    | none => none
    | some i =>
      if i.stage = .queued ∧ ¬ takes s i.lease then none
      else match i.op with
        | .streamRearm | .streamRearmRows => takeRearmInstr s i c
        | .streamResume => takeResumeInstr s i c
        | .streamQuiesce => takeQuiesceInstr s i c
        | _ => none

/-- Run a context's instructions until one waits. -/
def streamCtx (c : Nat) : Nat → State → State
  | 0, s => s
  | n + 1, s => match streamStep s c with
    | some s' => streamCtx c n s'
    | none => s

/-- Let the streamers act on every context's instructions. -/
def streamPoll (s : State) : State :=
  (List.range 32).foldl (fun s c => streamCtx c (2 * s.instrs.length) s) s

/-! ## The commands -/

/-- The verdict of a `STREAM.ARM` whose descriptor has arrived. -/
def armVerdict (s : State) (i : SpanI) (c : Nat) (d : List Word) (bad30 : Bool) : Verdict :=
  let x := withRows s i.lease { desc := d }
  let cnts := worst (cntVerdict s i.lease (stData x))
    (match stGate x with | some g => cntVerdict s i.lease g | none => .ok)
  worst (worst (ctxVerdict s i c) cnts)
    (firstCheck i.a (armChecks s i.lease x (getStr s c).st (noRowSet s i.lease x) (statusSkew i) bad30))

/-- STREAM_DESC_ARRIVE (R149, R155, R171): the descriptor is read once and checked, and the context is armed. -/
def execStreamDescArrive (u : Nat) (s : State) : Result :=
  .next (match getInstr s u with
    | none => s
    | some i =>
      let c := bits i.w0 4 0
      if i.op ≠ .streamArm ∨ (streamHead s c).map (·.u) ≠ some u ∨ ¬ takes s i.lease ∨ (getStr s c).st = .quiescing then s
      else if i.a.toNat % 64 ≠ 0 then faultInstr s i (.config 3 i.a)
      else
        let r := readVirt s (accI i) i.a.toNat 64
        match r.1 with
        | .error e => faultRead s r.2 i e
        | .ok bs =>
          let m := armStatus r.2 i
          if statusWaits r.2 i then keepGot s m.2.2
          else match armVerdict m.2.2 i c (words64 bs) m.1 with
          | .ok => streamPoll (finish (bindStream m.2.2 i c (words64 bs)) m.2.1 {} [])
          | bad => streamPoll (faultInstr m.2.2 i bad))

/-- GATE_TAKE (R158): a gated context that may start its next transfer takes 1 from GATE_CNT. -/
def execGateTake (x : Fin 32) (s : State) : Result :=
  .next (match ctxOwner s x.val with
    | none => s
    | some l =>
      let v := if takes s l then wake (getStr s x.val) else getStr s x.val
      match stGate v with
      | none => s
      | some g =>
        if takes s l ∧ ¬ v.gated ∧ mayStart s v ∧ 0 < avail (getCnt s g) then
          setStr (unitTake s g 1) x.val { v with gated := true }
        else s)

/-- Contexts stopped by a suspension take up their positions. -/
def wakeAll (s : State) : State :=
  (List.range 32).foldl (fun s c => match ctxOwner s c with
    | some l => if takes s l then setStr s c (wake (getStr s c)) else s
    | none => s) s

/-- BURST_ISSUE (R159 to R161): the datapath grants one ready burst with a free credit. -/
def execBurstIssue (s : State) : Result :=
  let s := wakeAll s
  .next (match grant s with
    | none => streamPoll s
    | some (c, l) =>
      streamPoll (issueNext { s with lastCtx := Tab.set 31 s.lastCtx (leaseClass s l) c } l c))

/-- A landed transfer writes its generation and its valid counts into the tag of its slot (R153, R154). -/
def landTag (s : State) (l c n : Nat) : State :=
  let x := getStr s c
  match x.xfers.find? (fun t => t.n == n), ringPage s l c n with
  | some t, some pg =>
    if stIsRing x ∧ t.bursts.all (·.done) then
      let tag := { ringTag x (getTag s (stKind x = 1) pg) with gen := t.gen, validRows := t.vr, validCols := t.vc }
      setTags s (stKind x = 1) pg (max 1 (stPages x)) tag
    else s
  | _, _ => s

/-- The slot bytes of a burst's data. -/
def spread (base : Nat) : List (Nat × Nat) → List Byte → List (Nat × Byte)
  | [], _ => []
  | (o, n) :: t, bs => addrBytes (base + o) (bs.take n) ++ spread base t (bs.drop n)

/-- The first read burst of a lease that is out at a place and has no bytes yet: its context, transfer and number. -/
def burstAt (s : State) (l a n : Nat) : Option (Nat × Nat × Nat) :=
  let hit := fun (b : Burst) => inFlight b && !b.bad && decide (b.data = [] ∧ b.pa = a ∧ b.len = n)
  (List.range 32).findSome? (fun c =>
    if ctxOwner s c == some l && stIsRing (getStr s c) then
      (getStr s c).xfers.findSome? (fun t => (t.bursts.findIdx? hit).map (fun k => (c, t.n, k)))
    else none)

/-- The Pier has served a read burst of the span: its bytes, or poison, go with the first burst of that lease and place that has none
(R179, R415). -/
def burstServed (s : State) (l a n : Nat) (bs : List Byte) (bad : Bool) : State :=
  match burstAt s l a n with
  | none => s
  | some (c, m, k) => match getBurst (getStr s c) m k with
    | some b => setStr s c (setBurst (getStr s c) m k { b with data := bs, bad := bad })
    | none => s

/-- Complete a burst (R160, R162, R415): a read's bytes land in the ring slot, a write's in memory. A poisoned burst is fetched again,
a run-ahead one when its transfer is demand; a demand burst that is poisoned again halts the stream. -/
def completeBurst (s : State) (c n k : Nat) (bad : Bool) (data : Option (List Byte)) : State :=
  match ctxOwner s c, getBurst (getStr s c) n k with
  | some l, some b =>
    let x := getStr s c
    let s := { s with net := { s.net with out := s.net.out.filter (fun e => e.2 != .burst c n k) } }
    if ¬ inFlight b then s
    else if ¬ stIsRing x then
      setStr (memRun s b.pa b.data) c (setBurst x n k { b with done := true })
    else if bad ∨ b.bad ∨ (data.isNone ∧ b.data = [] ∧ poisoned s b.pa b.len) then
      let s := setStr s c (setBurst x n k { b with issued := false, dropped := true, poison := true })
      if isDemand s x n ∧ b.poison then haltStream s l c n b.addr 0x60 0x20 else s
    else
      let bs := data.getD (if b.data = [] then memBytes s b.pa b.len else b.data)
      let s := match ringPage s l c n with
        | some pg => storeWrite s (stKind x = 1) (spread (4096 * pg) b.parts bs)
        | none => s
      landTag (setStr s c (setBurst x n k { b with done := true, poison := false, data := [] })) l c n
  | _, _ => s

/-- BURST_COMPLETE. -/
def execBurstComplete (x : Fin 32) (n : Nat) (b : Nat) (s : State) : Result :=
  .next (if s.eng.mode = 3 then s else streamPoll (completeBurst s x.val n b false none))

/-- Signal the oldest transfer of a context once its writes and all earlier ones are acknowledged (R20, R152, R156). A
zero-length transfer of a ring starts here. -/
def signalXfer (s : State) (c : Nat) : State :=
  let x := getStr s c
  let x := if x.xfers = [] ∧ stIsRing x ∧ mayStart s x ∧ gateOpen x ∧ (burstsOf x x.start).isEmpty ∧
      (ctxOwner s c).any (takes s) then getStr (startXfer s c [] 0) c else x
  match x.xfers with
  | [] => s
  | t :: rest =>
    if ¬ t.bursts.all (·.done) then s
    else
      let last := rest.isEmpty && decide (x.start = x.base + transfers x) && x.rearm.isNone
      let next := ((rest.head?).map (·.n)).getD x.start
      let y := { x with xfers := rest, next := next, st := if x.st = .running ∧ last then .drained else x.st }
      let s := setStr s c x
      let s := match ctxOwner s c with | some l => landTag s l c t.n | none => s
      let s := setStr s c (quiesceCheck y)
      if t.again then s else unitSignal s (stData x) 1

/-- TRANSFER_SIGNAL. -/
def execTransferSignal (x : Fin 32) (s : State) : Result :=
  .next (if stopping s ∨ (getStr s x.val).st = .unarmed then s else streamPoll (signalXfer s x.val))

/-- REARM_TAKE (R172): a RUNNING context that has issued the last burst of its extent takes its pending rearm. -/
def execRearmTake (x : Fin 32) (s : State) : Result :=
  let v := getStr s x.val
  .next (match v.rearm with
    | none => s
    | some r =>
      if v.st = .running ∧ v.start = v.base + transfers v ∧ v.xfers.all whollyIssued ∧
          (ctxOwner s x.val).any (takes s) then
        match getInstr s r.u with
        | some i =>
          match rearmVerdict s i v r false with
          | .ok => streamPoll (takeRearm s x.val i r)
          | bad => streamPoll (faultInstr (setStr s x.val (drainedCheck { v with rearm := none })) i bad)
        | none => setStr s x.val (drainedCheck { v with rearm := none })
      else s)

/-- A host write of STREAM_CTL (R464): NOT_HALTED is W1C; RESUME acts on a HALTED context and sets NOT_HALTED on any
other. -/
def streamCtlWrite (s : State) (c : Nat) (v : Word) : State :=
  let s := if v.getLsbD 1 then setStr s c { getStr s c with notHalted := false } else s
  let x := getStr s c
  if ¬ v.getLsbD 0 then s
  else if x.st ≠ .halted then setStr s c { x with notHalted := true }
  else match ctxOwner s c with
    | some l => resumeStream s l c
    | none => setStr s c { x with st := .running }

/-- STREAM_CTL_RESUME. -/
def execStreamCtlResume (x : Fin 32) (v : BitVec 64) (s : State) : Result :=
  .next (if s.eng.scrubDone then streamPoll (streamCtlWrite s x.val v) else s)

/-- A context that goes on from its oldest unsignalled transfer, with the descriptor read again (R413, R173). A QUIESCING one finishes the
transfers that it had started (R171), and a DRAIN_OUT one writes its own again. -/
def rebuilt (x : Stream) (d : List Word) : Stream :=
  if stIsRing x ∧ x.st ≠ .quiescing then
    { x with desc := d, xfers := (x.xfers.filter (·.again)).map refetch, start := freshNext x
             gated := (stGate x).isSome && (x.gated || x.xfers.any (fun t => !t.again)) }
  else { x with desc := d, xfers := x.xfers.map refetch }

/-- The words of a stream's descriptor in memory as a displacement and ROWS change them (R172); a row-set stream keeps the ROWS of memory. -/
def movedDesc (ws : List Word) (disp : Word) (rows : Nat) : List Word :=
  (List.range 4).map (fun k => ws.getD k 0 + disp) ++
    [setFld (ws.getD 4 0) 0 (BitVec.ofNat 32 (if (ws.getD 7 0).getLsbD 21 then bits (ws.getD 4 0) 31 0 else rows))] ++ ws.drop 5

/-- Rebuild a context from its position record (R413): the descriptor is read again, the displacement and ROWS applied, and
the stream goes on from its oldest unsignalled transfer, in a spare; a descriptor that cannot be read halts it (log entry 14), and while one
of another endpoint has not come the command has yet to take effect (log entry 49). -/
def rebuild (s : State) (l c : Nat) : State :=
  let x := getStr s c
  let r := readVirt s (accOf s l) x.descAddr.toNat 64
  let told := faultNotice (leaseReport { r.2 with strSpares := s.strSpares - 1 } l 0x66 none false false 0 0 (BitVec.ofNat 64 c)
    (BitVec.ofNat 64 x.next))
  match r.1 with
  | .error .wait => keepGot s r.2
  | .error _ => haltStream told l c x.next x.descAddr.toNat 0x10 0
  | .ok bs => setStr told c (rebuilt x (movedDesc (words64 bs) x.disp x.rows))

/-- STREAM_CONTEXT_UE (R413): a spare context takes over, twice; the third fault stops the engine set (R416). -/
def execStreamContextUe (x : Fin 32) (s : State) : Result :=
  .next (if stopping s then s
    else if s.strSpares = 0 then startStopOpen s 8
    else
      match ctxOwner s x.val with
      | some l =>
        if (getStr s x.val).st = .unarmed then { s with strSpares := s.strSpares - 1 } else streamPoll (rebuild s l x.val)
      | none => { s with strSpares := s.strSpares - 1 })

end Sys2Proof.Machine
end

