-- ==== Sys2Proof/Machine/Drain.lean ====
section
/-! DEFINITION. The drain path: the DRAIN descriptor and its checks (R229 to R232), the epilogue (R121 to R129, R141, R147), the
conversion with its scales and gathering (R36 to R60), and the arrival of pass and drain descriptors (R213, R216). -/

namespace Sys2Proof.Machine

/-! ## The descriptor (R229) -/

def ddChan (d : List Word) : Nat := (d.getD 0 0).toNat
def ddTable (d : List Word) : Nat := (d.getD 1 0).toNat
def ddScaleRec (d : List Word) : Nat := (d.getD 2 0).toNat
def ddSmoothAddr (d : List Word) : Nat := (d.getD 3 0).toNat
def ddAuxA (d : List Word) : Word := d.getD 4 0
def ddAuxB (d : List Word) : Word := d.getD 5 0
def ddAlpha (d : List Word) : Half := fld (d.getD 6 0) 32 32
def ddDestRow (d : List Word) : Half := fld (d.getD 6 0) 0 32
def ddDestCol (d : List Word) : Half := fld (d.getD 7 0) 32 32
def ddCombine (d : List Word) : Nat := bits (d.getD 8 0) 20 19
def ddReduce (d : List Word) : Nat := bits (d.getD 8 0) 18 17
def ddRaw (d : List Word) : Bool := (d.getD 8 0).getLsbD 16
def ddAct (d : List Word) : Nat := bits (d.getD 8 0) 15 12
def ddRot (d : List Word) : Nat := bits (d.getD 8 0) 11 9
def ddSmooth (d : List Word) : Bool := (d.getD 8 0).getLsbD 8
def ddGather (d : List Word) : Nat := bits (d.getD 8 0) 7 0
def ddFmt (d : List Word) : Nat := bits (d.getD 9 0) 63 56
def ddCopies (d : List Word) : Nat := bits (d.getD 9 0) 55 54
def ddMode (d : List Word) : Bool := (d.getD 9 0).getLsbD 53
def ddFixed (d : List Word) : Nat := bits (d.getD 9 0) 52 45
def ddPcode (d : List Word) : Nat := bits (d.getD 9 0) 44 43
def ddP (d : List Word) : Nat := 32 <<< ddPcode d
def ddGatherEn (d : List Word) : Bool := (d.getD 9 0).getLsbD 42
def ddZpEn (d : List Word) : Bool := (d.getD 9 0).getLsbD 41
def ddZp (d : List Word) : Byte := fld (d.getD 9 0) 33 8
def ddCnt (d : List Word) : Nat := bits (d.getD 9 0) 7 0
def ddRow0 (d : List Word) : Nat := bits (d.getD 10 0) 63 48
def ddRows (d : List Word) : Nat := bits (d.getD 10 0) 47 32
def ddCol0 (d : List Word) : Nat := bits (d.getD 10 0) 31 16
def ddCols (d : List Word) : Nat := bits (d.getD 10 0) 15 0

/-- The output's zero point (R46). -/
def ddZpVal (d : List Word) : Option Int :=
  if ddZpEn d then some (if ddFmt d = 6 then (ddZp d).toInt else ((ddZp d).toNat : Int)) else none

/-- The copies a descriptor asks for: column axis or not, and the destination word (R122, R230). -/
def ddDests (d : List Word) : List (Bool × Half) :=
  (if ddCopies d ≠ 1 then [(false, ddDestRow d)] else []) ++ (if ddCopies d = 1 ∨ ddCopies d = 2 then [(true, ddDestCol d)] else [])

def dstKind (w : Half) : Nat := bits w 31 30
def dstPage (w : Half) : Nat := bits w 29 16
def dstCtx (w : Half) : Nat := bits w 15 11

/-- The static checks of a DRAIN in ascending order (R216, R229 to R231). -/
def drainStatic (d : List Word) (skew : Bool) (a : Word) : Verdict :=
  let act := ddAct d
  let used := (ddDests d).map (·.2)
  let raw := ddRaw d && (decide (act ≠ 0 ∨ ddRot d ≠ 0 ∨ ddReduce d ≠ 0 ∨ ddFmt d ≠ 9) || ddSmooth d || ddGatherEn d)
  let red := decide (ddReduce d ≠ 0) && (decide (ddFmt d ≠ 9 ∨ ddCopies d ≠ 0) || ddGatherEn d)
  firstCheck a
    [(1, decide (bits (d.getD 7 0) 31 0 ≠ 0 ∨ bits (d.getD 9 0) 32 8 ≠ 0) || (d.drop 11).any (fun w => w != 0) ||
        ((ddSlotList d).drop (ddNslot d)).any (fun x => x != 0) || decide (act ≠ 4 ∧ act ≠ 11 ∧ ddTable d ≠ 0) ||
        (!ddSmooth d && decide (ddSmoothAddr d ≠ 0)) || (decide (act < 8) && (ddAuxA d != 0 || ddAuxB d != 0)) ||
        (!ddZpEn d && ddZp d != 0) || (decide (8 ≤ act) && opndReserved (ddAuxA d)) ||
        used.any (fun w => decide (bits w 10 0 ≠ 0))),
     (2, decide (ddFmt d = 0 ∨ 9 < ddFmt d ∨ ddPcode d = 3 ∨ ddCombine d = 3 ∨ ddReduce d = 3 ∨ ddCopies d = 3 ∨
        5 < ddRot d ∨ (5 ≤ act ∧ act ≤ 7) ∨ act = 15) || raw || red),
     (3, decide (ddChan d % 64 ≠ 0 ∨ ddTable d % 64 ≠ 0 ∨ ddScaleRec d % 128 ≠ 0 ∨ ddSmoothAddr d % 64 ≠ 0) || skew),
     (9, ddZpEn d && (decide (ddFmt d ≠ 6 ∧ ddFmt d ≠ 7) || decide (ddFmt d = 6 ∧ ddZp d = 0x80))),
     (21, decide (ddRot d ≠ 0 ∧ ddCols d % 32 ≠ 0) || (ddSmooth d && decide (ddRot d ≠ 0 ∨ ddSmoothAddr d = 0))),
     (22, decide ((act = 4 ∨ act = 11) ∧ ddTable d = 0)),
     (25, ddMode d && decide (ddFixed d = 255)),
     (26, used.any (fun w => decide (dstKind w = 3)) || decide (ddCopies d = 1 ∧ ddDestRow d ≠ 0) ||
        decide (ddCopies d = 0 ∧ ddDestCol d ≠ 0)),
     (27, decide (ddCombine d ≠ 0 ∧ (ddNslot d < 2 ∨ ddReduce d ≠ 0)) || (decide (ddCombine d ≠ 0) && ddRaw d) ||
        decide (ddCombine d = 2 ∧ ddNslot d ≠ 2))]

/-- A DRAIN's descriptor arrives and runs the static checks; the AO form ends here (R213, R216). -/
def drainArrive (s : State) (i : SpanI) : State :=
  if i.a.toNat % 128 ≠ 0 then faultInstr s i (.config 3 i.a)
  else
    let r := readDesc s (accI i) i.a 128 (isReload i)
    match r.1 with
    | .error e => faultRead s r.2 i e
    | .ok d =>
      match drainStatic d (!isAO i && statusSkew i) i.a with
      | .ok => if isAO i then dropInstr r.2 i.u else arrived r.2 { i with ready := true, stage := .taken, desc := d }
      | bad => faultInstr r.2 i bad

/-- Whether a unit takes an instruction from its queue now: its lease is served. The earlier ones of its queue have been taken before it
and wait in their units, where they hold nothing back but as R110 and the units' capacity ask (R212). -/
def unitTakes (s : State) (i : SpanI) : Bool := decide (i.stage = .queued) && takes s i.lease

/-- DESCRIPTOR_ARRIVE (R213, R216): of a pass, a pair or a DRAIN whose unit takes it. -/
def execDescriptorArrive (u : Nat) (s : State) : Result :=
  .next (match getInstr s u with
    | none => s
    | some i =>
      if ¬ unitTakes s i then s
      else if isPass i.op then passArrive s i
      else if i.op = .drain then drainArrive s i
      else s)

/-! ## What a starting DRAIN reads -/

/-- The tables of a DRAIN as read at its start: channel entries, function table, tensor scale exponent, reciprocals. -/
structure DrainTables where
  chan : List Half := []
  table : List Half := []
  k : Int := 0
  smooth : List Half := []
  deriving DecidableEq, Repr

/-- A read that a table needs: the verdict of its failure or its words. -/
def readTable (s : State) (c : Acc) (a n : Nat) : Except Verdict (List Half) × State :=
  if n = 0 then (.ok [], s)
  else
    let r := readVirt s c a n
    (match r.1 with | .ok bs => .ok (words32 bs) | .error e => .error (pageFault e), r.2)

/-- The function table of a DRAIN: the one held, or fetched; eight are held (R124), and which of them gives way to a ninth is left open
(log entry 3). Its reserved bytes are checked as it is fetched. -/
def funcTable (s : State) (c : Acc) (d : List Word) (desc : Word) : Except Verdict (List Half) × State :=
  if ddAct d ≠ 4 ∧ ddAct d ≠ 11 then (.ok [], s)
  else
    match s.ftab.find? (fun t => decide (t.lease = c.l ∧ t.addr = ddTable d)) with
    | some t => (.ok t.words, s)
    | none =>
      let r := readTable s c (ddTable d) 8256
      match r.1 with
      | .error v => (.error v, r.2)
      | .ok ws =>
        if ((ws.drop 4).take 12).any (fun w => w != 0) then (.error (.config 1 desc), r.2)
        else if r.2.ftab.length < 8 then (.ok ws, { r.2 with ftab := r.2.ftab ++ [⟨c.l, ddTable d, ws⟩] })
        else (.ok ws, { r.2 with ftab := r.2.ftab.set (Config.freeNat r.2.free % 8) ⟨c.l, ddTable d, ws⟩, free := r.2.free + 1 })

/-- The tensor scale of SCALE_REC: only its TSCALE is checked (R34, R40). -/
def tensorScale (s : State) (c : Acc) (d : List Word) (a : Word) : Except Verdict Int × State :=
  if ddScaleRec d = 0 then (.ok 0, s)
  else
    let r := readTable s c (ddScaleRec d + 0x40) 4
    (match r.1 with
     | .error v => .error v
     | .ok ws => match tscale (ws.getD 0 0) with
       | some k => .ok k
       | none => .error (.config 23 a), r.2)

/-- Read every table of a DRAIN. The gravest failure decides. -/
def drainTables (s : State) (i : SpanI) : (Verdict × DrainTables) × State :=
  let d := i.desc
  let c := readTable s (accI i) (ddChan d + 8 * ddCol0 d) (if ddChan d = 0 then 0 else 8 * ddCols d)
  let t := funcTable c.2 (accI i) d i.a
  let k := tensorScale t.2 (accI i) d i.a
  let m := readTable k.2 (accI i) (ddSmoothAddr d + 4 * ddCol0 d) (if ddSmooth d then 4 * ddCols d else 0)
  let bad := fun {α : Type} (r : Except Verdict α) => match r with | .error v => v | .ok _ => Verdict.ok
  ((worst (worst (bad c.1) (bad t.1)) (worst (bad k.1) (bad m.1)),
    { chan := c.1.toOption.getD [], table := t.1.toOption.getD [], k := k.1.toOption.getD 0, smooth := m.1.toOption.getD [] }),
   m.2)

/-- Where an auxiliary tile lies: the page of its region or ring slot, and whether in the North store. A region lies in the
West store (log entry 15). -/
def auxPlace (s : State) (l : Nat) (a : Word) : Option (Bool × Nat) :=
  if a.getLsbD 63 then
    let x := getStr s (bits a 57 53)
    (ringPage s l (bits a 57 53) (getCnt s (stData x)).c.toNat).map (fun pg => (decide (stKind x = 1), pg))
  else (winPage s false l (bits a 49 36) 1).map (fun pg => (false, pg))

/-- Whether a DRAIN's auxiliary ring has delivered its slot (R232). -/
def auxDelivered (s : State) (d : List Word) : Bool :=
  let a := ddAuxA d
  let x := getStr s (bits a 57 53)
  decide (ddAct d < 8) || !a.getLsbD 63 || decide (x.st = .unarmed) ||
    (decide (0 < avail (getCnt s (stData x))) && !x.xfers.any (fun t => t.again && decide (t.n = (getCnt s (stData x)).c.toNat)))

/-- The checks of the auxiliary tile (R124, R141, R219). -/
def auxVerdict (s : State) (l : Nat) (d : List Word) (desc : Word) : Verdict :=
  let a := ddAuxA d
  if ddAct d < 8 then .ok
  else
    let c := bits a 57 53
    if a.getLsbD 63 ∧ ¬ (ctxMask s l).getLsbD c then .priv c 2
    else if a.getLsbD 63 ∧ ((getStr s c).st = .unarmed ∨ 1 < stKind (getStr s c)) then .config 22 desc
    else match auxPlace s l a with
      | none => .config 28 desc
      | some (north, pg) =>
        let t := getTag s north pg
        let f := t.fmt.toNat
        let rows := if a.getLsbD 63 then t.validRows else t.rows
        let cols := if a.getLsbD 63 then t.validCols else t.cols
        firstCheck desc
          [(9, t.valid && t.zpEn), (12, t.valid && !a.getLsbD 63 && decide (bits a 35 20 ≠ 0 ∧ bits a 35 20 ≠ t.cols)),
           (22, !t.valid || decide (f = 6 ∨ f = 7) ||
              decide (rows < bits (ddAuxB d) 63 32 + ddRow0 d + ddRows d ∨ cols < bits (ddAuxB d) 31 0 + ddCol0 d + ddCols d))]

/-- Columns of the written layout: a raw read writes each element's planes as pairs, a winner record is two words (R126,
R129; log entry 16). -/
def outCols (s : State) (d : List Word) : Nat :=
  let v := getSlot s ((ddSlots d).headD 0)
  if ddRaw d then 2 * v.fr * v.fc * ddCols d else if ddReduce d ≠ 0 then 2 else ddCols d

/-- Whether a stream destination breaks R150: not a DRAIN_OUT context, another format, or another tile next. `k` counts the
copies that the same DRAIN writes to the context before. -/
def streamDestBad (s : State) (d : List Word) (axis : Bool) (x : Stream) (k : Nat) : Bool :=
  let t := tileAt x (x.start + k - x.base)
  decide (x.st = .unarmed ∨ stKind x ≠ 2 ∨ stFmt x ≠ ddFmt d) ||
    (stScaled x && decide (stAxis x ≠ axis ∨ stP x ≠ ddP d)) ||
    (x.rearm.isNone && decide (x.base + transfers x ≤ x.start + k)) ||
    (decide (x.start + k < x.base + transfers x) && decide (t.2.2.1 ≠ ddRows d ∨ t.2.2.2 ≠ outCols s d))

/-- The verdict of one destination (R150, R177, R230). -/
def destVerdict (s : State) (i : SpanI) (n : Nat) (ad : Bool × Half) : Verdict :=
  let d := i.desc
  let w := ad.2
  if dstKind w = 2 then
    let before := (((ddDests d).take n).filter (fun e => decide (dstKind e.2 = 2 ∧ dstCtx e.2 = dstCtx w))).length
    if ¬ (ctxMask s i.lease).getLsbD (dstCtx w) then .priv (dstCtx w) 2
    else if streamDestBad s d ad.1 (getStr s (dstCtx w)) before then .config 26 i.a else .ok
  else if (winPage s (dstKind w = 1) i.lease (dstPage w)
      (slotPages (ddFmt d) (ddP d) (ddRows d) (outCols s d) ad.1)).isNone then .config 28 i.a
  else .ok

/-- Whether a stream destination can take its transfer now; else the drain stalls before it reads (R125, R158). -/
def destReady (s : State) (w : Half) : Bool :=
  let x := getStr s (dstCtx w)
  decide (dstKind w ≠ 2) || (decide (x.st = .running ∧ x.start < x.base + transfers x) && gateOpen x && !x.stopped)

/-- The dynamic verdict of a DRAIN (R129, R147, R215, R231). A slot's M is 256 / FR (log entry 84). -/
def drainVerdict (s : State) (i : SpanI) (bad30 : Bool) : Verdict :=
  let d := i.desc
  let l := i.lease
  let vs := (ddSlots d).map (getSlot s)
  let open_ := vs.all (fun v => v.st ≠ .free)
  let out := vs.any (fun v => v.st ≠ .free && decide (256 / v.fr < ddRow0 d + ddRows d ∨ v.cols < ddCol0 d + ddCols d))
  let unequal := vs.any (fun v => decide (v.fr ≠ (vs.headD {}).fr ∨ v.cols ≠ (vs.headD {}).cols))
  let own := firstCheck i.a
    [(2, out), (15, !open_),
     (17, vs.any (fun v => decide (v.st = .spilled ∧ segQuota s l < segsNeeded v))),
     (27, open_ && decide (ddCombine d ≠ 0) && unequal), (30, bad30),
     (31, (ddGatherEn d || ddGather d != 0) && decide (gatherCount s l ≤ ddGather d))]
  let slots := match (ddSlots d).find? (slotForeign s l) with
    | some x => Verdict.priv x 3
    | none => if ddRaw d ∧ ¬ accDebug s l then .priv ((ddSlots d).headD 0) 3 else .ok
  let dests := ((List.range (ddDests d).length).zip (ddDests d)).foldl (fun v nd => worst v (destVerdict s i nd.1 nd.2)) .ok
  worst (worst (worst slots (cntVerdict s l (ddCnt d))) (auxVerdict s l d i.a)) (worst own dests)

/-! ## The epilogue (R121 to R127, R147) -/

/-- The collapsed value of an element, before stage 3; several slots without COMBINE leave it open (log entry 17). -/
def drainValue (s : State) (d : List Word) (polbin : Bool) (i j : Nat) : Val :=
  let xs := ddSlots d
  let v := getSlot s (xs.headD 0)
  if ddCombine d ≠ 0 then
    combine (xs.map (fun x => let v := getSlot s x; (collapsePair (planesAt s v i j) v.fr v.fc polbin, ksumOf v)))
      (decide (ddCombine d = 2)) polbin
  else if 1 < xs.length then dec32 ((Config.freeWord (s.free + 65536 * i + j)).setWidth 32)
  else collapse (planesAt s v i j) v.fr v.fc polbin

/-- The saturations of the collapse of an element (R44). -/
def valueSats (s : State) (d : List Word) (polbin : Bool) (i j : Nat) : Nat :=
  let xs := ddSlots d
  let v := getSlot s (xs.headD 0)
  if ddCombine d ≠ 0 then
    sumL (xs.map (fun x => let v := getSlot s x; pairSats (planesAt s v i j) v.fr v.fc polbin)) +
      sats polbin (combineSum (xs.map (fun x =>
        let v := getSlot s x; (collapsePair (planesAt s v i j) v.fr v.fc polbin, ksumOf v))) (decide (ddCombine d = 2)))
  else if 1 < xs.length then 0
  else collapseSats (planesAt s v i j) v.fr v.fc polbin

/-- An auxiliary element decoded exactly with its scales (R141). It lies at the slot's own row and column from the auxiliary tile's origin
(log entry 82); a TRANS bit of AUX_A changes nothing of that (DESIGN CHOICE, log entry 95). -/
def auxValue (s : State) (l : Nat) (d : List Word) (i j : Nat) : Val :=
  match auxPlace s l (ddAuxA d) with
  | none => none
  | some (north, pg) =>
    let t := getTag s north pg
    let r := bits (ddAuxB d) 63 32 + i
    let c := bits (ddAuxB d) 31 0 + j
    let b := storeScale s north pg t r c
    if b = 255 then none
    else (decodeVal t.fmt.toNat (storeCode s north pg t r c)).map (fun x =>
      exScale x ((b : Int) - 127 - Config.auxExp (ddAuxA d) (ddAuxB d)))

/-- Stages 2 to 4 of one element of the tile, the operations on special inputs in them (R49, R123), and whether it saturates in them (R44,
R39). -/
def drainElem (s : State) (l : Nat) (d : List Word) (t : DrainTables) (polbin : Bool) (i j : Nat) : Val × Nat × Bool :=
  let y := drainValue s d polbin i j
  let ks := if ddCombine d ≠ 0 then 0 else ksumOf (getSlot s ((ddSlots d).headD 0))
  let c := if ddChan d = 0 then 0x3F800000 else t.chan.getD (2 * (j - ddCol0 d)) 0
  let a := if ddChan d = 0 then 0x80000000 else t.chan.getD (2 * (j - ddCol0 d) + 1) 0
  let x := channelStage y ks c a polbin
  let z := if 8 ≤ ddAct d then auxValue s l d i j else none
  let r := activation (ddAct d) x z (ddAlpha d) t.table polbin
  let n := (if (dec32 c).isNone || (dec32 a).isNone then 1 else 0) +
    (if decide (8 ≤ ddAct d) && z.isNone || x.isSome && r.isNone then 1 else 0)
  (r, n, decide (0 < valueSats s d polbin i j + channelSats y ks c a polbin + activationSats (ddAct d) x z (ddAlpha d) t.table polbin))

/-- Which elements of a row saturate in stage 5. -/
def stageFiveSats (s : State) (l : Nat) (d : List Word) (t : DrainTables) (polbin : Bool) (row : List Val) : List Bool :=
  let groups := fun (m : Nat → Nat → Val) =>
    ((List.range (row.length / 32)).map (fun g => rotateSats ((row.drop (32 * g)).take 32) m polbin)).flatten
  let none_ := row.map (fun _ => false)
  match ddRot d with
  | 0 => if ddSmooth d then (row.zip t.smooth).map (fun xs => decide (0 < sats polbin (vMul xs.1 (dec32 xs.2)))) else none_
  | 1 => groups (fun i j => some (hadamard i j))
  | n + 2 =>
    let r := Tab.get {} (getRt s l).rot n
    if r.mark then none_ else groups (fun i j => dec32 (r.mat.getD (32 * i + j) 0))

/-- The smoothing products of a row whose factor is special (R49). -/
def smoothSpecials (d : List Word) (t : DrainTables) (row : List Val) : Nat :=
  if ddRot d = 0 ∧ ddSmooth d then ((row.zip t.smooth).filter (fun xs => (dec32 xs.2).isNone)).length else 0

/-- Stage 5 over a row: rotation in groups of 32 columns, counted from the first drained column (log entry 81), or smoothing (R55, R58,
R59). -/
def stageFive (s : State) (l : Nat) (d : List Word) (t : DrainTables) (polbin : Bool) (row : List Val) : List Val :=
  let groups := fun (m : Nat → Nat → Val) =>
    ((List.range (row.length / 32)).map (fun g => rotateGroup ((row.drop (32 * g)).take 32) m polbin)).flatten
  match ddRot d with
  | 0 => if ddSmooth d then (row.zip t.smooth).map (fun xs => narV polbin (vMul xs.1 (dec32 xs.2))) else row
  | 1 => groups (fun i j => some (hadamard i j))
  | n + 2 =>
    let r := Tab.get {} (getRt s l).rot n
    if r.mark then row else groups (fun i j => dec32 (r.mat.getD (32 * i + j) 0))

/-- Cut a list into blocks of n. -/
def chunksOf {α : Type} (n : Nat) (l : List α) : List (List α) :=
  (List.range (cdiv l.length n)).map (fun k => (l.drop (n * k)).take n)

/-- The elements of a converted block that count as saturated (R39, R44, R48): those that a stage of the epilogue or the conversion has
saturated, each once, of a block not written with scale 0xFF, a NaN element left out (log entry 99). -/
def blockSats (c : Converted) (vals : List Val) (before : List Bool) : Nat :=
  (((c.sats.zip before).zip vals).filter (fun x => x.2.isSome && (x.1.1 || x.1.2))).length

/-- Convert a tile along an axis with the tensor scale applied: its codes and scales, the elements saturated, those that stages 2 to 5
saturated included, and those written as NaN (R35 to R38, R39, R46, R48). -/
def convertTile (d : List Word) (axis : Bool) (k : Int) (polbin : Bool) (tile : List (List Val)) (before : List (List Bool)) :
    TileOut × Nat × Nat :=
  let f := ddFmt d
  let p := ddP d
  let cols := ddCols d
  let lines := if axis then (List.range cols).map (fun j => tile.map (fun r => r.getD j none)) else tile
  let marks := if axis then (List.range cols).map (fun j => before.map (fun r => r.getD j false)) else before
  let conv := fun (vs : List Val) =>
    convertBlock f (if ddMode d then some (ddFixed d) else none) (ddZpVal d) polbin (vs.map (fun v => v.map (fun x => exScale x k)))
  let out := lines.map (fun l => (chunksOf p l).map conv)
  let codes := out.map (fun bs => (bs.map (·.codes)).flatten)
  let codes := if axis then (List.range tile.length).map (fun i => codes.map (fun c => c.getD i 0)) else codes
  let scales := if ¬ fmtScaled f then [] else
    ((List.range out.length).zipWith (fun i bs => (List.range bs.length).zipWith (fun b c =>
      (if axis then b * cols + i else i * cdiv cols p + b, c.scale)) bs) out).flatten
  let sat := sumL ((out.zip (lines.zip marks)).map (fun o =>
    sumL ((o.1.zip ((chunksOf p o.2.1).zip (chunksOf p o.2.2))).map (fun b => blockSats b.1 b.2.1 b.2.2))))
  ({ codes := codes, scales := scales }, sat,
    sumL (out.map (fun bs => sumL (bs.map (·.nan)))))

/-- A raw row: each element's planes in order, sum then compensation (R129). -/
def rawRow (s : State) (d : List Word) (i : Nat) : List Nat :=
  let xs := ddSlots d
  let v := getSlot s (xs.headD 0)
  ((List.range (ddCols d)).map (fun j =>
    ((List.range (v.fr * v.fc)).map (fun q =>
      let e := readEntry s v q i (ddCol0 d + j)
      let o := fun (n : Nat) => (Config.freeWord (s.free + 65536 * i + 32 * j + 2 * q + n)).toNat % 2 ^ 32
      if 1 < xs.length then [o 0, o 1] else [if e.chk = 2 then nan32.toNat else e.s.toNat, e.c.toNat])).flatten)).flatten

/-- A winner record of a row (R126). -/
def reduceRow (d : List Word) (base : Half) (polbin : Bool) (row : List Val) : List Nat :=
  let recs := (List.range row.length).zipWith (fun j v =>
    (enc32 polbin v, base + BitVec.ofNat 32 (ddCol0 d + j))) row
  match recs with
  | [] => [0, 0]
  | r :: t => let w := t.foldl (winner (decide (ddReduce d = 1))) r; [w.1.toNat, w.2.toNat]

/-- The bytes of a converted tile in the order of a transfer's ranges: element rows, then scale rows (R151). -/
def streamTile (d : List Word) (axis : Bool) (o : TileOut) : List Byte :=
  let rows := (o.codes.map (packCodes (fmtWidth (ddFmt d)))).flatten
  let width := if axis then ddCols d else cdiv (ddCols d) (ddP d)
  let n := if axis then cdiv (ddRows d) (ddP d) else ddRows d
  let sc := (List.range (n * width)).map (fun k => BitVec.ofNat 8 (((o.scales.find? (fun e => e.1 == k)).map (·.2)).getD 0))
  if o.scales = [] then rows else rows ++ sc

/-- Write a copy: to a region with the tags of its pages, or as its context's next transfer (R230). The transfers begun. -/
def writeCopy (s : State) (i : SpanI) (ad : Bool × Half) (o : TileOut) : Option (Nat × Nat) × State :=
  let d := i.desc
  let f := ddFmt d
  let w := ad.2
  let cols := outCols s d
  if dstKind w = 2 then
    let x := getStr s (dstCtx w)
    (some (dstCtx w, x.start),
      startXfer s (dstCtx w) (feedBursts (streamTile d ad.1 o) (tileBursts x (x.start - x.base))) i.u)
  else
    let north := decide (dstKind w = 1)
    let n := slotPages f (ddP d) (ddRows d) cols ad.1
    match winPage s north i.lease (dstPage w) n with
    | none => (none, s)
    | some pg =>
      let sc := fmtScaled f
      let tag : PageTag :=
        { valid := true, fmt := BitVec.ofNat 8 f, axis := sc && ad.1, p := if sc then ddP d else 0, zpEn := ddZpEn d
          zp := ddZp d, rows := ddRows d, cols := cols, validRows := ddRows d, validCols := cols }
      (none, setTags (storeWrite s north (regionBytes pg f (ddRows d) cols o)) north pg n tag)

/-- The larger of a gathered maximum and the magnitudes of a tile (R39). -/
def gatherMax (old : Half) (tile : List (List Val)) : Half :=
  nar32 (tile.foldl (fun m r => r.foldl (fun m v => match v with | some x => exMax m (exAbs x) | none => m) m)
    (exAbs (val32 old))) false

/-- Update the gathering register that a DRAIN names (R39, R122). -/
def gatherUpdate (s : State) (l : Nat) (d : List Word) (tile : List (List Val)) (sat nan : Nat) : State :=
  if ¬ ddGatherEn d then s
  else
    let k := gatherBase s l + ddGather d
    let g := Tab.get {} s.gather k
    let g' : Gather := { amax := gatherMax g.amax tile, sat := satAdd32 g.sat (BitVec.ofNat 32 sat)
                         nan := satAdd32 g.nan (BitVec.ofNat 32 nan) }
    { s with gather := Tab.set {} s.gather k g' }

/-- What a DRAIN writes to each copy, the stage-6 input, the first copy's saturated and NaN elements, and its operations on special inputs:
a second copy runs the epilogue again (R122). -/
def drainOutput (s : State) (i : SpanI) (t : DrainTables) : List TileOut × List (List Val) × Nat × Nat × Nat :=
  let d := i.desc
  let polbin := i.leg
  if ddRaw d then
    let o : TileOut := { codes := (List.range (ddRows d)).map (fun r => rawRow s d (ddRow0 d + r)), scales := [] }
    ((ddDests d).map (fun _ => o), [], 0, 0, 0)
  else
    let els := (List.range (ddRows d)).map (fun r => (List.range (ddCols d)).map (fun c =>
      drainElem s i.lease d t polbin (ddRow0 d + r) (ddCol0 d + c)))
    let spec := sumL (els.map (fun r => sumL (r.map (·.2.1))))
    let tile := els.map (fun r => r.map (·.1))
    if ddReduce d ≠ 0 then
      let base := (getSlot s ((ddSlots d).headD 0)).colBase
      ([{ codes := tile.map (reduceRow d base polbin), scales := [] }], [], 0, 0, spec)
    else
      -- In a rotation the element is that of the output column; its inputs' earlier saturations stay with their own columns.
      let marks := (els.zip tile).map (fun r =>
        ((r.1.map (·.2.2)).zip (stageFiveSats s i.lease d t polbin r.2)).map (fun b => b.1 || b.2))
      let spec := (spec + sumL (tile.map (smoothSpecials d t))) * (if ddCopies d = 2 then 2 else 1)
      let tile := tile.map (stageFive s i.lease d t polbin)
      let outs := (ddDests d).map (fun ad => convertTile d ad.1 t.k polbin tile marks)
      (outs.map (·.1), tile, ((outs.head?).map (·.2.1)).getD 0, ((outs.head?).map (·.2.2)).getD 0, spec)

/-- Read cycles of a DRAIN (R121, R122, R147, R232). -/
def drainReads (s : State) (d : List Word) : Nat :=
  let v := getSlot s ((ddSlots d).headD 0)
  ddRows d * cdiv (v.fr * v.fc * ddCols d) 1024 * (if ddCopies d = 2 then 2 else 1) * ddNslot d

/-- Write every copy in turn. -/
def writeCopies (s : State) (i : SpanI) : List ((Bool × Half) × TileOut) → List (Nat × Nat) → List (Nat × Nat) × State
  | [], acc => (acc, s)
  | (ad, o) :: t, acc => let r := writeCopy s i ad o; writeCopies r.2 i t (acc ++ r.1.toList)

/-- Run a DRAIN that may start: it reads its slots, and every write it makes is formed (R232). -/
def runDrain (s : State) (i : SpanI) (t : DrainTables) : State :=
  let d := i.desc
  let xs := ddSlots d
  let s := xs.foldl (fun s x => scanEntries s x (ddRow0 d) (ddRows d) (ddCol0 d) (ddCols d) (srcOf i)) s
  let o := drainOutput s i t
  let s := event (event s 0x041 (drainReads s d) (srcOf i)) 0x022 o.2.2.2.2 (srcOf i)
  let s := { s with free := s.free + 2 ^ 32 }
  let s := gatherUpdate s i.lease d o.2.1 o.2.2.1 o.2.2.2.1
  let a := ddAuxA d
  let s := if 8 ≤ ddAct d ∧ a.getLsbD 63 then unitTake s (stData (getStr s (bits a 57 53))) 1 else s
  let w := writeCopies s i ((ddDests d).zip o.1) []
  let s := activate (putInstr w.2 { i with stage := .running }) xs
  serve { s with drn := some ⟨i.u, i.lease, xs, w.1, o.2.2.1, ddCnt d⟩ } 2 i.lease

/-- Whether a DRAIN is held back by another operation: an earlier one on a slot, a moving slot, or an earlier `SCALE.UPDATE` of its record
(R110, R232). -/
def drainHeld (s : State) (i : SpanI) : Bool :=
  let d := i.desc
  (ddSlots d).any (fun x => slotWaits s i x || slotMoving (getSlot s x)) ||
    s.instrs.any (fun j => decide (j.op = .scaleUpdate ∧ j.lease = i.lease ∧ j.u < i.u ∧ j.a.toNat = ddScaleRec d ∧
      ddScaleRec d ≠ 0))

/-- Whether a DRAIN must still wait: it is held back, or its auxiliary ring has not delivered its slot (R232). -/
def drainWaits (s : State) (i : SpanI) : Bool := drainHeld s i || !auxDelivered s i.desc

/-- Whether a DRAIN is the one to start: the first that could of the lease whose turn has come (R212, R359). -/
def drainTurn (s : State) (u : Nat) : Bool :=
  ((leaseOrder s 2).findSome? (fun k => s.instrs.find? (fun i => decide (i.op = .drain ∧ i.stage = .taken ∧ i.lease = k) &&
    takes s k && !drainWaits s i))).map (·.u) == some u

/-- Whether a context waits for a credit of its lease's share: a burst is ready and none is free (R160). -/
def creditLess (s : State) (c : Nat) : Bool :=
  (ctxOwner s c).any (fun l => burstReady s l (getStr s c) && decide (creditShare s l ≤ creditsHeld s l))

/-- The DRAIN that its destination or its auxiliary ring stalls in this cycle (R125, R232). -/
def drainStalled (s : State) : Option SpanI :=
  match s.drn with
  | some r => (getInstr s r.u).filter (fun _ => r.ctxs.any (fun c => creditLess s c.1))
  | none => s.instrs.find? (fun i => decide (i.op = .drain ∧ i.stage = .taken) && takes s i.lease && !drainHeld s i &&
      (!auxDelivered s i.desc || !(ddDests i.desc).all (fun ad => destReady s ad.2)))

/-- DRAIN_START (R232): the dynamic checks, the fill of SPILLED slots (R119), a zero count without work (R217), else the
drain. -/
def execDrainStart (u : Nat) (s : State) : Result :=
  .next (match getInstr s u with
    | none => s
    | some i =>
      let d := i.desc
      if i.op ≠ .drain ∨ i.stage ≠ .taken ∨ ¬ takes s i.lease ∨ drainWaits s i then s
      else
        let m := armStatus s i
        let r := drainTables m.2.2 m.2.1
        if statusWaits s i then m.2.2
        else match worst (drainVerdict r.2 m.2.1 m.1) r.1.1 with
        | .ok =>
          let i := m.2.1
          let s := r.2
          if ¬ (ddDests d).all (fun ad => destReady s ad.2) then s
          else if ddRows d = 0 ∨ ddCols d = 0 then
            let w := writeCopies s i (((ddDests d).filter (fun ad => dstKind ad.2 == 2)).map (fun ad => (ad, ⟨[], []⟩))) []
            finish w.2 i { skipped := true, sticky := stickyOf s (ddSlots d) } [ddCnt d]
          else match (ddSlots d).find? (fun x => decide ((getSlot s x).st = .spilled)) with
            | some x => askFill i.u s x
            | none => if s.drn.isSome ∨ ¬ drainTurn s i.u then s else runDrain s i r.1.2
        | bad => faultOr s r.2 m.2.1 bad)

/-- Whether a transfer that a DRAIN feeds has been written. -/
def fedDone (s : State) (cn : Nat × Nat) : Bool :=
  (getStr s cn.1).xfers.all (fun t => t.n != cn.2 || t.bursts.all (·.done))

/-- DRAIN_COMPLETE (R214, R232): once every write is acknowledged, status and signal. -/
def execDrainComplete (s : State) : Result :=
  .next (match s.drn with
    | none => s
    | some r =>
      if ¬ r.ctxs.all (fedDone s) then s
      else
        let st : Status := { count := r.sat, sticky := stickyOf s r.slots }
        let s := settle { s with drn := none } r.slots
        match getInstr s r.u with
        | some i => finish s i st [r.cnt]
        | none => s)

end Sys2Proof.Machine
end

