-- ==== Sys2Proof/Machine/Girder.lean ====
section
/-! DEFINITION. The Girder unit: opening and closing slots (R106 to R111, R225 to R228), the mover's spills and fills (R118 to
R120, R409), the scrubber (R111), and the peek window (R129, R466). -/

namespace Sys2Proof.Machine

/-! ## Opening and closing -/

def soN (i : SpanI) : Nat := bits i.w1 12 0
def soFr (i : SpanI) : Nat := bits i.w1 22 20
def soFc (i : SpanI) : Nat := bits i.w1 19 16
def soKsum (i : SpanI) : BitVec 9 := fld i.w1 23 9

/-- Whether a fold code is one of 1, 2, 4 and 8 up to a limit. -/
def foldCode (limit n : Nat) : Bool := decide (n ≤ limit) && (n == 1 || n == 2 || n == 4 || n == 8)

/-- The folds a slot records: 1 × 1 where the lease was LEGACY at the crossing (R88, R225, R376). -/
def openFr (i : SpanI) : Nat := if i.leg then 1 else soFr i
def openFc (i : SpanI) : Nat := if i.leg then 1 else soFc i

/-- Slot indices bound to a lease (R106). -/
def boundSlots (s : State) (l : Nat) : Nat :=
  ((List.range 32).filter (fun x => decide ((getSlot s x).st ≠ .free ∧ (getSlot s x).lease = l))).length

/-- The slot that an opening instruction makes, without its segments (R108, R111, R225, R409). Opening is no touch (R109). -/
def openedSlot (i : SpanI) : Slot :=
  { st := .open, lease := i.lease, fr := openFr i, fc := openFc i, ksum := soKsum i, colBase := i.a.setWidth 32, cols := soN i }

/-- Openings of a lease that wait for segments; each counts against SLOT_QUOTA (log entry 40). -/
def opensWaiting (s : State) (l : Nat) : Nat :=
  (s.instrs.filter (fun i => decide (i.op = .slotOpen ∧ i.stage = .taken ∧ i.lease = l))).length

/-- The checks of `SLOT.OPEN` (R216, R225). -/
def openVerdict (s : State) (i : SpanI) (x : Nat) : Verdict :=
  let v := getSlot s x
  worst
    (firstCheck 0
      [(2, !foldCode 4 (soFr i) || !foldCode 8 (soFc i) || decide ((soKsum i).toInt < -240 ∨ 240 < (soKsum i).toInt)),
       (14, decide (4096 / openFc i < soN i)),
       (15, decide (v.st ≠ .free ∧ v.lease = i.lease)),
       (17, decide (slotQuota s i.lease < boundSlots s i.lease + opensWaiting s i.lease + 1 ∨ segQuota s i.lease < segsNeeded (openedSlot i)))])
    (if slotForeign s i.lease x then .priv x 3 else .ok)

/-- A queued instruction of the Girder unit that it may take now, by its number and operation. -/
def girderInstr (s : State) (u : Nat) (op : SpanOp) : Option SpanI :=
  (getInstr s u).filter (fun i => decide (i.op = op ∧ i.stage = .queued) && takes s i.lease &&
    !slotWaits s i (bits i.w0 4 0))

/-- Open a slot whose checks have passed, once its segments are there (R108, R109). -/
def openSlot (s : State) (i : SpanI) : State :=
  let v := openedSlot i
  let r := allot s i.lease (segsNeeded v)
  match r.1 with
  | some segs => finish (setSlot r.2 (bits i.w0 4 0) { v with segs := segs }) i {} []
  | none => r.2

/-- SLOT_OPEN_START (R108, R109, R225): the unit takes the opening and makes its checks; then it waits for its segments and
never faults. -/
def execSlotOpenStart (u : Nat) (s : State) : Result :=
  .next (match getInstr s u with
    | none => s
    | some i =>
      if i.op ≠ .slotOpen ∨ ¬ takes s i.lease ∨ slotWaits s i (bits i.w0 4 0) then s
      else if i.stage ≠ .queued then openSlot s i
      else match openVerdict s i (bits i.w0 4 0) with
        | .ok => openSlot (putInstr s { i with stage := .taken }) { i with stage := .taken }
        | bad => faultInstr s i bad)

/-- Release a slot: its segments enter the scrub queue and its index is FREE; its sticky bits and mask stand until the next
`SLOT.OPEN` (R111, R409). -/
def releaseSlot (s : State) (x : Nat) : State :=
  let v := getSlot s x
  let segs := v.segs
  let s := setSlot s x { poison := v.poison, accSat := v.accSat, psat := v.psat, special := v.special
                         poisonRows := v.poisonRows }
  { s with gir := { s.gir with scrubQ := s.gir.scrubQ ++ segs } }

/-- SLOT_CLOSE_START (R111, R226): check 15 on a FREE slot; an image in the spill area is left as it is. -/
def execSlotCloseStart (u : Nat) (s : State) : Result :=
  .next (match girderInstr s u .slotClose with
    | none => s
    | some i =>
      let x := bits i.w0 4 0
      if slotForeign s i.lease x then faultInstr s i (.priv x 3)
      else if (getSlot s x).st = .free then faultInstr s i (.config 15 0)
      else if slotMoving (getSlot s x) then s
      else finish (releaseSlot s x) i {} [])

/-! ## The mover (R118 to R120) -/

/-- Pages of 4 KiB of a slot's image: one segment row of 512 entries each. -/
def imagePages (v : Slot) : Nat := 256 * v.segs.length

/-- The physical address of a page of a slot's image (R118). -/
def imageAddr (s : State) (m : Mover) : Nat := spillBase s m.lease + m.slot * 0x800000 + 4096 * m.pos

/-- Bank row and first word of the entries of an image page. -/
def imagePlace (v : Slot) (pos : Nat) : Nat × Nat := (pos % 256, 512 * v.segs.getD (pos / 256) 0)

/-- Halt the mover with its position saved (R120). -/
def haltMover (s : State) (m : Mover) : State :=
  { s with gir := { s.gir with mover := some { m with halted := true } } }

/-- One entry on its way into an image: corrected and counted, or NaN where its row is masked or it is uncorrectable (R105,
R409). The compensation beside an uncorrectable entry is a free value. -/
def spillEntry (x : Nat) (src : SampleSrc) (r : Nat) (acc : List Byte × State) (w : Nat) : List Byte × State :=
  let s := acc.2
  let v := getSlot s x
  let e := getEnt s r w
  let put := fun (a b : Half) => acc.1 ++ leBytes 4 a.toNat ++ leBytes 4 b.toNat
  if v.poisonRows.getLsbD r then (put nan32 0, setSlot s x { v with special := true })
  else if e.chk = 2 then
    let s := entryUe s x r w
    (put nan32 ((Config.freeWord s.free).setWidth 32),
      { setSlot s x { getSlot s x with special := true } with free := s.free + 1 })
  else if e.chk = 1 then (put e.s e.c, event (setEnt s r w { e with chk := 0 }) 0x032 1 src)
  else (put e.s e.c, s)

/-- The entry that eight image bytes hold (R105). -/
def imageEntry (bs : List Byte) (k : Nat) : Entry :=
  { s := BitVec.ofNat 32 (leNat ((bs.drop (8 * k)).take 4)), c := BitVec.ofNat 32 (leNat ((bs.drop (8 * k + 4)).take 4)) }

/-- The instruction whose work a move is: its own, or the one whose start fills the slot (R119). An eviction is no single one's. -/
def moveInstr (s : State) (m : Mover) : Option SpanI :=
  (if m.fill then m.u.or (getSlot s m.slot).fillFor else m.u).bind (getInstr s)

/-- The occurrence that a move is (R392). -/
def srcMove (s : State) (m : Mover) : SampleSrc := ((moveInstr s m).map srcOf).getD (srcLease m.lease)

/-- On whose behalf a move reaches memory. -/
def accMove (s : State) (m : Mover) : Acc := ((m.u.bind (getInstr s)).map accI).getD (accOf s m.lease)

/-- Whether the next page of a fill must wait: its READs are not answered (R16), or the bank that it goes to waits for its spare (R408). -/
def moverStuck (s : State) (m : Mover) : Bool :=
  m.fill && (s.gir.bankBusy.contains (imagePlace (getSlot s m.slot) m.pos).1 || farWaits s m.lease (imageAddr s m) 4096)

/-- Move one page of the mover's image: a page in no window halts it, and so does a poisoned page of a fill, which is
reported (R120, R415). A page that lies with another endpoint is asked for first, and moved once the READs are answered. -/
def moverPage (s : State) (m : Mover) : State :=
  let v := getSlot s m.slot
  let a := imageAddr s m
  let p := imagePlace v m.pos
  if ¬ inMap s a 4096 then haltMover s m
  else if moverStuck s m then farRead s (accMove s m) a 4096
  else if m.fill ∧ cutOff s a 4096 then haltMover (farTake s m.lease a 4096) m
  else if m.fill ∧ poisoned s a 4096 then
    leaseReport (haltMover (farTake s m.lease a 4096) m) m.lease 0x60 none false false 0 0 (BitVec.ofNat 64 a) 0x60
  else
    let s :=
      if m.fill then
        let bs := memBytes s a 4096
        (List.range 512).foldl (fun s k => setEnt s p.1 (p.2 + k) (imageEntry bs k)) (farTake s m.lease a 4096)
      else
        let r := (List.range 512).foldl (fun acc k => spillEntry m.slot (srcMove s m) p.1 acc (p.2 + k)) ([], s)
        spanWrite r.2 (accMove s m) a r.1
    let s := addMeters (event s 0x043 4096 (srcMove s m)) m.lease 0 0 4096
    { s with gir := { s.gir with mover := some { m with pos := m.pos + 1 } } }

/-- Move pages until the image is moved, or the mover halts or must wait. -/
def moverRun : Nat → State → State
  | 0, s => s
  | n + 1, s => match s.gir.mover with
    | none => s
    | some m =>
      if m.halted ∨ imagePages (getSlot s m.slot) ≤ m.pos then s
      else if moverStuck s m then moverPage s m else moverRun n (moverPage s m)

/-- A cycle of the mover: a move that waits goes on as soon as it can. -/
def moverCycle (s : State) : State :=
  if stopping s then s
  else match s.gir.mover with
    | some _ => moverRun 2049 s
    | none => s

/-- Put a move on the mover and run it. -/
def startMover (s : State) (m : Mover) : State :=
  let s := serve s 3 m.lease
  moverRun 2049 { s with gir := { s.gir with mover := some m } }

/-- The spill or fill instruction that stands first on a slot. -/
def moverInstr (s : State) (x : Nat) : Option SpanI :=
  s.instrs.find? (fun i => decide ((i.op = .slotSpill ∨ i.op = .slotFill) ∧ bits i.w0 4 0 = x ∧ i.stage = .queued) &&
    takes s i.lease && !slotWaits s i x)

/-- The instruction that a free mover could start on a slot: a spill, or a fill whose segments are there. -/
def moverCould (s : State) (x : Nat) : Option SpanI :=
  if slotMoving (getSlot s x) then none
  else (moverInstr s x).filter (fun i => decide (i.op = .slotSpill ∨
    (segsHeld s i.lease + segsNeeded (getSlot s x) ≤ segQuota s i.lease ∧ segsNeeded (getSlot s x) ≤ (freeSegs s).length)))

/-- Whether a slot has work for a free mover, and its lease: a requested eviction or implicit fill, or an instruction. -/
def moverWork (s : State) (x : Nat) : Option Nat :=
  if slotMoving (getSlot s x) then some (getSlot s x).lease else (moverCould s x).map (·.lease)

/-- Whether an instruction goes before the others of its lease that the mover could start: it is the earliest of them (R212). -/
def moverFirst (s : State) (i : SpanI) : Bool :=
  (List.range 32).all (fun x => (moverCould s x).all (fun j => decide (j.lease ≠ i.lease ∨ i.u ≤ j.u)))

/-- Whether a lease is the one that the mover serves next (R359). -/
def moverTurn (s : State) (l : Nat) : Bool :=
  (leaseOrder s 3).find? (fun k => (List.range 32).any (fun x => moverWork s x == some k)) == some l

/-- The checks of a spill or fill (R216, R226). -/
def moverVerdict (s : State) (i : SpanI) (x : Nat) (bad30 : Bool) : Verdict :=
  let v := getSlot s x
  worst
    (firstCheck 0
      [(3, statusSkew i), (15, decide (v.st = .free)),
       (17, decide (i.op = .slotFill ∧ v.st = .spilled ∧ segQuota s i.lease < segsNeeded v)), (30, bad30)])
    (if slotForeign s i.lease x then .priv x 3 else .ok)

/-- Start a spill or fill instruction on its slot. -/
def startMove (s : State) (i : SpanI) (x : Nat) : State :=
  let v := getSlot s x
  if s.gir.mover.isSome ∨ ¬ moverTurn s i.lease ∨ ¬ moverFirst s i then
    if i.op = .slotFill ∧ (moverWork s x).isNone then (allot s i.lease (segsNeeded v)).2 else s
  else
    let i := { i with stage := .running }
    if i.op = .slotSpill then
      startMover (setSlot (putInstr s i) x { v with st := .spilling, evicting := false })
        ⟨x, false, 0, false, some i.u, i.lease⟩
    else
      let r := allot s i.lease (segsNeeded v)
      match r.1 with
      | some segs =>
        startMover (setSlot (putInstr r.2 i) x { getSlot r.2 x with st := .filling, segs := segs })
          ⟨x, true, 0, false, some i.u, i.lease⟩
      | none => r.2

/-- GIRDER_MOVER_START (R226, R228): the mover takes up a slot's requested eviction or implicit fill, or its first spill or
fill instruction. A spill of a SPILLED slot and a fill of an OPEN slot move nothing. -/
def execGirderMoverStart (x : Fin 32) (s : State) : Result :=
  let v := getSlot s x.val
  .next (if stopping s then s
    else if slotMoving v then
      if s.gir.mover.isNone ∧ moverTurn s v.lease then
        startMover (setSlot s x.val { v with evicting := false }) ⟨x.val, decide (v.st = .filling), 0, false, none, v.lease⟩
      else s
    else match moverInstr s x.val with
      | none => s
      | some i =>
        let m := armStatus s i
        if statusWaits s i then m.2.2
        else match moverVerdict s i x.val m.1 with
        | .ok =>
          if (i.op = .slotSpill ∧ v.st = .spilled) ∨ (i.op = .slotFill ∧ v.st ≠ .spilled) then
            finish m.2.2 m.2.1 { skipped := true } (sigList i)
          else startMove m.2.2 m.2.1 x.val
        | bad => faultInstr s i bad)

/-- MOVER_RESUME (R120): a halted spill or fill goes on from its saved position. -/
def execMoverResume (s : State) : Result :=
  .next (match s.gir.mover with
    | some m =>
      if m.halted ∧ ¬ stopping s then
        moverRun 2049 { s with gir := { s.gir with mover := some { m with halted := false } } }
      else s
    | none => s)

/-- Complete the instruction that a move served. -/
def moveDone (s : State) (u : Option Nat) : State :=
  match u.bind (getInstr s) with
  | some i => finish s i {} (sigList i)
  | none => s

/-- Whether the mover has moved its whole image in a direction. -/
def moved (s : State) (fill : Bool) : Option Mover :=
  s.gir.mover.filter (fun m => decide (m.fill = fill) && !m.halted && decide (imagePages (getSlot s m.slot) ≤ m.pos))

/-- SPILL_COMPLETE (R107, R118): the slot is SPILLED once no read of it is under way, and its segments are scrubbed. -/
def execSpillComplete (s : State) : Result :=
  .next (match moved s false with
    | none => s
    | some m =>
      if slotBusy s m.slot then s
      else
        let v := getSlot s m.slot
        let s := setSlot s m.slot { v with st := .spilled, segs := [], evicting := false }
        moveDone { s with gir := { s.gir with scrubQ := s.gir.scrubQ ++ v.segs, mover := none } } m.u)

/-- FILL_COMPLETE (R107, R118): the slot is OPEN. -/
def execFillComplete (s : State) : Result :=
  .next (match moved s true with
    | none => s
    | some m =>
      let s := setSlot s m.slot { getSlot s m.slot with st := .open }
      moveDone { s with gir := { s.gir with mover := none } } m.u)

/-! ## The scrubber and the peek window -/

/-- SCRUB_SEGMENT_DONE (R111): the first queued segment is zero and allocatable. -/
def execScrubSegmentDone (s : State) : Result :=
  .next (match s.gir.scrubQ with
    | [] => s
    | k :: rest =>
      event { s with gir := { s.gir with scrubQ := rest
                                         ent := s.gir.ent.filter (fun e => decide (e.1 % 32768 / 512 ≠ k))
                                         segFree := s.gir.segFree ||| ((1 : Word) <<< k) } } 0x044 1 srcNone)

/-- The writable bits of PEEK_ADDR. -/
def peekMask : Word := 0x0000001F7FF00FFF

/-- A write of PEEK_ADDR (R466): ignored while BUSY. -/
def peekWrite (s : State) (v : Word) : State :=
  if s.gir.peekBusy then s
  else { s with gir := { s.gir with peekAddr := v &&& peekMask, peekU := s.nextUid, peekBusy := true, peekDone := false
                                    peekDenied := false, peekNotRes := false } }

/-- PEEK_ADDR. -/
def execPeekAddr (v : BitVec 64) (s : State) : Result := .next (if s.eng.scrubDone then peekWrite s v else s)

/-- Whether a pass or fill from before the peek still stands before it on its slot (R110, R466). -/
def peekWaits (s : State) (x : Nat) : Bool :=
  s.instrs.any (fun j => decide (j.u < s.gir.peekU) && (isPass j.op || decide (j.op = .slotFill)) && !isAO j &&
    (match opSlots s j with | none => true | some l => l.contains x) && !accessDone s j x)

/-- End a peek with its result. -/
def peekEnd (s : State) (data : Word) (denied notRes : Bool) : State :=
  { s with gir := { s.gir with peekData := data, peekDenied := denied, peekNotRes := notRes, peekDone := true
                               peekBusy := false } }

/-- PEEK_DONE (R466): the entry in the layout of R105, or 0 where the peek is DENIED or its slot NOT_RESIDENT. -/
def execPeekDone (s : State) : Result :=
  let a := s.gir.peekAddr
  let x := bits a 36 32
  let v := getSlot s x
  let q := bits a 30 28
  let i := bits a 27 20
  let j := bits a 11 0
  let notRes := decide (v.st = .free ∨ v.st = .spilled ∨ v.st = .filling)
  let denied := decide (v.st ≠ .free) &&
    (!accDebug s v.lease || decide (v.fr * v.fc ≤ q ∨ 256 / v.fr ≤ i ∨ v.cols ≤ j))
  .next (if ¬ s.gir.peekBusy ∨ peekWaits s x then s
    else if denied || notRes then peekEnd s 0 denied notRes
    else match entryAt v q i j with
      | none => peekEnd s 0 denied notRes
      | some (r, w) =>
        let e := readEntry s v q i j
        if e.chk = 2 then peekEnd (entryUe s x r w) (e.c ++ nan32) false false
        else
          let s := if e.chk = 1 then event (setEnt s r w { e with chk := 0 }) 0x032 1 (srcLease v.lease) else s
          peekEnd s (e.c ++ e.s) false false)

end Sys2Proof.Machine
end

