-- ==== Sys2Proof/Machine/Chain.lean ====
section
/-! DEFINITION. Reduction chains (R242, R293 to R309): the start of a hop, its own chunks, the chunks and credits it exchanges, its
completion and its stops. The values of an own chunk are formed when it is read (R303). -/

namespace Sys2Proof.Machine

/-! ## The chain descriptor (R297) -/

def cdUp (d : List Word) : BitVec 24 := fld (d.getD 0 0) 40 24
def cdDown (d : List Word) : BitVec 24 := fld (d.getD 0 0) 16 24
def cdId (d : List Word) : BitVec 16 := fld (d.getD 0 0) 0 16
def cdTag (d : List Word) : BitVec 16 := fld (d.getD 1 0) 48 16
def cdHop (d : List Word) : Nat := bits (d.getD 1 0) 47 40
def cdNhops (d : List Word) : Nat := bits (d.getD 1 0) 39 32
def cdCredits (d : List Word) : Nat := bits (d.getD 1 0) 31 24
def cdTimeout (d : List Word) : Nat := bits (d.getD 1 0) 23 16
def cdEpoch (d : List Word) : BitVec 8 := fld (d.getD 1 0) 8 8
def cdLast (d : List Word) : Bool := (d.getD 1 0).getLsbD 7
def cdRow0 (d : List Word) : Nat := bits (d.getD 2 0) 63 48
def cdCol0 (d : List Word) : Nat := bits (d.getD 2 0) 31 16
/-- Chunks of a row. -/
def cdQuarters (d : List Word) : Nat := cdiv (cdCols d) 1024
/-- The number of values of a chunk of quarter q. -/
def cdCount (d : List Word) (q : Nat) : Nat := min 1024 (cdCols d - 1024 * q)

/-- Whether an instruction is a chain instruction, and whether it receives. -/
def isChain : SpanOp → Bool
  | .chainSend | .chainRecv => true
  | _ => false
def isRecv (i : SpanI) : Bool := i.op == .chainRecv

/-- The static cases of check 32 that the descriptor alone decides (R298). -/
def chainStatic (recv : Bool) (d : List Word) : Bool :=
  (!recv && (decide (cdHop d ≠ 0) || cdUp d != 0 || decide (cdCredits d ≠ 0))) ||
  (recv && decide (cdHop d = 0 ∨ cdCredits d = 0)) ||
  decide (cdNhops d = 0 ∨ cdNhops d ≤ cdHop d) ||
  (cdLast d != decide (cdHop d + 1 = cdNhops d)) || (!cdLast d && cdTag d != 0)

/-- Whether a chain's region lies beyond a slot's tile (R298); a slot's M is 256 / FR (log entry 84). -/
def chainOut (d : List Word) (v : Slot) : Bool :=
  v.st ≠ .free && decide (256 / v.fr < cdRow0 d + cdRows d ∨ v.cols < cdCol0 d + cdCols d)

/-- Whether an earlier SLOT.OPEN or SLOT.CLOSE of the lease has still to change a slot's tile. -/
def tileOpen (s : State) (i : SpanI) (x : Nat) : Bool :=
  s.instrs.any (fun j => decide (j.lease = i.lease ∧ j.u < i.u ∧ (j.op = .slotOpen ∨ j.op = .slotClose)) && (slotsNamed j).contains x)

/-- The checks of a chain instruction whose descriptor arrives (R216, R298, R215). The region against a slot that an earlier operation has
still to open or close is judged at the start (DEDUCED, log entry 100). -/
def chainArrive (s : State) (i : SpanI) (d : List Word) (bad30 : Bool) : Verdict :=
  let xs := slotsNamed i
  let out := xs.any (fun x => !tileOpen s i x && chainOut d (getSlot s x))
  let own := firstCheck i.a
    [(1, decide (bits (d.getD 1 0) 6 0 ≠ 0) || (d.drop 3).any (fun w => w != 0)), (3, statusSkew i), (30, bad30),
     (32, chainStatic (isRecv i) d || out)]
  match xs.find? (slotForeign s i.lease) with
  | some x => worst (.priv x 3) own
  | none => own

/-- The dynamic checks of a chain instruction at its start (R216, R298), after the static region case where that had to wait. -/
def chainVerdict (s : State) (i : SpanI) (d : List Word) : Verdict :=
  let xs := slotsNamed i
  let vs := xs.map (getSlot s)
  let twin := s.chn.any (fun r => decide (r.lease = i.lease ∧ cdId r.desc = cdId d ∧ cdEpoch r.desc = cdEpoch d))
  let own := if vs.any (chainOut d) then .config 32 i.a else firstCheck i.a
    [(15, vs.any (fun v => v.st = .free)), (17, vs.any (fun v => decide (v.st = .spilled ∧ segQuota s i.lease < segsNeeded v))),
     (27, vs.any (fun v => decide (v.fr ≠ (vs.headD {}).fr ∨ v.cols ≠ (vs.headD {}).cols))),
     (32, twin)]
  match xs.find? (slotForeign s i.lease) with
  | some x => worst (.priv x 3) own
  | none => own

/-! ## Packets (R300, R301) -/

/-- The 32-byte chain header of a run, with the domain and the LEGACY bit of its crossing (R376); `count` stands in the place of
COUNT − 1. -/
def chainHeader (r : ChainRun) (row q count : Nat) : List Byte :=
  let d := r.desc
  let w0 : Word := cdId d ++ cdEpoch d ++ BitVec.ofNat 8 (cdHop d) ++ r.dom ++ cdTag d
  let w1 : Word := BitVec.ofNat 16 (cdRows d) ++ BitVec.ofNat 16 (cdCols d) ++ BitVec.ofNat 16 row ++
    BitVec.ofNat 4 q ++ b1 r.leg ++ BitVec.ofNat 11 (count - 1)
  leBytes 8 w0.toNat ++ leBytes 8 w1.toNat ++ List.replicate 16 0

def chId (p : Packet) : BitVec 16 := fld (payloadWord p 0) 48 16
def chEpoch (p : Packet) : BitVec 8 := fld (payloadWord p 0) 40 8
def chHop (p : Packet) : Nat := bits (payloadWord p 0) 39 32
def chDomain (p : Packet) : BitVec 16 := fld (payloadWord p 0) 16 16
def chTag (p : Packet) : BitVec 16 := fld (payloadWord p 0) 0 16
def chRows (p : Packet) : Nat := bits (payloadWord p 1) 63 48
def chCols (p : Packet) : Nat := bits (payloadWord p 1) 47 32
def chRow (p : Packet) : Nat := bits (payloadWord p 1) 31 16
def chQuarter (p : Packet) : Nat := bits (payloadWord p 1) 15 12
def chLegacy (p : Packet) : Bool := (payloadWord p 1).getLsbD 11
def chCount (p : Packet) : Nat := bits (payloadWord p 1) 10 0 + 1
/-- The values of a chunk packet. -/
def chValues (p : Packet) : List Half := words32 (p.payload.drop 32)

/-- Send a one-way packet of the span with its next TAG: a lost one is caught by its own rule, not by a response (R321,
R323). The lease's BYTES meter counts its payload (R382). -/
def sendOneWay (s : State) (typ : Nat) (dest : BitVec 24) (l cls : Nat) (payload : List Byte) : State :=
  let tag := Tab.get 0 s.net.tags 1
  let s := ownTag s tag l
  let s := sendPacket s (mkPacket typ dest (ownAddr s 1) cls tag 0 payload)
  let s := addMeters s l 0 0 payload.length
  { s with net := { s.net with tags := Tab.set 0 s.net.tags 1 (tag + 1) } }

/-- Return credits upstream: the chunks granted and freed since the start (R301). -/
def sendCredit (s : State) (r : ChainRun) : State :=
  sendOneWay s 0x0A (cdUp r.desc) r.lease r.cls (chainHeader r 0 0 (cdCredits r.desc + r.freed))

/-! ## Own terms (R293, R294) -/

/-- The binary32 value of a tile element from which its own term is formed: of one slot without the power of two of KSUM. -/
def ownTerm (s : State) (xs : List Nat) (polbin : Bool) (row col : Nat) : Val :=
  match xs with
  | [x] =>
    let v := getSlot s x
    collapse (planesAt s v row col) v.fr v.fc polbin
  | _ => combine (xs.map (fun x =>
      let v := getSlot s x
      (collapsePair (planesAt s v row col) v.fr v.fc polbin, ksumOf v))) false polbin

/-- The saturations that form an own term (R44). -/
def ownSats (s : State) (xs : List Nat) (polbin : Bool) (row col : Nat) : Nat :=
  match xs with
  | [x] => let v := getSlot s x; collapseSats (planesAt s v row col) v.fr v.fc polbin
  | _ => sumL (xs.map (fun x => let v := getSlot s x; pairSats (planesAt s v row col) v.fr v.fc polbin)) +
      sats polbin (combineSum (xs.map (fun x =>
        let v := getSlot s x
        (collapsePair (planesAt s v row col) v.fr v.fc polbin, ksumOf v))) false)

/-- An own chunk as it is read (R293, R303): of one slot its collapsed values with the power of two that KSUM gives, of several the values
of the combining read; and how many of the narrowings saturate (R44). -/
def ownChunk (s : State) (r : ChainRun) (row q : Nat) : Chunk × Nat :=
  let js := List.range (cdCount r.desc q)
  let col := fun (j : Nat) => cdCol0 r.desc + 1024 * q + j
  ({ row := row, quarter := q, exp := match r.slots with | [x] => ksumOf (getSlot s x) | _ => 0
     vals := js.map (fun j => enc32 r.leg (ownTerm s r.slots r.leg (cdRow0 r.desc + row) (col j))) },
   sumL (js.map (fun j => ownSats s r.slots r.leg (cdRow0 r.desc + row) (col j))))

/-- An own term of a chunk that has been read. -/
def termOf (c : Chunk) (j : Nat) : Val := (dec32 (c.vals.getD j 0)).map (fun y => exScale y (-c.exp))

/-- The values that a hop passes on for a chunk: with the upstream values, or alone at hop 0 (R294). -/
def chunkSum (r : ChainRun) (c : Chunk) (up : Option (List Half)) : List Half :=
  (List.range (cdCount r.desc c.quarter)).map (fun j => chainValue (up.map (fun l => l.getD j 0)) (termOf c j) r.leg)

/-- How many of a chunk's sums saturate (R44). -/
def chunkSats (r : ChainRun) (c : Chunk) (up : Option (List Half)) : Nat :=
  sumL ((List.range (cdCount r.desc c.quarter)).map (fun j =>
    sats r.leg (match up with | none => termOf c j | some l => vAdd (dec32 (l.getD j 0)) (termOf c j))))

/-! ## Runs -/

/-- Replace a run. -/
def putChain (s : State) (r : ChainRun) : State :=
  { s with chn := s.chn.map (fun x => if x.u = r.u then r else x) }

/-- The run of an instruction. -/
def getChain (s : State) (u : Nat) : Option ChainRun := s.chn.find? (fun r => r.u == u)

/-- Take a run out: its buffer entries are free and its slots settle. -/
def endChain (s : State) (r : ChainRun) : State :=
  settle { s with chn := s.chn.filter (fun x => x.u != r.u)
                  chnFree := s.chnFree + (if r.recv then cdCredits r.desc else 0) } r.slots

/-- Stop a run (R307). -/
def stopChain (s : State) (r : ChainRun) (ev : Nat) : State :=
  let s := endChain s r
  match getInstr s r.u with
  | some i => configFault (dropInstr (event s ev 1 (srcOf i)) i.u) i 32 i.a
  | none => s

/-- Release stops a lease's chains without a report (R309). -/
def dropChains (s : State) (l : Nat) : State :=
  (s.chn.filter (fun r => r.lease == l)).foldl endChain s

/-- Complete a run once the downstream party has returned a credit for every chunk (R305). A Pier grants nothing in advance:
its counts are of chunks staged (R279, R305; log entry 19). -/
def chainPoll (s : State) (r : ChainRun) : State :=
  if r.sent = cdTotal r.desc ∧ (cdLast r.desc ∨ r.grant ≠ 0) ∧ r.grant + r.sent ≤ r.credits then
    let st : Status := { sticky := stickyOf s r.slots }
    let s := endChain s r
    match getInstr s r.u with
    | some i => finish s i st (sigList i)
    | none => s
  else s

/-- The chain that a queued instruction names: of its descriptor as held, else as it stands in memory; none where it cannot be read. -/
def chainNamed (s : State) (i : SpanI) : Option (BitVec 16) :=
  if i.ready then some (cdId i.desc)
  else match (readVirt s (accI i) i.a.toNat 64).1 with
    | .ok bs => some (cdId (words64 bs))
    | .error _ => none

/-- Whether the descriptor of a queued chain instruction has still to come from another endpoint (R15, R16). -/
def nameComes (s : State) (i : SpanI) : Bool :=
  !i.ready && (match (readVirt s (accI i) i.a.toNat 64).1 with | .error .wait => true | _ => false)

/-- Whether a chain instruction may leave its queue: none of its lease before it names the same chain (R244). -/
def chainTurn (s : State) (i : SpanI) : Bool :=
  takes s i.lease && decide (i.stage = .queued) && isChain i.op &&
    !s.instrs.any (fun j => decide (j.lease = i.lease ∧ j.u < i.u ∧ j.stage = .queued) && isChain j.op &&
      (nameComes s j || ((chainNamed s j).isSome && chainNamed s j == chainNamed s i)))

/-- Whether a credit packet is for the hop of a run (R300, R301). -/
def creditFor (r : ChainRun) (p : Packet) : Bool :=
  decide (cdDown r.desc = p.src ∧ cdId r.desc = chId p ∧ cdEpoch r.desc = chEpoch p ∧ r.dom = chDomain p)

/-- Take a cumulative count; the first from a next hop is its grant. -/
def takeCredit (r : ChainRun) (p : Packet) : ChainRun :=
  let n := chCount p
  if n ≤ r.credits then r
  else { r with credits := n, grant := if r.grant = 0 ∧ ¬ cdLast r.desc then n else r.grant, idleBeats := 0 }

/-- Start a hop whose checks pass. One of no chunks completes once every earlier operation on its slots has (R306). -/
def beginChain (s : State) (i : SpanI) (d : List Word) : State :=
  let xs := slotsNamed i
  if cdTotal d = 0 then
    if xs.any (slotBehind s i) then s else finish s i { skipped := true, sticky := stickyOf s xs } (sigList i)
  else if isRecv i ∧ s.chnFree < cdCredits d then s
  else match xs.find? (fun x => decide ((getSlot s x).st = .spilled)) with
    | some x => askFill i.u s x
    | none =>
      let far := decide (cdLast d ∧ cdDown d ≠ ownAddr s 2)
      let r : ChainRun := { u := i.u, lease := i.lease, recv := isRecv i, desc := d, slots := xs, cls := i.cls, leg := i.leg, dom := i.dom
                            stage := if far then 1 + (drawNat s).1 % 4096 else 0 }
      let s := if far then (drawNat s).2 else s
      let r := (s.chnCred.filter (creditFor r)).foldl takeCredit r
      let s := { s with chn := s.chn ++ [r], chnCred := s.chnCred.filter (fun p => !creditFor r p), chnFree := s.chnFree - (if r.recv then cdCredits d else 0) }
      let s := activate (putInstr s { i with stage := .running }) xs
      if r.recv then sendCredit s r else s

/-- Let a hop whose descriptor has arrived start, once its slots allow (R110, R303). -/
def tryChain (s : State) (i : SpanI) : State :=
  if (slotsNamed i).any (fun x => slotWaits s i x || slotMoving (getSlot s x)) then s
  else match chainVerdict s i i.desc with
    | .ok => beginChain s i i.desc
    | bad => faultInstr s i bad

/-- CHAIN_START (R298, R303): the descriptor with its static checks, then the dynamic ones, the fills of R119 and the credits of R301. -/
def execChainStart (u : Nat) (s : State) : Result :=
  .next (match getInstr s u with
    | none => s
    | some i =>
      if ¬ chainTurn s i then s
      else if i.ready then tryChain s i
      else if i.a.toNat % 64 ≠ 0 then faultInstr s i (.config 3 i.a)
      else
        let r := readVirt s (accI i) i.a.toNat 64
        match r.1 with
        | .error e => faultRead s r.2 i e
        | .ok bs =>
          let m := armStatus r.2 i
          if statusWaits r.2 i then keepGot s m.2.2
          else match chainArrive m.2.2 i (words64 bs) m.1 with
          | .ok =>
            let i := { m.2.1 with ready := true, desc := words64 bs }
            tryChain (putInstr m.2.2 i) i
          | bad => faultInstr m.2.2 i bad)

/-! ## Own chunks (R303) -/

/-- Row and quarter of the k-th chunk, in row-major order (R299). -/
def chunkKey (d : List Word) (k : Nat) : Nat × Nat := (k / cdQuarters d, k % cdQuarters d)

/-- The read cycles of the next own chunk (R121, R147). -/
def chunkCycles (s : State) (r : ChainRun) : Nat :=
  let v := getSlot s (r.slots.headD 0)
  max 1 (cdiv (v.fr * v.fc * cdCount r.desc (chunkKey r.desc r.read).2) 1024 * r.slots.length)

/-- Whether a run may take a read cycle: at most 128 own chunks unused, 256 in all, and fewer than 64 where a DRAIN reads too. -/
def mayRead (s : State) (r : ChainRun) : Bool :=
  decide (r.read < cdTotal r.desc ∧ r.own.length < (if s.drn.isSome then 64 else 128)) &&
    decide (sumL (s.chn.map (fun x => x.own.length)) < 256)

/-- The run that takes a read cycle: of an Express lease first, then of the lowest issue sequence. -/
def chainReader (s : State) : Option ChainRun :=
  let rs := sortL (·.u) (s.chn.filter (mayRead s))
  (rs.find? (fun r => r.cls == 0)).or rs.head?

/-- The occurrence that a run's work is (R392). -/
def srcChain (s : State) (r : ChainRun) : SampleSrc := match getInstr s r.u with | some i => srcOf i | none => srcLease r.lease

/-- Add an upstream chunk that has its own term, and return its credit (R299, R301). -/
def joinChunk (s : State) (r : ChainRun) : State :=
  match r.up.findSome? (fun c => (r.own.find? (fun o => decide (o.row = c.row ∧ o.quarter = c.quarter))).map (fun o => (c, o))) with
  | none => putChain s r
  | some (c, o) =>
    let s := event s 0x021 (chunkSats r o (some c.vals)) (srcChain s r)
    let r := { r with up := r.up.erase c, own := r.own.erase o, ready := r.ready ++ [{ c with vals := chunkSum r o (some c.vals) }]
                      freed := r.freed + 1 }
    sendCredit (putChain s r) r

/-- Read the next own chunk of a run into the own-buffer (R303): its entries are checked as they are read (R105). -/
def readChunk (s : State) (r : ChainRun) : State :=
  let k := chunkKey r.desc r.read
  let n := cdCount r.desc k.2
  let s := r.slots.foldl (fun s x => scanEntries s x (cdRow0 r.desc + k.1) 1 (cdCol0 r.desc + 1024 * k.2) n (srcChain s r)) s
  let o := ownChunk s r k.1 k.2
  joinChunk (event s 0x021 o.2 (srcChain s r)) { r with cyc := 0, read := r.read + 1, own := r.own ++ [o.1] }

/-- One read cycle of the drain path goes to a chain (R303). -/
def chainCycle (s : State) : State :=
  match chainReader s with
  | none => s
  | some r =>
    if stopping s then s
    else
      let s := event s 0x041 1 (srcChain s r)
      if r.cyc + 1 < chunkCycles s r then putChain s { r with cyc := r.cyc + 1 } else readChunk s r

/-! ## Sending (R300, R301, R304, R309) -/

/-- The next chunk of a run that is ready: hop 0's first own one, or the first sum (R299). -/
def nextChunk (r : ChainRun) : Option Chunk :=
  if r.recv then r.ready.head? else r.own.head?.map (fun c => { c with vals := chunkSum r c none, exp := 0 })

/-- Bytes of the Pier's staging buffer that the tiles hold. -/
def stagedBytes (s : State) : Nat := sumL (s.pier.tiles.map (fun t => 4 * t.rows * t.cols))

/-- Whether a last hop holds a staging credit of its Pier (R279, R301): the own Pier's buffer can take its tile; of another's credits, those
that it had at the start and those returned have not all been used (log entry 19). -/
def stageRoom (s : State) (r : ChainRun) : Bool :=
  if cdDown r.desc != ownAddr s 2 then decide (r.sent < r.stage + r.credits)
  else s.pier.tiles.any (fun t => t.tag == cdTag r.desc && t.domain == r.dom) ||
    decide (stagedBytes s + 4 * cdRows r.desc * cdCols r.desc ≤ 2 ^ 24)

/-- Chunks of a run that are on their way. -/
def onTheWay (r : ChainRun) : Nat := r.sent - (r.credits - r.grant)

/-- Whether a run may send a chunk: it holds a credit, and the chunks on their way of all chains of a suspended lease stay within its stream
credit share (R301, R309; log entry 19). -/
def maySend (s : State) (r : ChainRun) : Bool :=
  (if cdLast r.desc then stageRoom s r else decide (r.sent < r.credits)) &&
    (lstate s r.lease ≠ .suspended ||
      decide (creditsHeld s r.lease + sumL ((s.chn.filter (fun x => x.lease == r.lease)).map onTheWay) < creditShare s r.lease))

/-- CHAIN_CHUNK_SEND (R300, R301, R304): one chunk, for one downstream credit. -/
def execChainChunkSend (u : Nat) (s : State) : Result :=
  .next (match getChain s u with
    | none => s
    | some r =>
      if stopping s ∨ ¬ maySend s r then s
      else match nextChunk r with
        | none => s
        | some c =>
          let s := sendOneWay s 0x09 (cdDown r.desc) r.lease r.cls (chainHeader r c.row c.quarter c.vals.length ++ halfBytes c.vals)
          let src := srcChain s r
          let s := if r.recv then s else event s 0x021 ((r.own.head?.map (fun o => chunkSats r o none)).getD 0) src
          let r := { r with sent := r.sent + 1, idleBeats := 0, ready := if r.recv then r.ready.drop 1 else r.ready
                            own := if r.recv then r.own else r.own.drop 1 }
          event (putChain s r) 0x080 1 src)

/-- The running `CHAIN.RECV` that a chunk is for (R302). -/
def chunkFor (s : State) (p : Packet) : Option ChainRun :=
  s.chn.find? (fun r => r.recv && decide (cdId r.desc = chId p ∧ cdEpoch r.desc = chEpoch p ∧ cdUp r.desc = p.src ∧
    r.dom = chDomain p ∧ chHop p + 1 = cdHop r.desc))

/-- Whether a matching chunk differs from the receiver's own region (R302). The sender is no last hop, so its UPD_TAG is
0 (R297). -/
def chunkBad (r : ChainRun) (p : Packet) : Bool :=
  decide (chRows p ≠ cdRows r.desc ∨ chCols p ≠ cdCols r.desc ∨ chTag p ≠ 0 ∨ chRow p ≥ cdRows r.desc ∨
    chQuarter p ≥ cdQuarters r.desc ∨ chCount p ≠ cdCount r.desc (chQuarter p)) ||
    (chLegacy p != r.leg)

/-- CHAIN_CHUNK (R302): added once its own term is there, discarded as a stray or a duplicate, or the stop of a mismatch. -/
def chainChunk (s : State) (p : Packet) : State :=
  match chunkFor s p with
  | none => event s 0x081 1 srcNone
  | some r =>
    let src := srcChain s r
    if r.got.contains (chRow p, chQuarter p) then sendCredit (event s 0x082 1 src) r
    else if chunkBad r p then stopChain s r 0x084
    else
      joinChunk s { r with got := r.got ++ [(chRow p, chQuarter p)], up := r.up ++ [{ row := chRow p, quarter := chQuarter p, vals := chValues p }], idleBeats := 0 }

/-- Whether the span takes chain packets: no stop, and it has an address (R315, R417). -/
def chainTakes (s : State) : Bool := !stopping s && addressed s

def execChainChunk (p : Packet) (s : State) : Result := .next (if chainTakes s then chainChunk s p else s)

/-- CHAIN_CREDIT (R301, R305): the cumulative count of a downstream party, and completion. A count that comes before its
hop has started waits for it (log entry 19). -/
def chainCredit (s : State) (p : Packet) : State :=
  match s.chn.find? (fun r => creditFor r p) with
  | none =>
    { s with chnCred := s.chnCred.filter (fun e => !(e.src == p.src && e.payload.take 8 == p.payload.take 8)) ++ [p] }
  | some r => let r' := takeCredit r p; chainPoll (putChain s r') r'

def execChainCredit (p : Packet) (s : State) : Result := .next (if chainTakes s then chainCredit s p else s)

/-- CHAIN_TIMEOUT (R305): more than TIMEOUT_BEATS complete beats without progress. -/
def execChainTimeout (u : Nat) (s : State) : Result :=
  .next (match getChain s u with
    | none => s
    | some r => if stopping s ∨ r.idleBeats < cdTimeout r.desc + 2 then s else stopChain s r 0x083)

/-- A beat edge counts against every running hop (R305). -/
def chainBeat (s : State) : State := { s with chn := s.chn.map (fun r => { r with idleBeats := r.idleBeats + 1 }) }

end Sys2Proof.Machine
end

