-- ==== Sys2Proof/Machine/PierMath.lean ====
section
/-! DEFINITION. The arithmetic of the Pier's update programs (R273, R276, R283 to R290): the fields of a group entry and
of a command, the step of each program on one parameter, and the bytes that an UPDATE reads and writes. -/

namespace Sys2Proof.Machine

/-! ## The group entry (R273) -/

def gWord (w : List Word) (off : Nat) : Word := w.getD (off / 8) 0
def gAddr (w : List Word) (off : Nat) : Nat := (gWord w off).toNat
def gHi (w : List Word) (off : Nat) : Half := fld (gWord w off) 32 32
def gLo (w : List Word) (off : Nat) : Half := fld (gWord w off) 0 32
def gIn (w : List Word) : Nat := (gHi w 0x60).toNat
def gOut (w : List Word) : Nat := (gLo w 0x60).toNat
def gProg (w : List Word) : Nat := bits (gWord w 0x98) 63 60
def gMaster (w : List Word) : Nat := bits (gWord w 0x98) 59 56
def gS0 (w : List Word) : Nat := bits (gWord w 0x98) 55 48
def gS1 (w : List Word) : Nat := bits (gWord w 0x98) 47 40
def gFwd (w : List Word) : Nat := bits (gWord w 0x98) 39 32
def gTrn (w : List Word) : Nat := bits (gWord w 0x98) 31 24
def gPcode (w : List Word) : Nat := bits (gWord w 0x98) 23 22
/-- *P*c of the copies and column sums. -/
def gP (w : List Word) : Nat := 32 <<< gPcode w
def gRot (w : List Word) : Nat := bits (gWord w 0x98) 21 20
def gFwdEn (w : List Word) : Bool := (gWord w 0x98).getLsbD 19
def gTrnEn (w : List Word) : Bool := (gWord w 0x98).getLsbD 18
def gCsEn (w : List Word) : Bool := (gWord w 0x98).getLsbD 17
def gFrozen (w : List Word) : Bool := (gWord w 0x98).getLsbD 16
def gStrict (w : List Word) : Bool := (gWord w 0x98).getLsbD 15
def gLegacy (w : List Word) : Bool := (gWord w 0x98).getLsbD 14
def gStepLoad (w : List Word) : Bool := (gWord w 0x98).getLsbD 13
def gValid (w : List Word) : Bool := (gWord w 0x98).getLsbD 12
def gReportDest (w : List Word) : BitVec 24 := fld (gWord w 0xA0) 24 24
def gDomain (w : List Word) : BitVec 16 := fld (gWord w 0xA0) 0 16
/-- Whether the program keeps two state tensors. -/
def gTwo (w : List Word) : Bool := decide (gProg w = 3 ∨ gProg w = 5)

/-! ## The command (R277) -/

def ucWord (c : UpdCmd) (k : Nat) : Word := c.words.toList.getD k 0
def ucOpc (c : UpdCmd) : Nat := bits (ucWord c 0) 63 56
def ucGroup (c : UpdCmd) : Nat := bits (ucWord c 0) 55 48
def ucTag (c : UpdCmd) : BitVec 16 := fld (ucWord c 0) 32 16
def ucCnt (c : UpdCmd) : BitVec 8 := fld (ucWord c 0) 0 8
def ucLr (c : UpdCmd) : Half := fld (ucWord c 1) 32 32
def ucDoneEn (c : UpdCmd) : Bool := (ucWord c 1).getLsbD 31
def ucDoneAddr (c : UpdCmd) : BitVec 24 := fld (ucWord c 1) 0 24
def ucRow0 (c : UpdCmd) : Nat := bits (ucWord c 2) 63 32
def ucCol0 (c : UpdCmd) : Nat := bits (ucWord c 2) 31 0
def ucRows (c : UpdCmd) : Nat := bits (ucWord c 3) 63 48
def ucCols (c : UpdCmd) : Nat := bits (ucWord c 3) 47 32
def ucGscale (c : UpdCmd) : Half := fld (ucWord c 3) 0 32
/-- Whether TOUCH marks tile row i. -/
def ucTouch (c : UpdCmd) (i : Nat) : Bool := (ucWord c (4 + i / 64)).getLsbD (i % 64)

/-! ## Addresses (R276) -/

def up64 (n : Nat) : Nat := 64 * cdiv n 64
def up512 (n : Nat) : Nat := 512 * cdiv n 512
/-- The 64-byte units that a run of bytes touches. -/
def unitsOf (a n : Nat) : List Nat :=
  if n = 0 then [] else (List.range ((a + n - 1) / 64 - a / 64 + 1)).map (fun k => a / 64 * 64 + 64 * k)
/-- A run in row r of an array: columns c on, n entries of w bytes. -/
def rowRun (base pitch r c n w : Nat) : Nat × Nat := (base + r * pitch + c * w, n * w)
def masterRun (w : List Word) (r c n : Nat) : Nat × Nat := rowRun (gAddr w 0x00) (up64 (4 * gOut w)) r c n 4
/-- Bytes of a state element, and whether the format has block scales. -/
def stBytes (f : Nat) : Nat := fmtWidth f / 8
def stScaledF (f : Nat) : Bool := decide (f = 1 ∨ f = 2)
def stateRun (w : List Word) (off f r c n : Nat) : Nat × Nat :=
  rowRun (gAddr w off) (up64 (stBytes f * gOut w)) r c n (stBytes f)
def stScaleRun (w : List Word) (off f r c n : Nat) : Nat × Nat :=
  if stScaledF f then rowRun (gAddr w off) (up64 (cdiv (gOut w) 32)) r (c / 32) (cdiv n 32) 1 else (0, 0)
def stepRun (w : List Word) (r : Nat) : Nat × Nat := (gAddr w 0xA8 + 4 * r, 4)

/-! ## Values with their saturations (R283) -/

/-- A computation that counts saturations (SAT32). -/
abbrev Sat (α : Type) := StateM Nat α

/-- `f` of R283. -/
def fS (polbin : Bool) (x : Val) : Sat Val := do
  if (match x with | some e => sat32 e polbin | none => false) then modify (· + 1)
  pure (narV polbin x)

def vNeg (x : Val) : Val := x.map exNeg
def vInt (n : Int) : Val := some (exInt n)

/-- `powi` of R283, over the bits of t. -/
def powiGo (polbin : Bool) : Nat → Nat → Val → Val → Sat Val
  | 0, _, r, _ => pure r
  | fuel + 1, t, r, x => do
    let r ← if t % 2 = 1 then fS polbin (vMul r x) else pure r
    let t := t / 2
    if t = 0 then pure r
    else
      let x ← fS polbin (vMul x x)
      powiGo polbin fuel t r x
def powi (polbin : Bool) (b : Val) (t : Nat) : Sat Val := powiGo polbin 65 t (some exOne) b

/-- `read_master` of R283. -/
def readMaster (polbin : Bool) (fmt : Nat) (e : Half) : Sat Val :=
  if fmt = 0 then pure (dec32 e)
  else
    let h := decodeVal 8 (bits e 15 0)
    let l := decodeVal 8 (bits e 31 16)
    if polbin then pure h else fS polbin (vAdd h l)

/-- Whether a master entry holds an infinity or a NaN (R49). -/
def masterSpecial (polbin : Bool) (fmt : Nat) (e : Half) : Bool :=
  if fmt = 0 then (dec32 e).isNone
  else specialCode 8 (bits e 15 0) || (!polbin && specialCode 8 (bits e 31 16))

/-- `write_master` of R283: the entry's bits, with the saturations of both halves (R44). -/
def writeMaster (polbin : Bool) (fmt : Nat) (e : Val) : Sat Half := do
  if fmt = 0 then
    let v ← fS polbin e
    pure (enc32 polbin v)
  else
    if (match e with | some x => (narrow x fBF16 polbin).2 | none => false) then modify (· + 1)
    let h := encodeVal 8 polbin e
    let d := vSub e (decodeVal 8 h)
    if !polbin && (match d with | some x => (narrow x fBF16 false).2 | none => false) then modify (· + 1)
    let l := if polbin then 0 else encodeVal 8 false d
    pure (BitVec.ofNat 32 (l * 65536 + h))

/-! ## The programs (R284 to R286) -/

/-- What an UPDATE fixes at its start. -/
structure UpdPar where
  prog : Nat
  polbin : Bool
  b1 : Val
  omb1 : Val
  b2 : Val
  omb2 : Val
  eps : Val
  mu : Val
  lr : Val
  wd : Val
  deriving DecidableEq, Repr

/-- The curve's value (R284). The sum with its quotient is narrowed once. -/
def curveValue (polbin : Bool) (c : List Word) (t : Nat) : Val :=
  let st := fun i => bits (c.getD i 0) 31 0
  let v := fun i => dec32 (fld (c.getD i 0) 32 32)
  if t ≤ st 0 then v 0
  else if st 63 ≤ t then v 63
  else
    let i := (List.range 63).foldl (fun m j => if st j ≤ t then j else m) 0
    let den : Val := vInt (st (i + 1) - st i : Nat)
    let num := vAdd (vMul (v i) den) (vMul (vSub (v (i + 1)) (v i)) (vInt (t - st i : Nat)))
    narV polbin (vDiv num den)

/-- The parameters of an UPDATE (R284). -/
def updPar (g : Group) (ovr : Bool) (c : UpdCmd) : UpdPar :=
  let w := g.words
  let p := gLegacy w
  { prog := gProg w, polbin := p, b1 := dec32 (gHi w 0x68), omb1 := dec32 (gLo w 0x68), b2 := dec32 (gHi w 0x70)
    omb2 := dec32 (gLo w 0x70), eps := dec32 (gHi w 0x78), mu := dec32 (gLo w 0x80)
    lr := if ovr then dec32 (gHi w 0x88) else if gProg w = 5 then dec32 (ucLr c)
      else if gAddr w 0x58 = 0 then dec32 (gHi w 0x80) else curveValue p g.curve (g.step.toNat + 1)
    wd := if ovr then dec32 (gLo w 0x88) else dec32 (gLo w 0x78) }

/-- One parameter of SGD or NESTEROV: the exact new weight and the new state. -/
def sgdStep (e : UpdPar) (w m g : Val) : Sat (Val × Val × Val) := do
  let m ← fS e.polbin (vAdd (vMul e.mu m) g)
  let n ← if e.prog = 2 then fS e.polbin (vAdd g (vMul e.mu m)) else pure m
  let d ← fS e.polbin (vAdd n (vMul e.wd w))
  pure (vSub w (vMul e.lr d), m, none)

/-- The square root of R285. That of a negative value, which the spec does not state, is a free value (DESIGN CHOICE, log entry 96). -/
def rootOf (x : Ex) : Val := if x.neg ∧ x.mag ≠ 0 then dec32 (Config.rootNeg x.mag x.exp) else some (exSqrt x)

/-- One parameter of ADAMW, with the corrections bc1 and bc2 of its t. -/
def adamwStep (e : UpdPar) (bc1 bc2 w m v g : Val) : Sat (Val × Val × Val) := do
  let m ← fS e.polbin (vAdd (vMul e.b1 m) (vMul e.omb1 g))
  let v ← fS e.polbin (vAdd (vMul e.b2 v) (vMul (vMul e.omb2 g) g))
  let mh ← fS e.polbin (vDiv m bc1)
  let vh ← fS e.polbin (vDiv v bc2)
  let den ← fS e.polbin (vAdd (vh.bind rootOf) e.eps)
  let q ← fS e.polbin (vDiv mh den)
  let d ← fS e.polbin (vAdd q (vMul e.wd w))
  pure (vSub w (vMul e.lr d), m, v)

/-- One parameter of SIGNM; a NaN moment stays NaN (R283). -/
def signmStep (e : UpdPar) (w m g : Val) : Sat (Val × Val × Val) := do
  let c ← fS e.polbin (vAdd (vMul e.b1 m) (vMul e.omb1 g))
  let u : Val := c.map (fun x => if x.mag = 0 then exZero else if x.neg then exInt (-1) else exOne)
  let d ← fS e.polbin (vAdd u (vMul e.wd w))
  let m ← fS e.polbin (vAdd (vMul e.b2 m) (vMul e.omb2 g))
  pure (vSub w (vMul e.lr d), m, none)

/-- One parameter's step at t (R285, R286). -/
def paramStep (e : UpdPar) (bc1 bc2 w m v g : Val) : Sat (Val × Val × Val) :=
  if e.prog = 3 ∨ e.prog = 5 then adamwStep e bc1 bc2 w m v g
  else if e.prog = 4 then signmStep e w m g else sgdStep e w m g

/-- `read_state` of R283: codes of one block with its scale byte. -/
def readState (f b : Nat) (codes : List Nat) : List Val :=
  codes.map (fun q => if stScaledF f then (decodeVal f q).map (fun x => exScale x ((b : Int) - 127)) else decodeVal f q)

/-- `write_state` of R283: the codes and the scale byte. -/
def writeState (polbin : Bool) (f : Nat) (vals : List Val) : Sat (List Nat × Nat) := do
  let r := convertBlock f none none polbin vals
  modify (· + r.sat)
  pure (r.codes, r.scale)

/-! ## One row of a region -/

/-- Little-endian entries of n bytes. -/
def entriesOf (n : Nat) (bs : List Byte) : List Nat :=
  (List.range (bs.length / n)).map (fun i => leNat ((bs.drop (n * i)).take n))

/-- The results of a row: master entries, state codes and scales by block, the parameters with a special input (R49; log entry 54), and
NaN masters. -/
structure RowOut where
  master : List Half := []
  s0 : List Nat := []
  sc0 : List Nat := []
  s1 : List Nat := []
  sc1 : List Nat := []
  special : Nat := 0
  nan : Nat := 0
  deriving DecidableEq, Repr

/-- Update one block of up to 32 parameters (R285): master entries, state codes with their scales, gradients. -/
def blockStep (w : List Word) (e : UpdPar) (bc1 bc2 : Val) (ms : List Half) (q0 : List Nat) (b0 : Nat) (q1 : List Nat)
    (b1 : Nat) (gs : List Val) : Sat RowOut := do
  let p := e.polbin
  let st0 := readState (gS0 w) b0 q0
  let st1 := if gTwo w then readState (gS1 w) b1 q1 else q0.map (fun _ => none)
  let outs ← ((((ms.zip st0).zip st1).zip gs).mapM (fun x => do
    let wv ← readMaster p (gMaster w) x.1.1.1
    let r ← paramStep e bc1 bc2 wv x.1.1.2 x.1.2 x.2
    let h ← writeMaster p (gMaster w) r.1
    pure (h, r)) : Sat (List (Half × Val × Val × Val)))
  let pad : List Val := List.replicate (32 - ms.length) (some exZero)
  let n0 ← writeState p (gS0 w) (outs.map (fun o => o.2.2.1) ++ (if stScaledF (gS0 w) then pad else []))
  let n1 ← if gTwo w then writeState p (gS1 w) (outs.map (fun o => o.2.2.2) ++ (if stScaledF (gS1 w) then pad else []))
    else pure ([], 0)
  pure { master := outs.map (·.1), s0 := n0.1, sc0 := [n0.2], s1 := n1.1, sc1 := if gTwo w then [n1.2] else []
         special := ((ms.zip (st0.zip st1)).filter (fun x =>
           masterSpecial p (gMaster w) x.1 || x.2.1.isNone || (gTwo w && x.2.2.isNone))).length
         nan := (outs.filter (fun o => o.2.1.isNone)).length }

/-- Join the results of blocks of a row. -/
def joinRow (a b : RowOut) : RowOut :=
  ⟨a.master ++ b.master, a.s0 ++ b.s0, a.sc0 ++ b.sc0, a.s1 ++ b.s1, a.sc1 ++ b.sc1, a.special + b.special, a.nan + b.nan⟩

/-- Update one row of a region at t: blocks of 32. -/
def rowStep (w : List Word) (e : UpdPar) (t : Nat) (ms : List Half) (q0 sc0 q1 sc1 : List Nat) (gs : List Val) :
    Sat RowOut := do
  let c1 ← if gTwo w then powi e.polbin e.b1 t else pure none
  let bc1 ← if gTwo w then fS e.polbin (vSub (some exOne) c1) else pure none
  let c2 ← if gTwo w then powi e.polbin e.b2 t else pure none
  let bc2 ← if gTwo w then fS e.polbin (vSub (some exOne) c2) else pure none
  let blocks ← ((List.range (cdiv ms.length 32)).mapM (fun k => do
    let cut := fun {α : Type} (l : List α) => (l.drop (32 * k)).take 32
    blockStep w e bc1 bc2 (cut ms) (cut q0) (sc0.getD k 127) (cut q1) (sc1.getD k 127) (cut gs)) : Sat (List RowOut))
  pure (blocks.foldl joinRow {})

/-! ## The copies (R288 to R290) -/

/-- `forward_value` of R289 for row k of the region (rows from a multiple of 32), column j: `wf` gives the decoded master
values, `rot` the rotation entries or factors. -/
def forwardValue (polbin : Bool) (mode : Nat) (rot : Nat → Nat → Val) (wf : Nat → Nat → Val) (k j : Nat) : Sat Val :=
  match mode with
  | 0 => pure (wf k j)
  | 3 => fS polbin (vMul (rot k 0) (wf k j))
  | _ => (List.range 32).foldlM (fun acc i => fS polbin (vAdd acc (vMul (rot (k % 32) i) (wf (k / 32 * 32 + i) j))))
      (some exZero)

/-- What one block of a copy writes, column sums apart, and counts: SAT32, PIER_SAT, PIER_NAN and SPECIAL_IN. -/
structure CopyOut where
  copy : List (Nat × List Byte) := []
  sums : List (Nat × List Byte) := []
  sat32 : Nat := 0
  sat : Nat := 0
  nan : Nat := 0
  special : Nat := 0
  deriving DecidableEq, Repr

/-- A converted block of a copy: scale, codes, saturations and NaNs (R38, R46). -/
def copyBlock (f : Nat) (k : Int) (polbin : Bool) (vals : List Val) : Converted :=
  convertBlock f none none polbin (vals.map (fun v => v.map (fun x => exScale x k)))

end Sys2Proof.Machine
end

