-- ==== Sys2Proof/Machine/Pier.lean ====
section
/-! DEFINITION. The Pier (R268 to R292, R178 to R180, R308, R414): its port, the repeat cache, the group table, staging,
and the commands of the update engine. -/

namespace Sys2Proof.Machine

/-! ## Reports and events (R292) -/

/-- Put a report in the Pier's own queue, or drop and count it (R205). -/
def pierReport (s : State) (cause : Byte) (lease : Nat) (dest : Option (BitVec 24)) (d0 d1 : Word) : State :=
  let q := s.pier
  let r : Report := { seq := q.repSeq + 1, cause := cause, lease := lease, thread := none, imprecise := false, halted := false,
                      engine := true, pc := 0, instr := 0, detail0 := d0, detail1 := d1, beat := q.beatCount, dest := dest }
  let q := { q with repSeq := q.repSeq + 1 }
  if q.repQ.length < 16 then { s with pier := { q with repQ := q.repQ ++ [r] } }
  else hwAdd { s with pier := { q with faultLost := satAdd32 q.faultLost 1 } } .pier 0x40 1

/-- A group's on-die entry. -/
def getGroup (s : State) (g : Nat) : Group := Tab.get {} s.pier.groups g
def setGroup (s : State) (g : Nat) (x : Group) : State :=
  { s with pier := { s.pier with groups := Tab.set {} s.pier.groups g x } }

/-! ## The port (R269, R270, R429, R469) -/

/-- The lane of a unit, by the five bits of PIER_PCMAP. -/
def laneOf (s : State) (a : Nat) : Nat :=
  sumL ((List.range 5).map (fun k => if a.testBit (bits s.pier.pcmap (8 * k + 5) (8 * k)) then 2 ^ k else 0))

/-- The lowest tag of a lane that is not outstanding; none where all 1,024 are. -/
def freeTag (s : State) (lane : Nat) : Option Nat :=
  (List.range 1024).find? (fun t => !s.pier.port.any (fun r => r.lane == lane && r.tag == t))

/-- Offer one request: placed where stack traffic runs, the lane has a tag, and no request of the other kind to the unit is
outstanding (R270, R430), no loop-back serves the port in the controller's place (R419), and the Pier is out of reset (R425). -/
def offer (s : State) (a : Nat) (write : Bool) (who : PortWho) : Option State :=
  if ¬ s.pins.stackReady ∨ ¬ partRuns s .pier ∨ looping s .pier 6 ∨ s.pier.port.any (fun r => r.addr == a && (r.write || write)) then none
  else (freeTag s (laneOf s a)).map (fun t =>
    { s with pier := { s.pier with port := s.pier.port ++ [⟨laneOf s a, t, a, write, who⟩] } })

/-- Offer a list of units in turn; those not placed remain. -/
def offers (write : Bool) (who : PortWho) : List Nat → State → List Nat × State
  | [], s => ([], s)
  | a :: t, s => match offer s a write who with
    | some s' => offers write who t s'
    | none => let r := offers write who t s; (a :: r.1, r.2)

def putCmd (s : State) (c : PierCmd) : State :=
  { s with pier := { s.pier with cmds := s.pier.cmds.map (fun x => if x.k = c.k then c else x) } }
def dropCmd (s : State) (k : Nat) : State :=
  { s with pier := { s.pier with cmds := s.pier.cmds.filter (fun x => x.k != k) } }
def getCmd (s : State) (k : Nat) : Option PierCmd := s.pier.cmds.find? (fun x => x.k == k)
def putJob (s : State) (j : PierJob) : State :=
  { s with pier := { s.pier with jobs := s.pier.jobs.map (fun x => if x.k = j.k then j else x) } }
def dropJob (s : State) (k : Nat) : State :=
  { s with pier := { s.pier with jobs := s.pier.jobs.filter (fun x => x.k != k) } }
def getJob (s : State) (k : Nat) : Option PierJob := s.pier.jobs.find? (fun x => x.k == k)

/-- Requests outstanding for a party. -/
def portBusy (s : State) (w : PortWho) : Bool := s.pier.port.any (fun r => r.who == w)

/-! ## The repeat cache (R178 to R180) -/

/-- The set of a line, by the low 13 bits of its number, and the ways of a set in service (DESIGN CHOICE, log entry 94: R178 gives the sets no
index). -/
def rcSet (a : Nat) : Nat := a / 512 % 8192
def waysOf (s : State) (x : Nat) : Nat := 16 - (s.pier.badWays.filter (fun w => w.1 == x)).length

/-- The line of a burst and domain. -/
def rcLine (s : State) (a : Nat) (d : BitVec 16) : Option RcLine :=
  s.pier.lines.find? (fun ln => ln.addr == a / 512 * 512 && ln.domain == d)

/-- Make a line the most recently used of its set. -/
def rcTouch (s : State) (ln : RcLine) : State :=
  { s with pier := { s.pier with lines := ln :: s.pier.lines.filter (fun x => x != ln) } }

/-- Allocate a line: in the lowest way of its set that holds none (DESIGN CHOICE, log entry 94: R179 names only the victim), else in that of
the least recently used line, which gives way. A way out of service takes none (R414). -/
def rcAlloc (s : State) (a : Nat) (d : BitVec 16) : State :=
  let base := a / 512 * 512
  let others := s.pier.lines.filter (fun x => !(x.addr == base && x.domain == d))
  let mine := others.filter (fun x => rcSet x.addr == rcSet base)
  let open_ := (List.range 16).filter (fun w => !s.pier.badWays.contains (rcSet base, w) && !mine.any (fun x => x.way == w))
  let put := fun (w : Nat) (keep : List RcLine) =>
    { s with pier := { s.pier with lines := ⟨base, d, memBytes s base 512, w⟩ :: keep } }
  match open_.head?, mine.getLast? with
  | some w, _ => put w others
  | none, some v => put v.way (others.filter (fun x => x != v))
  | none, none => s

/-- Write bytes of a copy: the memory, and every repeat-cache line that the write covers (R22). -/
def copyWrite (s : State) (ws : List (Nat × Byte)) : State :=
  let lines := s.pier.lines
  let s := memWrite s ws
  { s with pier := { s.pier with lines := lines.map (fun ln =>
      if ws.any (fun w => decide (w.1 / 512 = ln.addr / 512)) then { ln with bytes := memBytes s ln.addr 512 } else ln) } }

/-! ## Completed jobs -/

/-- The address, length and data of a READ or WRITE packet (R321). -/
def pkAddr (p : Packet) : Nat := bits (payloadWord p 0) 47 0
def pkLen (p : Packet) : Nat := bits (payloadWord p 0) 63 48

/-- Send the answer that a job was waiting for: a packet's, or the data of a burst of the span's own. The lines that the job read whole
become valid now (R21, R179; log entry 76). -/
def endJob (s : State) (j : PierJob) : State :=
  let s := dropJob s j.k
  match j.burst with
  | some b =>
    let s := if j.bad then s else j.lines.foldl (fun s a => rcAlloc s a b.domain) s
    match j.req with
    | some p => respond s p (ownAddr s 2) 0x04 (if j.bad then 2 else 0) (memBytes s (pkAddr p) (pkLen p))
    | none => burstServed s b.lease.toNat b.addr.toNat b.len (memBytes s b.addr.toNat b.len) j.bad
  | none => match j.req with
    | some p => respond s p (ownAddr s 2) 0x02 0 []
    | none => s

/-- Whom the lookups of a read are counted to: a burst of the span's own to the instruction of its stream (R392). -/
def readSrc (s : State) (b : ReadBurst) (p : Option Packet) : SampleSrc :=
  if p.isSome then srcNone
  else match burstAt s b.lease.toNat b.addr.toNat b.len with
    | some (c, n, _) => srcStream s b.lease.toNat (getStr s c) (xferOf (getStr s c) n)
    | none => srcLease b.lease.toNat

/-- The pieces of a read by line, and those whose line the cache does not hold. -/
def linesOf (b : ReadBurst) : List (Nat × Nat) := cuts512 b.addr.toNat b.len
def missesOf (s : State) (b : ReadBurst) : List (Nat × Nat) := (linesOf b).filter (fun c => (rcLine s c.1 b.domain).isNone)

/-- A job that is filling a line of a read's misses for the same domain (R21). -/
def fillOf (s : State) (b : ReadBurst) : Option Nat :=
  (s.pier.jobs.find? (fun j => j.burst.any (fun x => x.domain == b.domain) &&
    (missesOf s b).any (fun c => j.lines.contains (c.1 / 512 * 512)))).map (·.k)

/-- Look a read up, line by line (R179): a hit becomes the most recently used line of its set, a miss is to be read from the stack. -/
def lookupRead (s : State) (b : ReadBurst) (p : Option Packet) : State :=
  (linesOf b).foldl (fun s c => match rcLine s c.1 b.domain with
    | some ln => event (rcTouch s ln) 0x100 1 (readSrc s b p)
    | none => event s 0x101 1 (readSrc s b p)) s

/-- A read's job after its lookup: the units it asks of the stack, whole lines where they are to be allocated. -/
def readJob (s : State) (j : PierJob) (b : ReadBurst) : PierJob :=
  let ms := missesOf s b
  { j with wait := none, lines := if b.rep then ms.map (fun c => c.1 / 512 * 512) else []
           todo := (ms.map (fun c => if b.rep then unitsOf (c.1 / 512 * 512) 512 else unitsOf c.1 c.2)).flatten }

/-- Request what a job has left, and end it once nothing is outstanding. One that waits for a fill is looked up when that has ended. -/
def pumpJob (s : State) (k : Nat) : State :=
  match getJob s k with
  | none => s
  | some j =>
    let waits := j.wait.any (fun w => (getJob s w).isSome)
    let q := match j.wait, j.burst with
      | some _, some b => (readJob s j b, lookupRead s b j.req)
      | _, _ => (j, s)
    if waits then s
    else
      let r := offers q.1.burst.isNone (.job k) q.1.todo q.2
      let s := putJob r.2 { q.1 with todo := r.1 }
      if r.1 = [] ∧ ¬ portBusy s (.job k) then endJob s { q.1 with todo := [] } else s

/-- Enter a job in the Pier. -/
def newJob (s : State) (j : PierJob) : State :=
  let k := s.pier.nextCmd
  pumpJob { s with pier := { s.pier with nextCmd := k + 1, jobs := s.pier.jobs ++ [{ j with k := k }] } } k

/-- Whether an address range is not on the Pier's own stack (R15): another endpoint's, or beyond ADDR[39:6]. -/
def offStack (s : State) (a n : Nat) : Bool := isFar s a || isFar s (a + n - 1) || decide (2 ^ 40 < a + n)

/-- The bytes that the lines of a read give. -/
def lineBytes (s : State) (b : ReadBurst) : List Byte :=
  ((linesOf b).map (fun c => (((rcLine s c.1 b.domain).map (·.bytes)).getD []).drop (c.1 % 512) |>.take c.2)).flatten

/-- Serve a read burst (R179): a hit answers at once, a miss reads the stack; where another read is filling the line, it waits for that
(R21). -/
def serveRead (s : State) (b : ReadBurst) (p : Option Packet) : State :=
  if missesOf s b = [] then
    let bs := lineBytes s b
    let s := lookupRead s b p
    match p with
    | some p => respond s p (ownAddr s 2) 0x04 0 bs
    | none => burstServed s b.lease.toNat b.addr.toNat b.len bs false
  else
    let j : PierJob := { k := 0, burst := some b, req := p }
    match fillOf s b with
    | some w => newJob s { j with wait := some w }
    | none => newJob (lookupRead s b p) (readJob s j b)

/-- The bytes that a write replaces. -/
def oldBytes (s : State) (ws : List (Nat × Byte)) : List (Nat × Byte) := ws.map (fun w => (w.1, memByte s w.1))

/-- A write that reaches the Pier (R180): its bytes, the lines it overlaps, and its requests. -/
def serveWrite (s : State) (ws : List (Nat × Byte)) (a n : Nat) (p : Option Packet) : State :=
  newJob (memWrite s ws) { k := 0, req := p, todo := unitsOf a n, old := oldBytes s ws }

/-! ## Update commands: what they read and write -/

/-- The rows of a command's region that it updates, as offsets in the tile. -/
def touchedRows (w : List Word) (c : UpdCmd) : List Nat :=
  (List.range (ucRows c)).filter (fun i => gProg w != 5 || ucTouch c i)

/-- The rows whose copies it writes: those of sub-tiles that hold an updated row (log entry 20). -/
def copyRows (w : List Word) (c : UpdCmd) : List Nat :=
  let t := touchedRows w c
  (List.range (ucRows c)).filter (fun i => t.any (fun x => x / gP w == i / gP w))

/-- The runs of memory that an UPDATE reads. -/
def updReadRuns (w : List Word) (c : UpdCmd) : List (Nat × Nat) :=
  let r0 := ucRow0 c
  let c0 := ucCol0 c
  let n := ucCols c
  let rows := touchedRows w c
  let copy := if gFwdEn w ∨ gTrnEn w then (copyRows w c).filter (fun i => !rows.contains i) else []
  (rows.map (fun i => [masterRun w (r0 + i) c0 n, stateRun w 0x08 (gS0 w) (r0 + i) c0 n,
      stScaleRun w 0x10 (gS0 w) (r0 + i) c0 n] ++
    (if gTwo w then [stateRun w 0x18 (gS1 w) (r0 + i) c0 n, stScaleRun w 0x20 (gS1 w) (r0 + i) c0 n] else []) ++
    (if gProg w = 5 then [stepRun w (r0 + i)] else []))).flatten ++
  copy.map (fun i => masterRun w (r0 + i) c0 n) ++
  (if rows = [] then [] else if gRot w = 2 then [(gAddr w 0x50, 4096)]
   else if gRot w = 3 then [(gAddr w 0x50 + 4 * r0, 4 * ucRows c)] else [])

/-- One updated row: its writes, and its counts (SAT32, SPECIAL_IN, PIER_NAN). -/
def updRow (s : State) (g : Group) (ovr : Bool) (c : UpdCmd) (tile : List Half) (i : Nat) :
    List (Nat × List Byte) × Nat × Nat × Nat :=
  let w := g.words
  let e := updPar g ovr c
  let r := ucRow0 c + i
  let n := ucCols c
  let rd := fun (q : Nat × Nat) => memBytes s q.1 q.2
  let steps := leNat (rd (stepRun w r))
  let t := if gProg w = 5 then steps + 1 else g.step.toNat + 1
  let gs := (List.range n).map (fun j => vMul (dec32 (tile.getD (n * i + j) 0)) (dec32 (ucGscale c)))
  let prog : Sat RowOut := do
    let gs ← (gs.mapM (fS e.polbin) : Sat (List Val))
    rowStep w e t (words32 (rd (masterRun w r (ucCol0 c) n)))
      (entriesOf (stBytes (gS0 w)) (rd (stateRun w 0x08 (gS0 w) r (ucCol0 c) n)))
      ((rd (stScaleRun w 0x10 (gS0 w) r (ucCol0 c) n)).map (·.toNat))
      (if gTwo w then entriesOf (stBytes (gS1 w)) (rd (stateRun w 0x18 (gS1 w) r (ucCol0 c) n)) else [])
      (if gTwo w then (rd (stScaleRun w 0x20 (gS1 w) r (ucCol0 c) n)).map (·.toNat) else []) gs
  let o := prog.run 0
  let codes := fun (f : Nat) (l : List Nat) => (l.map (leBytes (stBytes f))).flatten
  let bytes := fun (l : List Nat) => l.map (fun x => BitVec.ofNat 8 x)
  ([((masterRun w r (ucCol0 c) n).1, halfBytes o.1.master),
    ((stateRun w 0x08 (gS0 w) r (ucCol0 c) n).1, codes (gS0 w) o.1.s0)] ++
   (if stScaledF (gS0 w) then [((stScaleRun w 0x10 (gS0 w) r (ucCol0 c) n).1, bytes o.1.sc0)] else []) ++
   (if gTwo w then [((stateRun w 0x18 (gS1 w) r (ucCol0 c) n).1, codes (gS1 w) o.1.s1)] else []) ++
   (if gTwo w ∧ stScaledF (gS1 w) then [((stScaleRun w 0x20 (gS1 w) r (ucCol0 c) n).1, bytes o.1.sc1)] else []) ++
   (if gProg w = 5 then [((stepRun w r).1, leBytes 4 (min (steps + 1) 0xFFFFFFFF))] else []),
   o.2, o.1.special, o.1.nan)

/-- Addressed bytes of runs. -/
def runBytes (rs : List (Nat × List Byte)) : List (Nat × Byte) := (rs.map (fun r => addrBytes r.1 r.2)).flatten

/-- A master entry of a region as stored. -/
def masterBits (s : State) (g : Group) (c : UpdCmd) (k j : Nat) : Half :=
  BitVec.ofNat 32 (leNat (memBytes s (masterRun g.words (ucRow0 c + k) (ucCol0 c + j) 1).1 4))

/-- What the copies of a region hold, by element: the decoded masters with the saturation of reading one, whether reading is an
operation on a special value, and the rotation entries or factors. -/
def copyMaster (s : State) (g : Group) (c : UpdCmd) (k j : Nat) : Val :=
  ((readMaster (gLegacy g.words) (gMaster g.words) (masterBits s g c k j)).run 0).1
def copySat (s : State) (g : Group) (c : UpdCmd) (k j : Nat) : Nat :=
  ((readMaster (gLegacy g.words) (gMaster g.words) (masterBits s g c k j)).run 0).2
def copySpecial (s : State) (g : Group) (c : UpdCmd) (k j : Nat) : Bool :=
  masterSpecial (gLegacy g.words) (gMaster g.words) (masterBits s g c k j)
def copyRot (s : State) (g : Group) (c : UpdCmd) (a i : Nat) : Val :=
  let w := g.words
  match gRot w with
  | 1 => some (exScale (hadamard a i) (-5))
  | 2 => dec32 (BitVec.ofNat 32 (leNat (memBytes s (gAddr w 0x50 + 4 * (32 * a + i)) 4)))
  | _ => dec32 (BitVec.ofNat 32 (leNat (memBytes s (gAddr w 0x50 + 4 * (ucRow0 c + a)) 4)))

/-- Whether forming a copy element from its master alone is arithmetic (R283: the sum of the two halves). -/
def readsSum (w : List Word) : Bool := decide (gMaster w ≠ 0) && !gLegacy w

/-- Whether forward element k, j is an operation on a special value (R49, R289). -/
def fwdSpecial (s : State) (g : Group) (c : UpdCmd) (k j : Nat) : Bool :=
  let w := g.words
  match gRot w with
  | 0 => readsSum w && copySpecial s g c k j
  | 3 => (copyRot s g c k 0).isNone || copySpecial s g c k j
  | _ => (List.range 32).any (fun i => (copyRot s g c (k % 32) i).isNone || copySpecial s g c (k / 32 * 32 + i) j)

/-- The blocks of a length, as first index and length. -/
def blocksOf (p n : Nat) : List (Nat × Nat) := (List.range (cdiv n p)).map (fun b => (b * p, min p (n - b * p)))

/-- The pairs of two ranges. -/
def pairsOf (m n : Nat) : List (Nat × Nat) := ((List.range m).map (fun i => (List.range n).map (fun j => (i, j)))).flatten

/-- One block of forward copy columns, with the column sums. -/
def fwdBlock (s : State) (g : Group) (c : UpdCmd) (k0 m : Nat) : CopyOut :=
  let w := g.words
  let p := gLegacy w
  let n := ucCols c
  let f := gFwd w
  let kt := (tscale (gHi w 0x90)).getD 0
  let cols := (List.range n).map (fun j =>
    let v := (((List.range m).mapM (fun i =>
      forwardValue p (gRot w) (copyRot s g c) (copyMaster s g c) (k0 + i) j) : Sat (List Val))).run 0
    (copyBlock f kt p v.1, v.2))
  let r := ucRow0 c + k0
  let code := fun i => packCodes (fmtWidth f) (cols.map (fun x => x.1.codes.getD i 0))
  let pitch := up512 (rowBytes f (gOut w))
  { copy := (List.range m).map (fun i => (gAddr w 0x28 + (r + i) * pitch + ucCol0 c * fmtWidth f / 8, code i)) ++
      (if fmtScaled f then
        [(gAddr w 0x30 + r / gP w * up512 (gOut w) + ucCol0 c, cols.map (fun x => BitVec.ofNat 8 x.1.scale))] else [])
    sums := if gCsEn w then
        [(gAddr w 0x48 + r / gP w * up64 (4 * gOut w) + 4 * ucCol0 c,
          (cols.map (fun x => leBytes 4 ((x.1.codes.foldl (fun a q => a + int8 q) (0 : Int)) % 2 ^ 32).toNat)).flatten)]
      else []
    sat32 := sumL (cols.map (·.2)) + sumL ((pairsOf m n).map (fun q => copySat s g c (k0 + q.1) q.2))
    sat := sumL (cols.map (fun x => x.1.sat)), nan := sumL (cols.map (fun x => x.1.nan))
    special := ((pairsOf m n).filter (fun q => fwdSpecial s g c (k0 + q.1) q.2)).length }

/-- One block of the transposed copy: *P*c columns of W, over rows k0 on (R130, R276; log entry 21). -/
def trnBlock (s : State) (g : Group) (c : UpdCmd) (k0 m j0 n : Nat) : CopyOut :=
  let w := g.words
  let p := gLegacy w
  let f := gTrn w
  let kt := (tscale (gLo w 0x90)).getD 0
  let rows := (List.range m).map (fun i =>
    copyBlock f kt p ((List.range n).map (fun j => copyMaster s g c (k0 + i) (j0 + j))))
  let k := ucRow0 c + k0
  let j := ucCol0 c + j0
  let pitch := up512 (rowBytes f (gIn w))
  { copy := (List.range n).map (fun q => (gAddr w 0x38 + (j + q) * pitch + k * fmtWidth f / 8,
        packCodes (fmtWidth f) (rows.map (fun x => x.codes.getD q 0)))) ++
      (if fmtScaled f then
        [(gAddr w 0x40 + j / gP w * up512 (gIn w) + k, rows.map (fun x => BitVec.ofNat 8 x.scale))] else [])
    sat32 := sumL ((pairsOf m n).map (fun q => copySat s g c (k0 + q.1) (j0 + q.2)))
    sat := sumL (rows.map (fun x => x.sat)), nan := sumL (rows.map (fun x => x.nan))
    special := ((pairsOf m n).filter (fun q => readsSum w && copySpecial s g c (k0 + q.1) (j0 + q.2))).length }

/-- Every copy block of a region. -/
def copyBlocks (s : State) (g : Group) (c : UpdCmd) : List CopyOut :=
  let w := g.words
  let rows := (blocksOf (gP w) (ucRows c)).filter (fun b => (copyRows w c).contains b.1)
  (if gFwdEn w then rows.map (fun b => fwdBlock s g c b.1 b.2) else []) ++
  (if gTrnEn w then (rows.map (fun b => (blocksOf (gP w) (ucCols c)).map (fun q =>
    trnBlock s g c b.1 b.2 q.1 q.2))).flatten else [])

/-- Form an UPDATE's results once its reads have returned (R285 to R290): masters and states, then the copies from the
masters as stored, then the write requests. The copies' writes update repeat-cache lines in place, every other write invalidates them
(R22, R180, R282). -/
def formUpdate (s : State) (x : PierCmd) : State :=
  let w := x.grp.words
  let c := x.cmd
  let src := srcLease c.lease.toNat
  let outs := (touchedRows w c).map (updRow s x.grp x.ovr c x.tile)
  let runs := (outs.map (·.1)).flatten
  let old := oldBytes s (runBytes runs)
  let s := memWrite s (runBytes runs)
  let copies := copyBlocks s x.grp c
  let sums := (copies.map (·.sums)).flatten
  let cruns := (copies.map (·.copy)).flatten
  let old := old ++ oldBytes s (runBytes (sums ++ cruns))
  let s := copyWrite (memWrite s (runBytes sums)) (runBytes cruns)
  let s := event s 0x021 (sumL (outs.map (·.2.1)) + sumL (copies.map (·.sat32))) src
  let s := event s 0x022 (sumL (outs.map (·.2.2.1)) + sumL (copies.map (·.special))) src
  let s := event s 0x104 (sumL (copies.map (·.sat))) src
  let s := event s 0x105 (sumL (outs.map (·.2.2.2)) + sumL (copies.map (·.nan))) src
  let s := event s 0x106 ((touchedRows w c).length * ucCols c) src
  let units := (((runs ++ sums ++ cruns).map (fun r => unitsOf r.1 r.2.length)).flatten).dedup
  putCmd s { x with formed := true, writes := units, old := old }

/-! ## Commands: acceptance, order, begin, completion -/

/-- Check 34 (R278): whether a command is refused. -/
def updRefused (s : State) (c : UpdCmd) : Bool :=
  let g := getGroup s (ucGroup c)
  let w := g.words
  let p := gP w
  let upd := decide (ucOpc c = 1)
  let pad := bits (ucWord c 0) 31 8 ≠ 0 ∨ bits (ucWord c 1) 30 24 ≠ 0 ∨ (ucOpc c ≠ 1 ∧ ucOpc c ≠ 2)
  let unusedUpd := (gProg w ≠ 5 ∧ (ucLr c ≠ 0 ∨ (List.range 4).any (fun k => ucWord c (4 + k) != 0)))
  let unusedEnd := ucTag c ≠ 0 ∨ ucLr c ≠ 0 ∨ (List.range 6).any (fun k => ucWord c (2 + k) != 0)
  let rowsOff := ucRows c % p ≠ 0 ∧ ucRow0 c + ucRows c ≠ gIn w
  let colsOff := ucCols c % p ≠ 0 ∧ ucCol0 c + ucCols c ≠ gOut w
  let lr := dec32 (ucLr c)
  decide pad || !g.valid || (upd && decide unusedUpd) || (!upd && decide unusedEnd) ||
    (c.domain != gDomain w) || (c.legacy != gLegacy w) ||
    (upd && (decide (gIn w < ucRow0 c + ucRows c ∨ gOut w < ucCol0 c + ucCols c ∨ 256 < ucRows c ∨ 4096 < ucCols c) ||
      decide (ucRow0 c % p ≠ 0 ∨ ucCol0 c % p ≠ 0 ∨ rowsOff ∨ colsOff) ||
      (dec32 (ucGscale c)).isNone ||
      (decide (gProg w = 5) && (match lr with | none => true | some x => x.neg && decide (x.mag ≠ 0))) ||
      s.pier.cmds.any (fun x => decide (ucOpc x.cmd = 1 ∧ ucTag x.cmd = ucTag c))))

/-- The answer to an update command (R321): accepted, or refused with check 34. -/
def updAnswer (s : State) (c : UpdCmd) (aux : BitVec 16) : State :=
  let r := mkPacket 0x0C c.src (ownAddr s 2) 1 c.tag aux []
  remember (sendPacket s r) 2 c.src c.tag r

/-- Whether an earlier command of the group holds one back (R279, R280): an unfinished STEP_END, or, for an UPDATE, an
unfinished UPDATE whose region overlaps; a STEP_END waits for every one. -/
def cmdWaits (s : State) (x : PierCmd) : Bool :=
  s.pier.cmds.any (fun y => decide (y.k < x.k ∧ ucGroup y.cmd = ucGroup x.cmd) &&
    (decide (ucOpc x.cmd = 2 ∨ ucOpc y.cmd = 2) ||
     decide (ucRow0 y.cmd < ucRow0 x.cmd + ucRows x.cmd ∧ ucRow0 x.cmd < ucRow0 y.cmd + ucRows y.cmd ∧
       ucCol0 y.cmd < ucCol0 x.cmd + ucCols x.cmd ∧ ucCol0 x.cmd < ucCol0 y.cmd + ucCols y.cmd)))

/-- The staged tile of an UPDATE (R279, R311). -/
def tileOf (s : State) (c : UpdCmd) : Option StagedTile :=
  s.pier.tiles.find? (fun t => t.tag == ucTag c && t.domain == c.domain && t.rows == ucRows c && t.cols == ucCols c &&
    decide (t.rows * t.cols ≤ t.count))

/-- Whether an UPDATE's tile is staged or it expects none. -/
def tileReady (s : State) (c : UpdCmd) : Bool := ucRows c == 0 || ucCols c == 0 || (tileOf s c).isSome

/-- Free the staging space of an UPDATE's tile; one of zero rows or columns has none. -/
def dropTile (s : State) (c : UpdCmd) : State :=
  { s with pier := { s.pier with tiles := s.pier.tiles.filter (fun t => tileOf s c != some t) } }

/-- A STEP_END whose turn has come: STEP advances and is written (R279, R275), or the frozen skip of R281. -/
def beginStepEnd (s : State) (x : PierCmd) : State :=
  let gi := ucGroup x.cmd
  let g := getGroup s gi
  if gFrozen g.words then
    let s := event s 0x103 1 (srcLease x.cmd.lease.toNat)
    if gStrict g.words then
      pierReport (dropCmd s x.k) 0x20 x.cmd.lease.toNat (some (gReportDest g.words)) (BitVec.ofNat 64 gi) 0
    else putCmd s { x with begun := true, formed := true }
  else
    let a := g.base + 256 * gi + 0xB0
    let s := setGroup s gi { g with step := g.step + 1 }
    putCmd (memPut s a 8 (g.step + 1).toNat) { x with begun := true, formed := true, writes := unitsOf a 8 }

/-- Move a command on: its step end, its requests, its results once its reads have returned. -/
def pumpCmd (s : State) (k : Nat) : State :=
  match getCmd s k with
  | none => s
  | some x =>
    let s := if ucOpc x.cmd = 2 ∧ ¬ x.begun ∧ ¬ cmdWaits s x ∧ (getGroup s (ucGroup x.cmd)).valid then beginStepEnd s x else s
    match getCmd s k with
    | none => s
    | some x =>
      let r := offers false (.cmd k) x.reads s
      let s := putCmd r.2 { x with reads := r.1 }
      let s := if x.begun ∧ ¬ x.formed ∧ r.1 = [] ∧ ¬ portBusy s (.cmd k) then formUpdate s { x with reads := [] } else s
      match getCmd s k with
      | none => s
      | some x => let q := offers true (.cmd k) x.writes s; putCmd q.2 { x with writes := q.1 }

/-- Move everything in the Pier on. -/
def pumpPier (s : State) : State :=
  let s := (s.pier.jobs.map (·.k)).foldl pumpJob s
  (s.pier.cmds.map (·.k)).foldl pumpCmd s

/-- The packets that brought an update command (R321). -/
def bringsCmd (c : UpdCmd) (p : Packet) : Bool := p.typ == 0x0B && p.src == c.src && p.tag == c.tag

/-- The stored answer of a command that was sent again (R323). -/
def cmdAnswered (s : State) (c : UpdCmd) : Option Packet :=
  if s.net.rx.any (fun p => bringsCmd c p && p.retry) then
    (s.abut.dedup.find? (fun d => d.ep == 2 && d.src == c.src && d.tag == c.tag)).map (·.resp)
  else none

/-- Discard the staged chunks of an accepted UPDATE's tag whose domain is not its group's, as strays (R311). -/
def dropAlien (s : State) (c : UpdCmd) : State :=
  let bad := fun (t : StagedTile) => decide (ucOpc c = 1) && t.tag == ucTag c && t.domain != c.domain
  event { s with pier := { s.pier with tiles := s.pier.tiles.filter (fun t => !bad t) } } 0x081
    (sumL ((s.pier.tiles.filter bad).map (fun t => t.chunks.length))) srcNone

/-- Whether the Pier takes packets of the fabric: out of reset, addressed, and no stop (R315, R417, R425). -/
def pierTakes (s : State) : Bool := !stopping s && addressed s && partRuns s .pier

/-- Judge a command that has reached the Pier (R278): held back by link credits while 64 wait, else refused or accepted. One that was sent
again and has been judged is answered again (R323). -/
def acceptCmd (s : State) (c : UpdCmd) : State :=
  let s1 := { s with net := { s.net with rx := s.net.rx.filter (fun p => !bringsCmd c p) } }
  if ¬ pierTakes s then s
  else if (cmdAnswered s c).isSome then (cmdAnswered s c).toList.foldl sendPacket s1
  else if 64 ≤ s.pier.cmds.length then s
  else if updRefused s c then updAnswer s1 c 34
  else
    let k := s.pier.nextCmd
    let s := dropAlien s1 c
    let s := { s with pier := { s.pier with nextCmd := k + 1, cmds := s.pier.cmds ++ [{ k := k, cmd := c }] } }
    pumpCmd (updAnswer s c 0) k

/-- UPDATE (R278): an update command reaches the Pier. -/
def execUpdate (c : UpdCmd) (s : State) : Result := .next (acceptCmd s c)
/-- STEP_END (R278, R279). -/
def execStepEnd (c : UpdCmd) (s : State) : Result := .next (acceptCmd s c)

/-- UPDATE_BEGIN (R280, R281): an UPDATE whose tile is staged and whose turn has come takes its group's entry and begins. -/
def execUpdateBegin (k : Nat) (s : State) : Result :=
  .next (match getCmd s k with
    | none => s
    | some x =>
      let gi := ucGroup x.cmd
      let g := getGroup s gi
      if ucOpc x.cmd ≠ 1 ∨ x.begun ∨ ¬ tileReady s x.cmd ∨ cmdWaits s x ∨ ¬ g.valid then s
      else if gFrozen g.words then
        let s := event (dropTile s x.cmd) 0x103 1 (srcLease x.cmd.lease.toNat)
        if gStrict g.words then
          pumpPier (pierReport (dropCmd s k) 0x20 x.cmd.lease.toNat (some (gReportDest g.words)) (BitVec.ofNat 64 gi)
            ((ucTag x.cmd).setWidth 64))
        else putCmd s { x with begun := true, formed := true }
      else
        let n := ucRows x.cmd * ucCols x.cmd
        let tile := match tileOf s x.cmd with
          | some t => (List.range n).map (fun q => Tab.get 0 t.vals q)
          | none => []
        let reads := if n = 0 then [] else
          (((updReadRuns g.words x.cmd).map (fun r => unitsOf r.1 r.2)).flatten).dedup
        pumpCmd (putCmd (dropTile s x.cmd)
          { x with begun := true, grp := g, ovr := s.pier.override, tile := tile, reads := reads, formed := decide (n = 0) }) k)

/-- Signal DONE_CNT at DONE_ADDR (R282, R336). -/
def doneSignal (s : State) (c : UpdCmd) : State :=
  if ¬ ucDoneEn c ∨ stopping s then s
  else
    let w : Word := (0 : BitVec 32) ++ c.domain ++ (0 : BitVec 4) ++ c.lease ++ ucCnt c
    sendRequest s 2 0x05 (ucDoneAddr c) 1 0 (leBytes 8 1 ++ leBytes 8 w.toNat) (.signal (ucGroup c))

/-- Complete a begun command once its writes are acknowledged; later commands may then move. -/
def completeCmd (s : State) (k opc : Nat) : State :=
  match getCmd s k with
  | none => s
  | some x =>
    if ucOpc x.cmd ≠ opc ∨ ¬ x.begun ∨ ¬ x.formed ∨ x.writes ≠ [] ∨ portBusy s (.cmd k) then s
    else pumpPier (doneSignal (dropCmd s k) x.cmd)

/-- UPDATE_COMPLETE (R282). -/
def execUpdateComplete (k : Nat) (s : State) : Result := .next (completeCmd s k 1)
/-- STEP_END_COMPLETE (R279, R282). -/
def execStepEndComplete (k : Nat) (s : State) : Result := .next (completeCmd s k 2)

/-! ## Staging (R279, R302, R308, R311) -/

/-- The credit that tells a last hop how many of its chunks are staged (R305). -/
def stageCredit (s : State) (p : Packet) (n : Nat) : State :=
  let w0 : Word := chId p ++ chEpoch p ++ BitVec.ofNat 8 0 ++ chDomain p ++ chTag p
  let w1 : Word := BitVec.ofNat 64 ((n + 2047) % 2048)
  sendPacket s (mkPacket 0x0A p.src (ownAddr s 2) p.cls.toNat p.tag 0 (leBytes 8 w0.toNat ++ leBytes 8 w1.toNat ++
    List.replicate 16 0))

/-- Whether an epoch is newer than another, modulo 256 (R308). -/
def newerEpoch (a b : BitVec 8) : Bool := a != b && decide ((a - b).toNat < 128)

/-- Whether a chunk's shape stands in its own tile. -/
def stageShape (p : Packet) : Bool :=
  decide (chRow p < chRows p ∧ chRows p ≤ 256 ∧ chCols p ≤ 4096 ∧ 1024 * chQuarter p < chCols p ∧
    chCount p = min 1024 (chCols p - 1024 * chQuarter p) ∧ (chValues p).length = chCount p)

/-- Put a chunk's values into its tile. -/
def stageInto (t : StagedTile) (p : Packet) : StagedTile :=
  let vs := chValues p
  { t with vals := (List.range vs.length).foldl (fun m j =>
             Tab.set 0 m (chRow p * chCols p + 1024 * chQuarter p + j) (vs.getD j 0)) t.vals
           chunks := t.chunks ++ [(chRow p, chQuarter p)], count := t.count + vs.length }

/-- Stage a chunk in a tile of its own. -/
def stageNew (s : State) (p : Packet) : State :=
  if 2 ^ 24 < stagedBytes s + 4 * chRows p * chCols p then s
  else
    let t := stageInto { tag := chTag p, domain := chDomain p, epoch := chEpoch p, chain := chId p, src := p.src,
                         rows := chRows p, cols := chCols p } p
    stageCredit { s with pier := { s.pier with tiles := s.pier.tiles ++ [t] } } p t.chunks.length

/-- Whether a chunk's domain may be that of its group (R311): of the group whose UPDATE waits for the tag, else of any valid group
(log entry 77). -/
def domainFits (s : State) (p : Packet) : Bool :=
  match s.pier.cmds.find? (fun x => ucOpc x.cmd == 1 && ucTag x.cmd == chTag p && !x.begun) with
  | some x => x.cmd.domain == chDomain p
  | none => s.pier.groups.any (fun g => g.2.valid && gDomain g.2.words == chDomain p)

/-- The record of a tile to be discarded, and whether a chunk is of it. -/
def dupOf (p : Packet) : DupTile := ⟨chTag p, chDomain p, chEpoch p, chId p, p.src, chRows p * cdiv (chCols p) 1024⟩
def dupHolds (p : Packet) (d : DupTile) : Bool := { d with left := 0 } == { dupOf p with left := 0 }

/-- Discard one chunk of a tile that is being discarded; after its last the tile is forgotten. -/
def dupNext (s : State) (p : Packet) : State :=
  { s with pier := { s.pier with dups :=
      (s.pier.dups.map (fun d => if dupHolds p d then { d with left := d.left - 1 } else d)).filter (fun d => d.left != 0) } }

/-- A chunk of a last hop reaches the Pier: staged in its tile; of an older run of a staged tile's chain a stray (R302, R308); of any other
tile whose tag is staged and not consumed discarded with the whole tile and reported once (R279). -/
def stageChunk (s : State) (p : Packet) : State :=
  let stray := event s 0x081 1 srcNone
  if ¬ stageShape p ∨ ¬ domainFits s p then stray
  else if s.pier.dups.any (dupHolds p) then dupNext s p
  else match s.pier.tiles.find? (fun t => t.tag == chTag p) with
    | none => stageNew s p
    | some t =>
      let put := fun (t' : StagedTile) =>
        { s with pier := { s.pier with tiles := s.pier.tiles.map (fun x => if x = t then t' else x) } }
      if t.domain = chDomain p ∧ t.epoch = chEpoch p ∧ t.src = p.src ∧ t.chain = chId p then
        if t.rows ≠ chRows p ∨ t.cols ≠ chCols p then stray
        else if t.chunks.contains (chRow p, chQuarter p) then stageCredit (event s 0x082 1 srcNone) p t.chunks.length
        else let t' := stageInto t p; stageCredit (put t') p t'.chunks.length
      else if t.domain = chDomain p ∧ t.count < t.rows * t.cols ∧ newerEpoch (chEpoch p) t.epoch then
        stageNew { s with pier := { s.pier with tiles := s.pier.tiles.filter (fun x => x != t) } } p
      else if t.domain = chDomain p ∧ t.src = p.src ∧ t.chain = chId p ∧ newerEpoch t.epoch (chEpoch p) then stray
      else pierReport (dupNext { s with pier := { s.pier with dups := s.pier.dups ++ [dupOf p] } } p) 0x23 0 none
        ((chTag p).setWidth 64) (p.src.setWidth 64)

/-- PIER_CHUNK_STAGE (R279, R311). -/
def execPierChunkStage (p : Packet) (s : State) : Result := .next (if pierTakes s then stageChunk s p else s)

/-! ## Traffic at the Pier -/

/-- PIER_READ_BURST (R179). -/
def execPierReadBurst (b : ReadBurst) (s : State) : Result :=
  .next (if offStack s b.addr.toNat b.len ∨ ¬ partRuns s .pier then s else serveRead s b none)

/-- PIER_WRITE (R180): the bytes whose mask bit is set. -/
def execPierWrite (a : BitVec 48) (data : List (BitVec 8)) (mask : List Bool) (s : State) : Result :=
  let ws := ((addrBytes a.toNat data).zip mask).filterMap (fun x => if x.2 then some x.1 else none)
  .next (if offStack s a.toNat data.length ∨ ¬ partRuns s .pier then s else serveWrite s ws a.toNat data.length none)

/-- A party has no use for its outstanding requests any more; the controller still owes their responses (R270). -/
def orphan (s : State) (p : PortWho → Bool) : State :=
  { s with pier := { s.pier with port := s.pier.port.map (fun r => if p r.who then { r with who := .gone } else r) } }

/-- Stop an update command on an uncorrectable read (R271). -/
def stopCmd (s : State) (k a : Nat) : State :=
  match getCmd s k with
  | none => s
  | some x =>
    pierReport (orphan (dropCmd s k) (fun w => w == .cmd k))
      0x22 x.cmd.lease.toNat (some (gReportDest x.grp.words)) (BitVec.ofNat 64 a)
      (BitVec.ofNat 64 (ucGroup x.cmd * 65536 + (ucTag x.cmd).toNat))

/-- A read of a party has come back: clean, corrected, or uncorrectable (R271). -/
def readBack (s : State) (r : PortReq) (err : Nat) : State :=
  let s := if err = 1 then event s 0x102 1 srcNone else s
  let rest := s.memBad.filter (fun u => u != r.addr / 64)
  let s := { s with memBad := if 2 ≤ err then rest ++ [r.addr / 64] else rest }
  match r.who with
  | .gone => s
  | .cmd k => if 2 ≤ err then stopCmd s k r.addr else s
  | .job k => match getJob s k with
    | some j => if 2 ≤ err then putJob s { j with bad := true } else s
    | none => s

/-- PIER_READ_RESPONSE (R271, R429): a tag that is not outstanding is discarded and counted by PIER_CE. -/
def execPierReadResponse (lane : Fin 32) (tag : BitVec 10) (err : BitVec 2) (s : State) : Result :=
  .next (match s.pier.port.find? (fun r => r.lane == lane.val && r.tag == tag.toNat && !r.write) with
    | none => event s 0x102 1 srcNone
    | some r =>
      pumpPier (readBack { s with pier := { s.pier with port := s.pier.port.filter (fun x => x != r) } } r err.toNat))

/-- PIER_WRITE_ACK (R270, R429). -/
def execPierWriteAck (lane : Fin 32) (tag : BitVec 10) (s : State) : Result :=
  .next (match s.pier.port.find? (fun r => r.lane == lane.val && r.tag == tag.toNat && r.write) with
    | none => event s 0x102 1 srcNone
    | some r => pumpPier { s with pier := { s.pier with port := s.pier.port.filter (fun x => x != r) } })

/-! ## The group table (R272 to R275, R284) -/

/-- Whether a binary32 is finite. -/
def finite32 (h : Half) : Bool := (dec32 h).isSome
/-- Whether a binary32 lies in 0 ≤ x < 1. -/
def unit32 (h : Half) : Bool :=
  match dec32 h with | some x => (!x.neg || decide (x.mag = 0)) && exLt x exOne | none => false
/-- Whether an address breaks its alignment or lies beyond the stack (R15, R274). -/
def badAddr (s : State) (a al : Nat) : Bool := decide (a % al ≠ 0) || offStack s a 1
/-- An address field: 0 where unused, else aligned and on the stack. -/
def addrField (s : State) (w : List Word) (off al : Nat) (used : Bool) : Nat × Bool :=
  (off, if used then badAddr s (gAddr w off) al else gWord w off != 0)
/-- A binary32 field: 0 where unused, else finite. -/
def fltField (off : Nat) (h : Half) (used : Bool) : Nat × Bool := (off, if used then !finite32 h else h != 0)
def stFmtOk (f : Nat) : Bool := decide (f = 1 ∨ f = 2 ∨ f = 8 ∨ f = 9)
def cpFmtOk (f : Nat) : Bool := decide (f = 1 ∨ (3 ≤ f ∧ f ≤ 6) ∨ f = 8)

/-- The fields of an entry in ascending offset, each with whether it fails R274. -/
def groupChecks (s : State) (w : List Word) : List (Nat × Bool) :=
  let pr := gProg w
  let two := gTwo w
  let mom := decide (pr = 1 ∨ pr = 2)
  let bet := !mom
  let fwd := gFwdEn w
  let trn := gTrnEn w
  let codes := decide (pr = 0 ∨ 5 < pr ∨ 1 < gMaster w ∨ gPcode w = 3) || !stFmtOk (gS0 w) ||
    (if two then !stFmtOk (gS1 w) else decide (gS1 w ≠ 0)) ||
    (if fwd then !cpFmtOk (gFwd w) else decide (gFwd w ≠ 0)) || (if trn then !cpFmtOk (gTrn w) else decide (gTrn w ≠ 0)) ||
    (decide (gRot w ≠ 0) && (!fwd || decide (gIn w % 32 ≠ 0))) || (gCsEn w && (!fwd || decide (gFwd w ≠ 6))) ||
    (gLegacy w && !s.pier.polbin) || decide (bits (gWord w 0x98) 11 0 ≠ 0)
  let lrUsed := decide (gAddr w 0x58 = 0 ∧ pr ≠ 5)
  let ts := fun (h : Half) (en : Bool) => if en then (tscale h).isNone else h != 0
  let adr := addrField s w
  [adr 0x00 64 true, adr 0x08 64 true, adr 0x10 64 (stScaledF (gS0 w)), adr 0x18 64 two,
   adr 0x20 64 (two && stScaledF (gS1 w)), adr 0x28 512 fwd, adr 0x30 512 (fwd && fmtScaled (gFwd w)),
   adr 0x38 512 trn, adr 0x40 512 (trn && fmtScaled (gTrn w)), adr 0x48 64 (gCsEn w),
   adr 0x50 64 (decide (2 ≤ gRot w)), adr 0x58 64 (decide (pr ≠ 5)),
   (0x60, decide (gIn w = 0 ∨ gOut w = 0)),
   (0x68, (fltField 0 (gHi w 0x68) bet).2 || (fltField 0 (gLo w 0x68) bet).2 || (bet && !unit32 (gHi w 0x68))),
   (0x70, (fltField 0 (gHi w 0x70) bet).2 || (fltField 0 (gLo w 0x70) bet).2 || (bet && !unit32 (gHi w 0x70))),
   (0x78, (fltField 0 (gHi w 0x78) two).2 || !finite32 (gLo w 0x78) ||
      (two && (match dec32 (gHi w 0x78) with | some x => x.neg || decide (x.mag = 0) | none => true))),
   (0x80, (fltField 0 (gHi w 0x80) lrUsed).2 || (fltField 0 (gLo w 0x80) mom).2),
   (0x88, !finite32 (gHi w 0x88) || !finite32 (gLo w 0x88)), (0x90, ts (gHi w 0x90) fwd || ts (gLo w 0x90) trn),
   (0x98, codes), (0xA0, decide (bits (gWord w 0xA0) 63 48 ≠ 0 ∨ bits (gWord w 0xA0) 23 16 ≠ 0)),
   (0xA8, if pr = 5 then decide (gAddr w 0xA8 = 0) || badAddr s (gAddr w 0xA8) 64 else gWord w 0xA8 != 0)] ++
  (List.range 9).map (fun k => (0xB8 + 8 * k, gWord w (0xB8 + 8 * k) != 0))

/-- The first breakpoint of a curve that breaks R284, as the detail of a PIER_TABLE report. -/
def curveBad (c : List Word) : Option Nat :=
  ((List.range 64).find? (fun i => !finite32 (fld (c.getD i 0) 32 32) ||
    (decide (0 < i) && decide (bits (c.getD i 0) 31 0 ≤ bits (c.getD (i - 1) 0) 31 0)))).map (fun i => 0x200 + 8 * i)

/-- What a reload of an entry finds: the detail of its refusal, or the entry. -/
def checkGroup (s : State) (g : Nat) : Except Nat Group :=
  let base := s.pier.groupBase.toNat + 256 * g
  let w := words64 (memBytes s base 256)
  let old := getGroup s g
  let curve := if gAddr w 0x58 = 0 ∨ gProg w = 5 then [] else words64 (memBytes s (gAddr w 0x58) 512)
  if poisoned s base 256 ∨ offStack s base 256 then .error 0xFFFF
  else if ¬ gValid w then .ok { valid := false, words := w, step := old.step, base := s.pier.groupBase.toNat }
  else match (groupChecks s w).find? (fun c => c.2) with
    | some c => .error c.1
    | none =>
      let fresh : Group := { valid := true, words := w, curve := curve, base := s.pier.groupBase.toNat
                             step := if gStepLoad w ∨ ¬ old.valid then gWord w 0xB0 else old.step }
      if curve = [] then .ok fresh
      else if poisoned s (gAddr w 0x58) 512 then .error 0xFFFF
      else match curveBad curve with
        | some d => .error d
        | none => .ok fresh

/-- A write of PIER_GROUP_RELOAD (R469): REFUSED is W1C; a write starts a reload unless one runs. -/
def reloadWrite (s : State) (v : Word) : State :=
  let q := s.pier
  let q := if (w1c s .pier 0x40010 v).getLsbD 30 then { q with reloadRefused := false } else q
  { s with pier := if q.reloadBusy then q else { q with reloadBusy := true, reloadGroup := fld v 0 8 } }

/-- GROUP_RELOAD_DONE (R272, R274, R275). -/
def execGroupReloadDone (s : State) : Result :=
  .next (if ¬ s.pier.reloadBusy then s
    else
      let g := s.pier.reloadGroup.toNat
      let s1 := { s with pier := { s.pier with reloadBusy := false } }
      match checkGroup s g with
      | .ok x => pumpPier (setGroup s1 g x)
      | .error d => pierReport (hwSet { s1 with pier := { s1.pier with reloadRefused := true } } .pier 0x40010 (2 ^ 30)) 0x21 0 none
          (BitVec.ofNat 64 g) (BitVec.ofNat 64 d))

/-- A write of REPCACHE_FLUSH (R469): ignored while a flush runs. -/
def flushWrite (s : State) (v : Word) : State :=
  if s.pier.flushBusy then s else { s with pier := { s.pier with flushBusy := true, flushDomain := fld v 0 16 } }

/-- REPCACHE_FLUSH_DONE (R180): every line of the domain is invalid. -/
def execRepcacheFlushDone (s : State) : Result :=
  .next (if s.pier.flushBusy then
      { s with pier := { s.pier with flushBusy := false
                                     lines := s.pier.lines.filter (fun ln => ln.domain != s.pier.flushDomain) } }
    else s)

/-- The bit numbers of a PIER_PCMAP value. -/
def pcSels (v : Word) : List Nat := (List.range 5).map (fun k => bits v (8 * k + 5) (8 * k))

/-- A write of PIER_PCMAP (R469): ignored whole where locked, where a bit lies outside 6 to 39, or where one is named
twice. -/
def pcmapWrite (s : State) (v : Word) : State :=
  let l := pcSels v
  if s.pier.pcmapLocked ∨ l.any (fun b => decide (b < 6 ∨ 39 < b)) ∨ ¬ decide l.Nodup then s
  else { s with pier := { s.pier with pcmap := v &&& 0x0000003F3F3F3F3F } }

/-- Whether the Pier applies host register writes (R451): from the end of its phase FUSE. -/
def pierWrites (s : State) : Bool := partWrites s .pier

def execPierGroupReload (v : BitVec 64) (s : State) : Result := .next (if pierWrites s then reloadWrite s v else s)
def execRepcacheFlush (v : BitVec 64) (s : State) : Result := .next (if pierWrites s then flushWrite s v else s)
def execPierPcmap (v : BitVec 64) (s : State) : Result := .next (if pierWrites s then pcmapWrite s v else s)

/-! ## The stack (R430, R416) and the cache's banks (R414) -/

/-- The Pier sees STACK_READY at 1: the mapping is locked and stack traffic starts (R430, R469). -/
def stackStarts (s : State) : State := pumpPier { s with pier := { s.pier with readySeen := true, pcmapLocked := true } }

/-- STACK_READY (R430): a rise locks the mapping and starts stack traffic; a fall after start-up stops the engine set. A Pier in reset takes the level alone (R425). -/
def execStackReady (level : Bool) (s : State) : Result :=
  let s1 := { s with pins := { s.pins with stackReady := level } }
  .next (if ¬ partRuns s .pier then s1
    else if level then stackStarts s1
    else if s.pins.stackReady ∧ s.eng.linksDone then startStopOpen s1 2 else s1)

/-- STACK_FATAL (R430): the STACK_LOST stop; a Pier in reset takes the level alone. -/
def execStackFatal (s : State) : Result :=
  let s1 := { s with pins := { s.pins with stackFatal := true } }
  .next (if partRuns s .pier then startStopOpen s1 2 else s1)

/-- What the levels at the Pier's pins cause at every cycle out of reset (R430). -/
def stackLevels (s : State) : State :=
  if ¬ partRuns s .pier then s
  else
    let s := if s.pins.stackReady ∧ ¬ s.pier.readySeen then stackStarts s else s
    if s.pins.stackFatal ∧ ¬ stopping s then startStopOpen s 2 else s

/-- STACK_NO_RESPONSE (R416): a request has gone unanswered for 2^16 PCLK. -/
def execStackNoResponse (s : State) : Result := .next (if s.pier.port = [] then s else startStopOpen s 2)

/-- REPEAT_CACHE_BANK_FAIL (R414): the bank's ways hold no line any more and stop allocating. -/
def execRepeatCacheBankFail (ways : List (Nat × Nat)) (s : State) : Result :=
  let bad := s.pier.badWays ++ ways.filter (fun w => decide (w.1 < 8192 ∧ w.2 < 16) && !s.pier.badWays.contains w)
  .next { s with pier := { s.pier with badWays := bad.dedup
                                       lines := s.pier.lines.filter (fun ln => !ways.contains (rcSet ln.addr, ln.way)) } }

/-! ## Upsets in the Pier's own storage (R414) -/

/-- An uncorrectable word of a repeat-cache line: the line is invalid, and the next burst for it reads the stack. -/
def lineUe (s : State) (k : Nat) : State := { s with pier := { s.pier with lines := s.pier.lines.eraseIdx k } }

/-- An uncorrectable word of a staged tile: it is discarded, and PIER_STAGE_UE goes to the REPORT_DEST of the group whose UPDATE waits for
it; while no such UPDATE has been accepted the group is not known (log entry 78). -/
def tileUe (s : State) (k : Nat) : State :=
  match s.pier.tiles[k]? with
  | none => s
  | some t =>
    let own := s.pier.cmds.find? (fun x => ucOpc x.cmd == 1 && ucTag x.cmd == t.tag && !x.begun)
    pierReport { s with pier := { s.pier with tiles := s.pier.tiles.eraseIdx k } } 0x67 0
      (own.map (fun x => gReportDest (getGroup s (ucGroup x.cmd)).words)) (t.tag.setWidth 64) (t.src.setWidth 64)

/-- An uncorrectable word of an on-die group entry: the group is invalid until host software reloads it. -/
def groupUe (s : State) (g : Nat) : State :=
  let x := getGroup s g
  if ¬ x.valid then s
  else pierReport (setGroup s g { x with valid := false }) 0x21 0 none (BitVec.ofNat 64 g) 0xFFFF

end Sys2Proof.Machine
end

