-- ==== Sys2Proof/Machine/Branch.lean ====
section
/-! DEFINITION. Branches of multicast groups at the router and at the span (R328, R337 to R340): the group table, live branches,
notices of missed messages, answers on their way up, and pruning. -/

namespace Sys2Proof.Machine

/-! ## Reports of the Abutment (R350, R386) -/

/-- Put a report in the Abutment's own queue, or drop and count it (R205). -/
def abutReport (s : State) (cause : Byte) (d0 d1 : Word) : State :=
  let q := s.abut
  let r : Report := { seq := q.repSeq + 1, cause := cause, lease := 0, thread := none, imprecise := false, halted := false,
                      engine := true, pc := 0, instr := 0, detail0 := d0, detail1 := d1, beat := q.beatCount }
  let q := { q with repSeq := q.repSeq + 1 }
  if q.repQ.length < 16 then { s with abut := { q with repQ := q.repQ ++ [r] } }
  else hwAdd { s with abut := { q with faultLost := satAdd32 q.faultLost 1 } } .abut 0x40 1

/-! ## The group table (R337) -/

/-- The active entry of a group at this router. -/
def mcEntry (s : State) (g : Nat) : Word := Tab.get 0 s.abut.mcActive g
def meValid (w : Word) : Bool := w.getLsbD 63
def meDomain (w : Word) : BitVec 16 := fld w 47 16
def meUp (w : Word) : Nat := bits w 46 43
def meRoot (w : Word) : Bool := w.getLsbD 42
def meLeaf (w : Word) (p : Nat) : Bool := w.getLsbD (16 + p)
def meDown (w : Word) : List Nat := (List.range 16).filter (fun p => w.getLsbD p)

/-- Whether a port's link carries multicast (R328). -/
def mcLink (s : State) (p : Nat) : Bool :=
  portUp s p && (getPort s p).features.getLsbD 4 && (getPort s p).features.getLsbD 6

/-- The port by which a branch is reached: its own, or another that is UP to the same partner (R339). -/
def branchPort (s : State) (p : Nat) : Option Nat :=
  if mcLink s p then some p
  else if portUp s p then none
  else
    let a := (getPort s p).partnerAddr
    if a = 0 then none else (List.range 14).find? (fun q => q != p && mcLink s q && (getPort s q).partnerAddr == a)

/-- Whether a branch is live; branch 0 is the span, by port 0. -/
def branchLive (s : State) (p : Nat) : Bool := (branchPort s p).isSome

/-! ## Packets (R338, R340) -/

def mdGroup (pk : Packet) : Nat := bits pk.dest 9 0
def mdMseq (pk : Packet) : Half := fld (payloadWord pk 0) 0 32
def mdOff (pk : Packet) : Nat := bits (payloadWord pk 0) 63 32
def mdTotal (pk : Packet) : Nat := bits (payloadWord pk 1) 31 0
def mdData (pk : Packet) : List Byte := pk.payload.drop 16

/-- The answer to a multicast packet: SRC and DEST exchanged, MSEQ and offset. -/
def mcAckFor (pk : Packet) : Packet :=
  mkPacket 0x0E pk.src pk.dest pk.cls.toNat pk.tag 0 (leBytes 4 (mdMseq pk).toNat ++ leBytes 4 (mdOff pk))

/-- The payload of a MISSED notice: MSEQ and total length, then group and sender. -/
def missedBytes (g : Nat) (src : BitVec 24) (mseq : Half) (total : Nat) : List Byte :=
  leBytes 4 mseq.toNat ++ leBytes 4 total ++ leBytes 8 (g + 65536 * src.toNat)

/-! ## The span's side: binding and notices -/

/-- The leases that bind a group, with their bindings. -/
def bindings (s : State) (g : Nat) : List (Nat × McBind) :=
  (List.range 16).filterMap (fun l =>
    if lstate s l = .empty then none
    else ((getRt s l).binds.find? (fun b => b.valid && b.group.toNat == g)).map (fun b => (l, b)))

/-- The reception of a message by a lease; a new one where none stands. -/
def getRecv (s : State) (l g : Nat) (src : BitVec 24) (mseq : Half) (total : Nat) : McRecv :=
  (s.mc.recv.find? (fun r => r.lease == l && r.group == g && r.src == src && r.mseq == mseq)).getD
    { lease := l, group := g, src := src, mseq := mseq, total := total }
def putRecv (s : State) (r : McRecv) : State :=
  { s with mc := { s.mc with recv := s.mc.recv.filter (fun x =>
    !(x.lease == r.lease && x.group == r.group && x.src == r.src && x.mseq == r.mseq)) ++ [r] } }

/-- A MISSED notice at the span: the counter will not rise for the message, and the lease is told (R340). An unaddressed endpoint takes
none (R315). -/
def spanMissed (s : State) (g : Nat) (src : BitVec 24) (mseq : Half) (total : Nat) : State :=
  if ¬ addressed s then s
  else (bindings s g).foldl (fun s lb =>
    let v := getRecv s lb.1 g src mseq total
    let s := putRecv s { v with missed := true }
    event (leaseReport s lb.1 0x34 none false false 0 0 (BitVec.ofNat 64 (g + 65536 * src.toNat)) (mseq.setWidth 64))
      0x204 1 (srcLease lb.1)) s

/-! ## Messages on their way up (R338) -/

/-- Packets of a message. -/
def mcPackets (m : McSend) : Nat := cdiv m.total 4096

def putSend (s : State) (m : McSend) : State :=
  { s with mc := { s.mc with sends := s.mc.sends.map (fun x => if x.u = m.u then m else x) } }
def dropSend (s : State) (u : Nat) : State :=
  { s with mc := { s.mc with sends := s.mc.sends.filter (fun x => x.u != u) } }

/-- The packet of a message that an answer's offset, of 32 bits, names: one that is sent and not answered. -/
def ackedPacket (m : McSend) (off : Nat) : Option Nat :=
  (List.range m.sent).find? (fun k => decide (4096 * k % 2 ^ 32 = off) && !m.acked.contains k)

/-- The root's answer for a packet reaches the span: the instruction completes with its last (R338). -/
def sendAcked (s : State) (g : Nat) (mseq : Half) (off : Nat) : State :=
  match s.mc.sends.find? (fun m => m.group == g && m.mseq == mseq && (ackedPacket m off).isSome) with
  | none => s
  | some m =>
    let m := { m with acked := m.acked ++ (ackedPacket m off).toList }
    if m.acked.length < mcPackets m then putSend s m
    else match getInstr s m.u with
      | some i => finish (dropSend s m.u) i {} (sigList i)
      | none => dropSend s m.u

/-! ## Branches at the router -/

/-- Answer a packet upstream, or to the own span that sent it. An answer whose link cannot take it is discarded (R322, R328). -/
def answerUp (s : State) (w : McWait) : State :=
  if w.upPort = 0 then sendAcked s w.group w.mseq w.off
  else match branchPort s w.upPort with
    | some q => portSend s q (mcAckFor w.pk)
    | none => fabDiscard s

/-- Whether a wait is for a packet. -/
def waitIs (w : McWait) (g : Nat) (src : BitVec 24) (mseq : Half) (off : Nat) : Bool :=
  w.group == g && w.pk.src == src && w.mseq == mseq && w.off == off

/-- A branch has answered a packet: once every branch has, it is answered upstream. -/
def branchAnswered (s : State) (g : Nat) (src : BitVec 24) (mseq : Half) (off p : Nat) : State :=
  match s.mc.wait.find? (fun w => waitIs w g src mseq off && w.waiting.contains p) with
  | none => s
  | some w =>
    let w' := { w with waiting := w.waiting.filter (fun q => q != p) }
    if w'.waiting = [] then answerUp { s with mc := { s.mc with wait := s.mc.wait.erase w } } w
    else { s with mc := { s.mc with wait := s.mc.wait.map (fun x => if x = w then w' else x) } }

/-- Send one MISSED notice for a message by a pruned branch (R339, R340): to the endpoint of a leaf, or in the form of the
group below the branch, where its link carries notices (R328). -/
def tellMissed (s : State) (g p : Nat) (src : BitVec 24) (mseq : Half) (total : Nat) : State :=
  let key := (16 * g + p, src, mseq)
  if s.mc.told.contains key then s
  else
    let body := missedBytes g src mseq total
    let tag := Tab.get 0 s.net.tags 0
    let leaf := meLeaf (mcEntry s g) p
    if (p = 0 ∨ ¬ leaf) ∧ ¬ (portUp s p ∧ (getPort s p).features.getLsbD 6) then s
    else
      let s := { s with mc := { s.mc with told := s.mc.told ++ [key] } }
      if p = 0 then spanMissed s g src mseq total
      else
        let s := { s with net := { s.net with tags := Tab.set 0 s.net.tags 0 (tag + 1) } }
        if leaf then sendPacket s (mkPacket 0x0F ((getPort s p).partnerAddr ||| 1) (ownAddr s 0) 3 tag 0 body)
        else portSend s p (mkPacket 0x0F (BitVec.ofNat 24 g) (ownAddr s 0) 3 tag 1 body)

/-- The branches of a group that stand pruned: by R339, or because their link does not carry multicast (R328). -/
def prunedBranches (s : State) (g : Nat) : List Nat :=
  (List.range 16).filter (fun p => s.mc.pruned.contains (16 * g + p) ||
    ((mcEntry s g).getLsbD p && !branchLive s p))

/-- Prune a branch (R339). -/
def prune (s : State) (g p : Nat) : State :=
  let held := s.mc.wait.filter (fun w => w.group == g && w.waiting.contains p)
  let first : Word := match held.head? with
    | some w => w.mseq.setWidth 64
    | none => Config.freeWord s.free &&& 0xFFFFFFFF
  let less := Tab.set 0 s.abut.mcActive g (mcEntry s g &&& ~~~((1 : Word) <<< p))
  let s := { s with free := s.free + 1
                    abut := { s.abut with mcActive := less }
                    mc := { s.mc with pruned := s.mc.pruned ++ [16 * g + p] } }
  let s := held.foldl (fun s w => tellMissed s g p w.pk.src w.mseq (mdTotal w.pk)) s
  let s := held.foldl (fun s w => branchAnswered s g w.pk.src w.mseq w.off p) s
  abutReport s 0x33 (BitVec.ofNat 64 (g + 65536 * p)) first

/-- The multicast groups with a branch through a port (R339). -/
def groupsThrough (s : State) (k : Nat) : List Nat :=
  (s.abut.mcActive.filter (fun e => e.2.getLsbD 63 && e.2.getLsbD k)).map (·.1)

/-- Prune the branches of a port that is DOWN and that no other port reaches (R339). -/
def pruneDown (s : State) (k : Nat) : State :=
  if (branchPort s k).isSome then s else (groupsThrough s k).foldl (fun s g => prune s g k) s

end Sys2Proof.Machine
end

