-- ==== Sys2Proof/Machine/Links.lean ====
section
/-! DEFINITION. Links (R316 to R319, R325 to R327, R333, R343 to R347, R432): flits received and sent, retry, training,
negotiation, and the loss of modules, ports and lanes. -/

namespace Sys2Proof.Machine

/-! ## Links, parts and modules -/

/-- The number of a link's port: 0 to 15 the router's, 16 the span's Abutment link, 17 its Pier link, 18 the Pier's link. -/
def linkKey : LinkId → Nat
  | .abut p => p.val
  | .spanAbut => 16
  | .spanPier => 17
  | .pierSpan => 18

/-- The part that holds a port. -/
def keyPart (k : Nat) : Part := if k < 16 then .abut else if k = 18 then .pier else .span
def partNo : Part → Nat
  | .span => 0
  | .pier => 1
  | .abut => 2

/-- A module of a part (R467). -/
def getMod (s : State) (part : Part) (m : Nat) : Module := Tab.get {} s.mods (64 * partNo part + m)
def setMod (s : State) (part : Part) (m : Nat) (x : Module) : State :=
  { s with mods := Tab.set {} s.mods (64 * partNo part + m) x }

/-- Whether a port is an Ethernet port (R329). -/
def isEth (k : Nat) : Bool := decide (6 ≤ k ∧ k < 14)

/-- Whether a port's link is of UCIe modules: the Ethernet ports and the host port, port 1, have none (R423, R433). -/
def hasModules (k : Nat) : Bool := !isEth k && k != 1

/-- Whether a loop-back of a module's path holds it out of the striping (R419). -/
def moduleLooped (s : State) (part : Part) (m : Nat) : Bool :=
  s.loop.any (fun e => decide (e.1 / 16 = partNo part) && e.2.run &&
    decide (3 ≤ e.2.path.toNat ∧ e.2.path.toNat ≤ 5 ∧ e.2.index.toNat = m))

/-- Whether a loop-back holds a port, or a module of its link, out of service (R419). -/
def linkLooped (s : State) (k m : Nat) : Bool :=
  (decide (k < 16) && portLooped s k) || (hasModules k && moduleLooped s (keyPart k) m)

/-! ## Port states (R325) -/

def pstateCode : PState → Nat
  | .down => 0
  | .training => 1
  | .negotiating => 2
  | .up => 3
  | .failed => 4

/-- A fabric report of the part that holds a port (R350). -/
def linkReport (s : State) (k : Nat) (cause : Byte) (d0 d1 : Word) : State :=
  match keyPart k with
  | .span => engineReport s cause d0 d1
  | .pier => pierReport s cause 0 none d0 d1
  | .abut => abutReport s cause d0 d1

/-- Change a port's state, which the part that holds it reports as FAB_LINK (R325, R350). The span's and the Pier's own link ports are
numbered 0, 1 and 2 (log entry 85). -/
def setPState (s : State) (k : Nat) (st : PState) : State :=
  let x := getPort s k
  if x.st = st then s
  else linkReport (setPort s k { x with st := st }) k 0x30 (BitVec.ofNat 64 (k % 16 + 16 * pstateCode st))
    (BitVec.ofNat 64 (x.partnerId.toNat * 2 ^ 32 + x.partnerAddr.toNat))

/-- FAB_DEGRADED (R344, R345, R350). -/
def degraded (s : State) (k m : Nat) (x : Module) : State :=
  linkReport s k 0x31 (BitVec.ofNat 64 (k % 16 + 16 * (m % 16)))
    (BitVec.ofNat 64 (x.repaired.toNat + 256 * x.failed.toNat + 65536))

/-! ## CRC (R316) -/

/-- One bit of CRC-32, reflected. -/
def crcBit (c : BitVec 32) : BitVec 32 := if c.getLsbD 0 then (c >>> 1) ^^^ 0xEDB88320 else c >>> 1
/-- One byte of CRC-32. -/
def crcByte (c : BitVec 32) (b : Byte) : BitVec 32 :=
  crcBit (crcBit (crcBit (crcBit (crcBit (crcBit (crcBit (crcBit (c ^^^ b.setWidth 32))))))))
/-- CRC-32 of IEEE 802.3 (log entry 22). -/
def crc32 (bs : List Byte) : BitVec 32 := ~~~(bs.foldl crcByte 0xFFFFFFFF)
/-- The CRC that a flit should carry. -/
def flitCrc (fl : Flit) : BitVec 32 := crc32 (fl.data ++ leBytes 4 (bits fl.ctrl 31 0))
def crcOk (fl : Flit) : Bool := decide (fl.data.length = 504) && fld fl.ctrl 32 32 == flitCrc fl

def flSeq (fl : Flit) : BitVec 12 := fld fl.ctrl 20 12
def flAck (fl : Flit) : BitVec 12 := fld fl.ctrl 8 12
def flCvc (fl : Flit) : Nat := bits fl.ctrl 7 5
def flCcnt (fl : Flit) : Nat := bits fl.ctrl 4 0

/-! ## Packets in the stream (R316, R320) -/

/-- Bytes of a packet in the stream: header, payload, padding to 8. -/
def streamBytes (p : Packet) : List Byte :=
  let bs := headerBytes p ++ p.payload
  bs ++ List.replicate ((8 - bs.length % 8) % 8) 0

/-- A packet from its bytes. -/
def parsePacket (bs : List Byte) : Packet :=
  let w0 : Word := BitVec.ofNat 64 (leNat (bs.take 8))
  let w1 : Word := BitVec.ofNat 64 (leNat ((bs.drop 8).take 8))
  { typ := fld w0 56 8, dest := fld w0 32 24, src := fld w0 8 24, cls := fld w0 6 2, retry := w0.getLsbD 5, rsv0 := fld w0 0 5
    len := fld w1 50 14, ttl := fld w1 44 6, rsv1 := fld w1 32 12, tag := fld w1 16 16, aux := fld w1 0 16
    payload := (bs.drop 16).take (bits w1 63 50) }

/-- The state of the parse of a flit: the bytes of the packet under way, whether padding has ended the flit's stream, and
the packets completed. -/
structure Parse where
  buf : List Byte
  ended : Bool := false
  out : List Packet := []
  deriving DecidableEq, Repr

/-- Take one 8-byte word of the stream. -/
def parseWord (q : Parse) (w : List Byte) : Parse :=
  if q.ended then q
  else if q.buf = [] ∧ w.all (fun b => b == 0) then { q with ended := true }
  else
    let buf := q.buf ++ w
    let len := bits (BitVec.ofNat 64 (leNat ((buf.drop 8).take 8)) : Word) 63 50
    if 16 ≤ buf.length ∧ 16 + 8 * cdiv len 8 ≤ buf.length then { q with buf := [], out := q.out ++ [parsePacket buf] }
    else { q with buf := buf }

/-- Parse a flit's data behind the bytes of the packet under way. -/
def parseFlit (buf data : List Byte) : Parse :=
  ((List.range 63).map (fun k => (data.drop (8 * k)).take 8)).foldl parseWord { buf := buf }

/-- 64-byte units of a packet (R318). -/
def pkUnits (p : Packet) : Nat := cdiv (16 + p.payload.length) 64

/-- Hand on a packet that has arrived by a port: the span passes its links' traffic on (R314), everything else waits for the
command that it is. The buffer it took is owed back (R318). -/
def deliver (k : Nat) (s : State) (p : Sys2Proof.Packet) : State :=
  let x := getPort s k
  let s := setPort s k { x with owed := Tab.set 0 x.owed (vcOf p) (Tab.get 0 x.owed (vcOf p) + pkUnits p) }
  let kept : State := { s with net := { s.net with rx := s.net.rx ++ [p] } }
  if p.typ = 0x14 ∨ k < 16 ∨ k = 18 then kept
  else if k = 16 ∧ ¬ grouped p ∧ isOwn s p.dest ∧ epOf p.dest = 2 then enqueue s 17 p
  else if k = 17 ∧ ¬ (isOwn s p.dest ∧ epOf p.dest = 1) then enqueue s 16 p
  else kept

/-! ## Losing a port (R333, R339, R416) -/

/-- The packets that began in unacknowledged flits or wait at a port. -/
def unsent (x : Port) : List Packet × List Packet := ((x.replay.map (·.starts)).flatten, x.txq)

/-- A port's link state after it goes DOWN: sequence numbers and credits start anew, its settings stay. -/
def downPort (x : Port) : Port :=
  { replayTimeout := x.replayTimeout, partnerId := x.partnerId, partnerAddr := x.partnerAddr, mods := x.mods, st := x.st, etype := x.etype }

/-- Route afresh a packet that a DOWN router port held (R333): what is bound for a group, and its answers, by another port to the same
partner, an answer that none takes being discarded (R322); a DIRECTED packet by its own route alone (R335), all else by the route table from
the port by which it came. Its TTL has been taken down already. -/
def resendOne (s : State) (k : Nat) (arr : Nat) (p : Packet) : State :=
  if p.typ = 0x14 then s
  else if grouped p ∨ p.typ = 0x0E then
    (match branchPort s k with
     | some q => enqueue s q p
     | none => if p.typ = 0x0E then fabDiscard s else s)
  else if p.typ = 0x15 then directedFails s p 2
  else routePacket s arr { p with ttl := p.ttl + 1 }

/-- Put the packets that a state's ports have got since another state in front of those that waited there. -/
def inFront (old s : State) : State :=
  (List.range 16).foldl (fun s q =>
    let n := (getPort old q).txq.length
    let x := getPort s q
    if x.txq.length = n then s else setPort s q { x with txq := x.txq.drop n ++ x.txq.take n }) s

/-- Send again what a DOWN router port held (R333): first, before all that waits at their new ports, with RETRY = 1 and in their order the
packets that began in unacknowledged flits, then those that waited. -/
def resend (s : State) (k : Nat) (came : List (Packet × Nat)) (ps qs : List Packet) : State :=
  let by' := fun (p : Sys2Proof.Packet) => ((came.find? (fun c => c.1 == p)).map (·.2)).getD 15
  let s := inFront s (ps.foldl (fun (s : State) (p : Sys2Proof.Packet) => resendOne s k (by' p) { p with retry := true }) s)
  qs.foldl (fun (s : State) (p : Sys2Proof.Packet) => resendOne s k (by' p) p) s

/-- Take a port DOWN (R333): its packets are routed afresh and branches through it that no other port reaches are pruned (R339); a span
link's loss stops the engine set in order (R345, R416). -/
def portDown (s : State) (k : Nat) : State :=
  let x := getPort s k
  if x.st = .down ∨ x.st = .training then s
  else
    let u := unsent x
    let s := setPState (setPort s k (downPort x)) k .down
    if k < 16 then pruneDown (resend s k x.came u.1 u.2) k
    else
      let s := setPort s k { getPort s k with txq := u.1.map (fun (p : Sys2Proof.Packet) => { p with retry := true }) ++ u.2 }
      if ¬ s.eng.linksDone then s else if k = 16 then startStopOpen s 4 else startStopOpen s 3

/-- Ask for the retry of a gap, once, and drop what has come behind it (R317). -/
def gap (x : Port) : Port :=
  if x.nakSent then { x with early := [] } else { x with nakSent := true, nakDue := true, early := [] }

/-- The modules over which a link stripes: those of the link that are UP and in the striping (R343, R345). -/
def stripes (s : State) (k : Nat) : List Nat :=
  (getPort s k).mods.filter (fun m => let x := getMod s (keyPart k) m; x.up && !x.out)

/-- Whether no module can still bring the flit that is missing: each of the striping holds a later one (R343). -/
def allAhead (s : State) (k : Nat) (early : List (Nat × Flit)) : Bool :=
  !hasModules k || (stripes s k).all (fun m => early.any (fun e => e.1 == m))

/-- The port whose link a module of a part belongs to: the span's by MOD_ASSIGN, others by their training (R17). -/
def modPort (s : State) (part : Part) (m : Nat) : Option Nat :=
  match part with
  | .span => some (if s.eng.straps.getLsbD (2 + m) then 16 else 17)
  | .pier => some 18
  | .abut => (List.range 16).find? (fun k => (getPort s k).mods.contains m)

/-- Take a module out of the striping of its link; the link that loses its last module goes DOWN (R345). -/
def moduleOut (s : State) (part : Part) (m : Nat) : State :=
  let s := setMod s part m { getMod s part m with out := true, crcFails := [] }
  match modPort s part m with
  | some k =>
    let x := getPort s k
    if x.st ≠ .up ∧ x.st ≠ .negotiating then s
    else if stripes s k = [] then portDown s k
    else if x.early ≠ [] ∧ allAhead s k x.early then setPort s k (gap x)
    else s
  | none => s

/-- Count a flit that failed its CRC on a module: 16 within 2^20 cycles take it out (R345). -/
def crcFail (s : State) (k m : Nat) : State :=
  if ¬ hasModules k then s
  else
    let part := keyPart k
    let x := getMod s part m
    let recent := x.crcFails.filter (fun t => decide (s.now < t + 2 ^ 20)) ++ [s.now]
    if x.out then s
    else if 16 ≤ recent.length then moduleOut s part m else setMod s part m { x with crcFails := recent }

/-! ## Receiving (R317, R318) -/

/-- Whether a sequence number lies in a window of half the space behind another. -/
def behind (a b : BitVec 12) : Bool := decide (0 < (b - a).toNat ∧ (b - a).toNat ≤ 2048)

/-- Drop the flits that an ACK covers. -/
def ackFlits (x : Port) (ack : BitVec 12) : Port :=
  match x.replay.findIdx? (fun f => flSeq f.flit == ack) with
  | some i =>
    let gone := ((x.replay.take (i + 1)).map (·.starts)).flatten
    { x with replay := x.replay.drop (i + 1), resends := 0, came := gone.foldl (fun c p => c.eraseP (fun e => e.1 == p)) x.came }
  | none => x

/-- Resend every unacknowledged flit (R317). The sixteenth resend of a flit without progress takes the port DOWN (R333). -/
def replayPort (s : State) (k : Nat) : State :=
  let x := getPort s k
  if x.replay = [] then s
  else
    let s := event s 0x203 x.replay.length srcNone
    if 16 ≤ x.resends + 1 then portDown s k else setPort s k { x with resends := x.resends + 1 }

/-- Take the control word of an accepted flit: ACK, returned credits, NAK. -/
def takeCtrl (s : State) (k : Nat) (fl : Flit) : State :=
  let x := ackFlits (getPort s k) (flAck fl)
  if flCvc fl = 7 then replayPort (setPort s k x) k
  else setPort s k { x with credits := Tab.set 0 x.credits (flCvc fl) (Tab.get 0 x.credits (flCvc fl) + flCcnt fl) }

/-- Accept the flit that follows the last accepted one. -/
def acceptFlit (s : State) (k : Nat) (fl : Flit) : State :=
  let x := getPort s k
  let q := parseFlit x.rx fl.data
  let s := setPort s k { x with rxSeq := x.rxSeq + 1, nakSent := false, ackDue := true, rx := q.buf }
  q.out.foldl (deliver k) (takeCtrl s k fl)

/-- Accept the flits held that now follow in order. -/
def drainEarly (k : Nat) : Nat → State → State
  | 0, s => s
  | n + 1, s =>
    let x := getPort s k
    match x.early.find? (fun e => flSeq e.2 == x.rxSeq) with
    | some e => drainEarly k n (acceptFlit (setPort s k { x with early := x.early.erase e }) k e.2)
    | none => s

/-- Receive a flit on a port by a module. Flits that come ahead of SEQ order are held until the modules behind have caught up (R343); one
that is missing then, or has a bad CRC, is a gap. A port or module in a loop-back brings none (R419). -/
def receiveFlit (s : State) (k m : Nat) (fl : Flit) : State :=
  let x := getPort s k
  if (x.st ≠ .up ∧ x.st ≠ .negotiating) ∨ linkLooped s k m then s
  else if ¬ crcOk fl then crcFail (setPort s k (gap x)) k m
  else if flSeq fl = x.rxSeq then drainEarly k x.early.length (acceptFlit s k fl)
  else if behind (flSeq fl) x.rxSeq then setPort s k { x with ackDue := true }
  else if x.nakSent then s
  else
    let early := x.early ++ [(m, fl)]
    setPort s k (if allAhead s k early then gap x else { x with early := early })

/-- FLIT_RECEIVE (R317). -/
def execFlitReceive (p : LinkId) (m : Nat) (fl : Flit) (s : State) : Result := .next (receiveFlit s (linkKey p) m fl)

/-- FLIT_REPLAY_TIMEOUT (R317, R333). -/
def execFlitReplayTimeout (p : LinkId) (s : State) : Result := .next (replayPort s (linkKey p))

/-! ## Sending (R316 to R319, R343, R346, R359), at the model's tick -/

/-- The virtual channels in the order of R319. -/
def vcOrder : List Nat := [0, 2, 1, 4, 3, 6, 5]

/-- Whether a packet's credits cover its whole length; IDENT precedes every credit. -/
def covered (x : Port) (p : Packet) : Bool := p.typ == 0x14 || decide (pkUnits p ≤ Tab.get 0 x.credits (vcOf p))

/-- The first packet of a channel and lease, if it may start; `lo` names the lease of a packet. -/
def readyFor (x : Port) (lo : Packet → Nat) (vc l : Nat) : Option Packet :=
  (x.txq.find? (fun p => vcOf p == vc && lo p == l)).filter (covered x)

/-- The first packet of a channel that may start, of the leases in turn after the one last served (R359). -/
def readyOn (x : Port) (lo : Packet → Nat) (vc : Nat) : Option Packet :=
  (List.range 17).findSome? (fun d => readyFor x lo vc ((x.owner + 1 + d) % 17))

/-- The leases that are owed flit slots of the present window and have a packet that may start (R359). -/
def owedLeases (x : Port) (lo : Packet → Nat) : List (Nat × Nat) :=
  (List.range 16).filterMap (fun l =>
    let n := Tab.get 0 x.share l - Tab.get 0 x.used l
    if 0 < n ∧ vcOrder.any (fun v => (readyFor x lo v l).isSome) then some (l, n) else none)

/-- The packet that a link share calls for: once the slots left in the window, a whole packet of 17 flits apart, are no more than those
owed (R359, log entry 79). -/
def sharePacket (x : Port) (lo : Packet → Nat) : Option Packet :=
  let owed := owedLeases x lo
  if sumL (owed.map (·.2)) + 17 < 256 - x.win then none
  else vcOrder.findSome? (fun v => owed.findSome? (fun o => readyFor x lo v o.1))

/-- The next packet (R319): by the fixed order, but every sixteenth slot goes round-robin among the Standard and Scavenger
channels unless an Express packet is ready; a link share comes before either. -/
def nextPacket (x : Port) (lo : Packet → Nat) : Option (Packet × Nat) :=
  let on := readyOn x lo
  let express := (on 1).isSome || (on 2).isSome
  let turn := if x.slots % 16 = 15 ∧ ¬ express then
      (List.range 4).findSome? (fun d => let v := 3 + (x.rr + 1 + d) % 4; (on v).map (fun p => (p, (x.rr + 1 + d) % 4)))
    else none
  match sharePacket x lo, turn with
  | some p, _ => some (p, x.rr)
  | none, some r => some r
  | none, none => (vcOrder.findSome? on).map (fun p => (p, x.rr))

/-- Fill a flit's data: the rest of the packet under way, then packets while they fit. -/
def fillFlit (lo : Packet → Nat) : Nat → Port → List Byte → List Packet → Port × List Byte × List Packet
  | 0, x, data, ps => (x, data, ps)
  | n + 1, x, data, ps =>
    if x.txb ≠ [] then
      let k := 504 - data.length
      fillFlit lo n { x with txb := x.txb.drop k } (data ++ x.txb.take k) ps
    else if 504 ≤ data.length then (x, data, ps)
    else match nextPacket x lo with
      | none => (x, data, ps)
      | some (p, rr) =>
        let vc := vcOf p
        fillFlit lo n { x with txq := x.txq.erase p, txb := streamBytes p, slots := x.slots + 1, rr := rr, owner := lo p
                               credits := Tab.set 0 x.credits vc (Tab.get 0 x.credits vc - pkUnits p) } data (ps ++ [p])

/-- Flits that a replay buffer holds (R317). -/
def replayRoom (k : Nat) : Nat := if isEth k then 2048 else 512

/-- The module whose turn it is: round-robin over the striping, a module taking turns in proportion to its rate, 2, 3 or 4 for 16, 24 or
32 GT/s (R343); 0 for a link without modules. -/
def turnModule (s : State) (k : Nat) : Nat :=
  let ms := stripes s k
  let weight := fun (m : Nat) => (getMod s (keyPart k) m).rate.toNat + 2
  let rounds := (List.range 5).map (fun d => ms.filter (fun m => decide (d < weight m)))
  let turns := rounds.flatten
  turns.getD ((getPort s k).turn % max 1 turns.length) 0

/-- At the start of a window of 256 slots the shares in force hold for it (R369). -/
def openWindow (s : State) (k : Nat) (x : Port) : Port :=
  if x.win ≠ 0 ∨ (k ≠ 16 ∧ k ≠ 17) then x
  else { x with used := [], share := (List.range 16).foldl (fun t l => Tab.set 0 t l (linkShare s l)) [] }

/-- Count a flit slot for the lease whose packet it carries. -/
def countSlot (k : Nat) (x : Port) (owner : Nat) : Port :=
  if k ≠ 16 ∧ k ≠ 17 then x
  else { x with win := (x.win + 1) % 256, used := if owner < 16 then Tab.set 0 x.used owner (Tab.get 0 x.used owner + 1) else x.used }

/-- The lease of a packet at a port: the span's link ports alone serve leases in turn; a router's keeps the order of arrival (R324, R359). -/
def leaseOn (s : State) (k : Nat) (p : Packet) : Nat := if k = 16 ∨ k = 17 then packetLease s p else 16

/-- Send one flit from a port (R316): what packets there are, with padding behind them, and the control word. A full replay buffer stops
it, and a port in a loop-back (R419) or of a part in reset or without its rails (R425, R442) sends none. -/
def sendFlit (s : State) (k : Nat) : State :=
  let x := openWindow s k (getPort s k)
  if (x.st ≠ .up ∧ x.st ≠ .negotiating) ∨ replayRoom k ≤ x.replay.length ∨ (k < 16 ∧ portLooped s k) ∨ ¬ partRuns s (keyPart k) then s
  else
    let under := x.txb ≠ []
    let r := fillFlit (leaseOn s k) 130 x [] []
    let owner := if under then x.owner else match r.2.2.head? with
      | some p => leaseOn s k p
      | none => 16
    let x := countSlot k r.1 owner
    let data := r.2.1 ++ List.replicate (504 - r.2.1.length) 0
    let (cvc, cnt) := if x.nakDue then (7, 0) else match x.owed.head? with
      | some (v, n) => (v, min n 31)
      | none => (0, 0)
    let owed := if x.nakDue then x.owed else match x.owed.head? with
      | some (v, n) => Tab.set 0 x.owed v (n - min n 31)
      | none => x.owed
    let low : BitVec 32 := x.txSeq ++ (x.rxSeq - 1) ++ BitVec.ofNat 3 cvc ++ BitVec.ofNat 5 cnt
    let crc := crc32 (data ++ leBytes 4 low.toNat)
    setPort s k { x with txSeq := x.txSeq + 1, nakDue := false, ackDue := false, owed := owed, turn := x.turn + 1
                         replay := x.replay ++ [⟨⟨data, crc ++ low⟩, r.2.2, turnModule s k⟩] }

/-- Whether a port has packets for a further flit. -/
def moreToSend (s : State) (k : Nat) : Bool :=
  let x := getPort s k
  x.txb != [] || (nextPacket x (leaseOn s k)).isSome

/-- The Ethernet frame of the newest flits of a port (R346). -/
def ethFrameOf (s : State) (k : Nat) (fs : List Flit) : EthFrame :=
  let v := Tab.get 0 s.abut.vlan (k - 6)
  { dst := Tab.get 0 s.abut.neigh (k - 6), src := s.abut.mac + BitVec.ofNat 48 (k - 6)
    vlan := if v.getLsbD 16 then some (v.setWidth 16) else none, etype := (getPort s k).etype
    encap := (0x12 : BitVec 8) ++ BitVec.ofNat 8 fs.length ++ BitVec.ofNat 8 k ++ (0 : BitVec 40)
    flits := fs, fcsOk := true, control := false }

/-- Send one frame from an Ethernet port: a second flit joins the first where there is more to send at once (R346). -/
def sendFrame (s : State) (k : Nat) : State :=
  let s1 := sendFlit s k
  let n := (getPort s k).replay.length
  if (getPort s1 k).replay.length = n then s
  else
    let s2 := if moreToSend s1 k then sendFlit s1 k else s1
    let x := getPort s2 k
    setPort s2 k { x with frame := some (ethFrameOf s2 k ((x.replay.drop n).map (·.flit))) }

/-- Every port sends. -/
def sendFlits (s : State) : State := (List.range 19).foldl (fun s k => if isEth k then sendFrame s k else sendFlit s k) s

/-! ## Training and negotiation (R325 to R327, R343, R344, R402, R403) -/

/-- Lanes of an Ethernet link, and whether a port is one of the links that ETH_LINKCFG makes (R347, R472). -/
def ethLanes (s : State) : Nat := 2 ^ s.abut.linkCfg.toNat
def ethLink (s : State) (k : Nat) : Bool := decide (6 ≤ k ∧ (k - 6) * ethLanes s < 8)

/-- The SIGNAL_DETECT bits of an Ethernet link's lanes (R434). -/
def laneMask (s : State) (k : Nat) : BitVec 8 := BitVec.ofNat 8 ((2 ^ ethLanes s - 1) * 2 ^ ((k - 6) * ethLanes s))

/-- Whether every lane of an Ethernet link detects a signal. -/
def hasSignal (s : State) (k : Nat) : Bool := s.pins.sigDetect &&& laneMask s k == laneMask s k

/-- Whether a port may leave DOWN: an Ethernet port needs to be a link, its EtherType and its lanes' signal (R347, R434, R472). -/
def mayTrain (s : State) (k : Nat) : Bool := !isEth k || (decide (0x0600 ≤ s.abut.etype.toNat) && ethLink s k && hasSignal s k)

/-- Physical training that starts at an Ethernet port finds its lanes' signal, by which the integrator's SerDes raises SIGNAL_DETECT (log
entry 101: no command of the table raises it). -/
def seeSignal (s : State) (k : Nat) : State :=
  if isEth k && ethLink s k then { s with pins := { s.pins with sigDetect := s.pins.sigDetect ||| laneMask s k } } else s

/-- Start training a DOWN port. Phase LINKS starts when FUSE ends (R402). -/
def trainPort (s : State) (k : Nat) : State :=
  if s.eng.fuseDone ∧ partRuns s (keyPart k) ∧ (getPort s k).st = .down ∧ mayTrain s k then
    setPState (setPort s k { getPort s k with etype := s.abut.etype }) k .training
  else s

/-- TRAINING_START (R325). -/
def execTrainingStart (p : LinkId) (s : State) : Result := .next (trainPort (seeSignal s (linkKey p)) (linkKey p))
/-- TRAINING_RETRY (R325): 2^20 cycles after a failure. -/
def execTrainingRetry (p : LinkId) (s : State) : Result := .next (trainPort (seeSignal s (linkKey p)) (linkKey p))

/-- Whether a module joins its link: it has trained, and to the partner that MOD_ASSIGN names (R344, R431). -/
def joins (r : TrainResult) : Bool := r.ok && !r.wrong

/-- Record what a module's training ended with (R344); one that does not join stays out of the link and is reported. -/
def recordModule (s : State) (k m : Nat) (r : TrainResult) : State :=
  let x : Module := { getMod s (keyPart k) m with rate := r.rate, up := r.ok, out := !joins r, reversed := r.reversed,
                                                  failed := r.failed, repaired := r.repaired, crcFails := [] }
  let s := setMod s (keyPart k) m x
  if joins r then s else degraded s k m x

/-- The IDENT payload (R326). -/
def identBytes (s : State) (k : Nat) : List Byte :=
  let addr : BitVec 24 := if addressed s then s.abut.fabActive &&& 0xFFFFF0 else 0
  let w0 : Word := (0x12 : BitVec 8) ++ (0x10 : BitVec 8) ++ addr ++ BitVec.ofNat 4 k ++ (0 : BitVec 20)
  let w1 : Word := (0x7F : BitVec 32) ++ (0x01010200 : BitVec 32)
  leBytes 8 w0.toNat ++ leBytes 8 w1.toNat ++ List.replicate 16 0

/-- Send an IDENT on a port (R326). -/
def sendIdent (s : State) (k : Nat) : State :=
  let ep := if k < 16 then 0 else if k = 18 then 2 else 1
  enqueue s k (mkPacket 0x14 0xFFFFFF (ownAddr s ep) 3 0 0 (identBytes s k))

/-- The part at the far end of a span link is still in reset (R425). -/
def farInReset (s : State) (k : Nat) : Bool := if k = 16 then !s.pins.rstAbut else !s.pins.rstPier

/-- What the end of a span link's training means in phase LINKS (R402, R403). -/
def linksEnd (s : State) (k : Nat) (ok : Bool) : State :=
  if (k ≠ 16 ∧ k ≠ 17) ∨ s.eng.linksDone then s
  else if ok then s
  else if farInReset s k then s
  else
    let e := { s.eng with startFail := true }
    { s with eng := if k = 16 then { e with abutLinkFail := true } else { e with pierLinkFail := true } }

/-- LINKS has ended once both span links have a module UP and the Pier, whose controller has signalled that the stack is ready, gives it
service; with SCRUB's end, phase ADDRESS starts (R402, R430). -/
def linksPhase (s : State) : State :=
  let up := fun (k : Nat) => decide ((getPort s k).st = .negotiating ∨ (getPort s k).st = .up)
  if s.eng.linksDone ∨ s.eng.startFail ∨ ¬ s.eng.fuseDone ∨ ¬ s.pier.readySeen ∨ ¬ up 16 ∨ ¬ up 17 then s
  else
    let s := { s with eng := { s.eng with linksDone := true }, pier := { s.pier with polbin := s.eng.straps.getLsbD 0 } }
    if s.eng.scrubDone then readyCheck { s with eng := { s.eng with phase := 6 } } else s

/-- TRAINING_DONE (R325, R343, R344): the link's modules as they ended, one entry standing for a link that has none; where nothing has
trained the port is DOWN again. -/
def execTrainingDone (p : LinkId) (ms : List (Nat × TrainResult)) (s : State) : Result :=
  let k := linkKey p
  .next (if (getPort s k).st ≠ .training then s
    else
      let ms := ms.filter (fun m => !moduleLooped s (keyPart k) m.1 &&
        (decide (k ≠ 16 ∧ k ≠ 17) || decide (modPort s .span m.1 = some k ∧ m.1 < 8)))
      let s := if hasModules k then ms.foldl (fun s m => recordModule s k m.1 m.2) s else s
      let good := (ms.filter (fun m => joins m.2)).map (·.1)
      let s := setPort s k { downPort (getPort s k) with mods := if hasModules k then good else [] }
      if good = [] ∨ (isEth k ∧ ¬ hasSignal s k) then linksEnd (setPState s k .down) k false
      else
        let s := setPState s k .negotiating
        let s := setPort s k { getPort s k with
          owed := (List.range 7).foldl (fun t v => Tab.set 0 t v (Config.freeNat (s.free + v))) [] }
        linksPhase (sendIdent { s with free := s.free + 7 } k))

/-- Whether an IDENT on a span link comes from another part than the one at its far end, by the endpoint of its SRC (R314, R431). -/
def wrongPart (k : Nat) (pk : Packet) : Bool := decide ((k = 16 ∧ epOf pk.src ≠ 0) ∨ (k = 17 ∧ epOf pk.src ≠ 2))

/-- A span link whose IDENT fails for its partner: its modules stay out, and the link ends LINKS with none or is lost (R403, R416, R431). -/
def wrongLink (s : State) (k : Nat) : State :=
  let s := (getPort s k).mods.foldl (fun s m => setMod s .span m { getMod s .span m with out := true }) s
  if s.eng.linksDone then startStopOpen s (if k = 16 then 4 else 3) else linksEnd s k false

/-- IDENT (R326, R327): version and features, or FAILED with a report. -/
def execIdent (p : LinkId) (pk : Packet) (s : State) : Result :=
  let k := linkKey p
  let s := takeRx s pk
  .next (if badHeader pk then fabDiscard s
    else if (getPort s k).st ≠ .negotiating then s
    else
      let w0 := payloadWord pk 0
      let w1 := payloadWord pk 1
      let vmax := bits w0 63 56
      let vmin := bits w0 55 48
      let addr : BitVec 24 := fld w0 24 24
      let v := min 0x12 vmax
      let inner := decide (16 ≤ k)
      let clash := !inner && addressed s && addr == (s.abut.fabActive &&& 0xFFFFF0)
      let allowed : Half := if v < 0x11 then 0x0F else if v < 0x12 then 0x3F else 0x7F
      let feats : Half := fld w1 32 32 &&& 0x7F &&& allowed
      let bad := decide (v < vmin ∨ v < 0x10 ∨ vmax / 16 ≠ 1) || !feats.getLsbD 0 || wrongPart k pk
      let x := { getPort s k with identGot := true, partnerId := fld w1 0 32, partnerAddr := addr }
      if bad ∨ (clash ∧ k ≠ 0) then
        let s := setPState (setPort s k x) k .failed
        let s := if wrongPart k pk then wrongLink s k else s
        linkReport s k 0x32 (BitVec.ofNat 64 (k % 16))
          (BitVec.ofNat 64 (vmin + 256 * vmax + (if clash ∧ k ≠ 0 then 65536 else 0)))
      else setPState (setPort s k { x with version := BitVec.ofNat 8 v, features := feats }) k .up)

/-- IDENT_RESEND (R326): 1,024 cycles without the partner's IDENT. -/
def execIdentResend (p : LinkId) (s : State) : Result :=
  let k := linkKey p
  .next (if (getPort s k).st = .negotiating ∧ ¬ (getPort s k).identGot then sendIdent s k else s)

/-- Take a port through training again. -/
def retrainPort (s : State) (k : Nat) : State :=
  trainPort (if (getPort s k).st = .up then portDown s k else setPState (setPort s k (downPort (getPort s k))) k .down) k

/-- A write of PORT_CTL (R471): REPLAY_TIMEOUT of at least 256, and RETRAIN. -/
def portCtlWrite (s : State) (k : Nat) (v : Word) : State :=
  let s := setPort s k { getPort s k with replayTimeout := BitVec.ofNat 16 (max 256 (bits v 47 32)) }
  if v.getLsbD 4 then retrainPort s k else s

/-- PORT_RETRAIN (R471). -/
def execPortRetrain (p : Fin 16) (v : BitVec 64) (s : State) : Result :=
  .next (if partWrites s .abut then portCtlWrite s p.val v else s)

/-! ## Losses -/

/-- MODULE_RETRAIN_DONE (R345): the module returns, or stays out and is reported. A loop-back holds it out while it runs (R419). -/
def execModuleRetrainDone (part : Part) (m : Nat) (r : TrainResult) (s : State) : Result :=
  .next (if ¬ (getMod s part m).out ∨ moduleLooped s part m then s
    else match modPort s part m with
      | none => s
      | some k =>
        let s := recordModule s k m r
        if joins r then setPort s k { getPort s k with mods := (getPort s k).mods.filter (fun n => n != m) ++ [m] } else s)

/-- KA_TX_READY_FALL (R432): a fall in the middle of a flit takes the module out of the striping; the flit is resent. -/
def execKaTxReadyFall (part : Part) (m : Nat) (s : State) : Result := .next (moduleOut s part m)

end Sys2Proof.Machine
end

