-- ==== Sys2Proof/Machine/Threads.lean ====
section
/-! DEFINITION. What ends a thread's waits (R184, R189 to R191, R208), the placement of tasks and of saved frames (R208,
R357), and the host's control of threads (R206, R462). -/

namespace Sys2Proof.Machine

/-! ## Ends of waits -/

/-- YIELD_END: after 16 KCLK cycles the thread continues at the next instruction. -/
def execYieldEnd (t : ThreadId) (s : State) : Result :=
  let x := getThr s t
  .next (if x.st = .waiting ∧ x.reason = .yield then retire s t (ready x) (x.pc + 4) else s)

/-- Whether a LOAD wait ends: the oldest load of a fifth load's wait has returned, or no awaited register is outstanding. -/
def loadWaitOver (x : Thread) : Bool :=
  decide (x.st = .waiting ∧ x.reason = .load) && x.amount != statWait &&
    (x.amount == 0 || !x.loads.any (fun q => q.live && x.amount.getLsbD q.rd.toNat))

/-- Whether a FENCE wait of the instruction itself ends (R191). -/
def fenceOver (x : Thread) : Bool :=
  decide (x.st = .waiting ∧ x.reason = .fence ∧ x.after = .resume) && x.loads.isEmpty && x.stores.isEmpty

/-- The value a returning load takes: that of its issue, or, where the bytes have changed since and no store of the thread
fixed it, that or the present one (R190: the bytes as they stood at one instant). -/
def returned (s : State) (q : LoadReq) : Word × State :=
  let now := loadValue q.bytes q.signed (leNat (memBytes s q.pa q.bytes))
  if q.fixed ∨ now = q.val then (q.val, s)
  else (if Config.freeBit s.free then q.val else now, { s with free := s.free + 1 })

/-- A load that is still outstanding when an earlier one of the thread returns: over the same bytes it sees no earlier instant than that
one, so it lets go of the value of its issue (R190, program order). -/
def notEarlier (s : State) (q p : LoadReq) : LoadReq :=
  if p.fixed ∨ ¬ overlap q.pa q.bytes p.pa p.bytes then p
  else { p with val := loadValue p.bytes p.signed (leNat (memBytes s p.pa p.bytes)) }

/-- A thread's record with its oldest load returned. -/
def landLoad (s : State) (x : Thread) (q : LoadReq) (v : Word) : Thread :=
  let x := { x with loads := (x.loads.drop 1).map (notEarlier s q) }
  if q.live then wrReg x q.rd v else x

/-- Whether a returning load is poisoned: as its READ was answered, or as the own stack last read (R271, R415). -/
def loadPoisoned (s : State) (q : LoadReq) : Bool := q.poison || (!isFar s q.pa && poisoned s q.pa q.bytes)

/-- A thread's record halted at an access that failed after its issue, the destination unwritten. -/
def haltedAt (x : Thread) (cause : Byte) (pc : Word) : Thread := { halted x cause false .precise with pc := pc }

/-- A poisoned load halts its thread at the load (R415). -/
def poisonLoad (s : State) (t : ThreadId) (x : Thread) (q : LoadReq) : State :=
  leaseReport (setThr s t (haltedAt { x with loads := x.loads.drop 1 } 0x60 q.pc)) x.lease 0x60 (some t) false true q.pc q.w
    q.va 0x40

/-- The position of the first saved frame that ran on a thread and still satisfies a condition. -/
def frameOf (s : State) (t : ThreadId) (p : Frame → Bool) : Option (Nat × Nat) :=
  (List.range 16).findSome? (fun l =>
    ((getRt s l).frames.findIdx? (fun f => decide (f.home = t) && p f)).map (fun k => (l, k)))

/-- Replace a saved frame. -/
def setFrame (s : State) (l k : Nat) (f : Frame) : State :=
  setRt s l { getRt s l with frames := (getRt s l).frames.set k f }

/-- The oldest load of a saved frame returns (R208). -/
def frameLoad (s : State) (l k : Nat) (f : Frame) (q : LoadReq) : State :=
  if q.far.isSome then s
  else if loadPoisoned s q then
    leaseReport (setFrame s l k { f with thr := haltedAt { f.thr with loads := f.thr.loads.drop 1 } 0x60 q.pc }) l 0x60
      (some f.home) false true q.pc q.w q.va 0x40
  else
    let r := returned s q
    setFrame r.2 l k { f with thr := landLoad s f.thr q r.1 }

/-- LOAD_RETURN (R190): the oldest load of the thread returns, into its register or its saved frame (R208), and ends the
waits it was awaited by. A load whose READ is not answered has not returned (R348). -/
def execLoadReturn (t : ThreadId) (s : State) : Result :=
  let x := getThr s t
  .next (match x.loads with
    | q :: _ =>
      if q.far.isSome then s
      else if loadPoisoned s q then poisonLoad s t x q
      else
        let r := returned s q
        let x := landLoad s x q r.1
        if loadWaitOver x then setThr r.2 t (ready x)
        else if fenceOver x then retire r.2 t (ready x) (x.pc + 4)
        else setThr r.2 t x
    | [] =>
      match frameOf s t (fun f => !f.thr.loads.isEmpty) with
      | none => s
      | some (l, k) =>
        match (getRt s l).frames[k]? with
        | none => s
        | some f => match f.thr.loads with
          | [] => s
          | q :: _ => frameLoad s l k f q)

/-- Whether every frame of a lease is written and no thread of it is left in hardware. -/
def allSaved (s : State) (l : Nat) : Bool :=
  (getRt s l).frames.all (·.written) &&
    allThreads.all (fun t => (getThr s t).st = .free || decide ((getThr s t).lease ≠ l))

/-- End a SUSPEND once every frame stands in the context area and every thread is FREE (R206, R363). -/
def endSuspend (s : State) (l : Nat) : State :=
  if lstate s l = .suspended ∧ (getCtl s l).busy ∧ (getRt s l).cmd = 2 ∧ allSaved s l then
    setCtl (setRt s l { getRt s l with cmd := 0, saving := false }) l { getCtl s l with busy := false }
  else s

/-- The oldest store of a thread is acknowledged, unless its WRITE is not answered (R348): STORE, FENCE and EXIT waits that it was the
last of end, a KILL completes, and a restored thread may issue (R206, R208). -/
def storeAcked (s : State) (t : ThreadId) (x : Thread) (rest : List StoreReq) : State :=
  let x := { x with stores := rest }
  if rest.isEmpty ∧ x.st = .waiting ∧ x.reason = .fence ∧ x.after = .leave then endSuspend (setThr s t (freed x)) x.lease
  else
    let x := if rest.isEmpty then { x with storeHold := false } else x
    if x.st = .waiting ∧ x.reason = .store then setThr s t (ready x)
    else if fenceOver x then retire s t (ready x) (x.pc + 4)
    else setThr s t x

/-- STORE_ACK (R191). -/
def execStoreAck (t : ThreadId) (s : State) : Result :=
  let x := getThr s t
  .next (match x.stores with
    | q :: rest => if q.far.isSome then s else storeAcked s t x rest
    | [] =>
      match frameOf s t (fun f => !f.thr.stores.isEmpty) with
      | none => s
      | some (l, k) =>
        match (getRt s l).frames[k]? with
        | none => s
        | some f =>
          if (f.thr.stores.head?).any (fun q => q.far.isSome) then s
          else setFrame s l k { f with thr := { f.thr with stores := f.thr.stores.drop 1 } })

/-! ## Answers to the READs and WRITEs of threads (R322, R348) -/

/-- Change the record that holds an access: of a thread in hardware, or of a saved frame. -/
def onHolder (s : State) (has : Thread → Bool) (f : Thread → Thread) : State :=
  match allThreads.find? (fun t => has (getThr s t)) with
  | some t => setThr s t (f (getThr s t))
  | none =>
    match (List.range 16).findSome? (fun l =>
        ((getRt s l).frames.findIdx? (fun r => has r.thr)).map (fun k => (l, k))) with
    | none => s
    | some (l, k) => match (getRt s l).frames[k]? with
      | none => s
      | some r => setFrame s l k { r with thr := f r.thr }

def farLoad (tag : Nat) (x : Thread) : Bool := x.loads.any (fun q => q.far == some tag)
def farStore (tag : Nat) (x : Thread) : Bool := x.stores.any (fun q => q.far == some tag)

/-- The READ of a load is answered: its bytes, or poison (R415). -/
def loadAnswered (s : State) (tag : Nat) (bad : Bool) (bs : List Byte) : State :=
  onHolder s (farLoad tag) (fun x => { x with loads := x.loads.map (fun q =>
    if q.far = some tag then { q with far := none, fixed := true, poison := bad
                                      val := loadValue q.bytes q.signed (leNat (bs.take q.bytes)) } else q) })

/-- The WRITE of a store is answered. -/
def storeAnswered (s : State) (tag : Nat) : State :=
  onHolder s (farStore tag) (fun x => { x with stores := x.stores.map (fun q =>
    if q.far = some tag then { q with far := none } else q) })

/-- Halt what holds an access whose path faulted, with PC at the access (R322; log entry 74). A KILLED thread and one already HALTED keep
their state. -/
def pathFault (s : State) (has : Thread → Bool) (drop : Thread → Thread) (pc va : Word) (w : Half) (kind : Word) : State :=
  let halt := fun (x : Thread) =>
    if x.killed ∨ x.st = .halted ∨ x.after = .leave then drop x else haltedAt (drop x) 0x06 pc
  match allThreads.find? (fun t => has (getThr s t)) with
  | some t =>
    let x := getThr s t
    leaseReport (setThr s t (halt x)) x.lease 0x06 (some t) false (decide ((halt x).st = .halted)) pc w va kind
  | none =>
    match (List.range 16).findSome? (fun l =>
        ((getRt s l).frames.findIdx? (fun r => has r.thr)).map (fun k => (l, k))) with
    | none => s
    | some (l, k) => match (getRt s l).frames[k]? with
      | none => s
      | some r => leaseReport (setFrame s l k { r with thr := halt r.thr }) l 0x06 (some r.home) false true pc w va kind

/-- A thread's access was answered UNREACHABLE (R322): it is treated as a fault of its path. -/
def accessUnreachable (s : State) (tag : Nat) : State :=
  let all := allThreads.map (getThr s) ++ ((List.range 16).map (fun l => (getRt s l).frames.map (·.thr))).flatten
  match all.findSome? (fun x => x.loads.find? (fun q => q.far == some tag)) with
  | some q => pathFault s (farLoad tag) (fun x => { x with loads := x.loads.filter (fun p => p.far != some tag) }) q.pc q.va q.w 1
  | none => match all.findSome? (fun x => x.stores.find? (fun q => q.far == some tag)) with
    | some q => pathFault s (farStore tag) (fun x => { x with stores := x.stores.filter (fun p => p.far != some tag) }) q.pc q.va q.w 2
    | none => s

/-- Add a line to an instruction cache of 64 KiB, 1,024 lines (R189): in a full cache a free choice gives way. -/
def addLine (k : Core) (ln : ICLine) (free : Nat) : Core × Nat :=
  if k.icache.length < 1024 then ({ k with icache := ln :: k.icache }, free)
  else ({ k with icache := ln :: k.icache.eraseIdx (Config.freeNat free % 1024) }, free + 1)

/-- A line of code arrives: it enters the cache, and the fetch goes on. -/
def lineArrives (s : State) (t : ThreadId) (line pa : Nat) : State :=
  let x := getThr s t
  let a := addLine (getCore s t.core.val) ⟨x.lease, line, memBytes s pa 64⟩ s.free
  fetchNext (setThr (setCore { s with free := a.2 } t.core.val a.1) t (ready x)) t

/-- ICACHE_LINE_ARRIVE (R189, R192): the line a thread waits for is translated through the instruction TLB and arrives; a
page not mapped executable is a precise fetch fault, as is a path that faults (R322). Code in another endpoint's memory is read first, and
arrives when the command comes after the answer (R16). -/
def execIcacheLineArrive (t : ThreadId) (s : State) : Result :=
  let x := getThr s t
  .next (if ¬ (x.st = .waiting ∧ x.reason = .fetch) then s
    else match missingLine s t with
      | none => fetchNext (setThr s t (ready x)) t
      | some line =>
        let va : Word := BitVec.ofNat 64 (64 * line)
        let first := decide (line = x.pc.toNat / 64)
        let w := if first then 0 else (cachedWord (getCore s t.core.val) x.lease x.pc).getD 0
        let r := codeXlate s t va w
        let fault := fun (s : State) => preciseFault s t 0x05 (if first then x.pc else va) 0 w
        match r.1 with
        | .wait => r.2
        | .no => fault r.2
        | .at pa =>
          if ¬ inMap r.2 pa 64 then fault r.2
          else if farWaits r.2 x.lease pa 64 then farRead r.2 (accOf r.2 x.lease) pa 64
          else if cutOff r.2 pa 64 then fault (farTake r.2 x.lease pa 64)
          else lineArrives (farTake r.2 x.lease pa 64) t line pa)

/-! ## Save and restore of frames (R208) -/

/-- A thread as its frame keeps it: its return stack is not saved, and an instruction waiting in LOAD, FETCH, FENCE, STORE
or QUEUE runs again on restore. -/
def savedThread (x : Thread) : Thread := { x with ras := [], killed := false, storeHold := false }

/-- A restored thread: READY at its instruction unless it was HALTED or in a COUNTER, BEAT or YIELD wait. -/
def restoredThread (x : Thread) (refused : Bool) : Thread :=
  let y := { x with storeHold := !x.stores.isEmpty, refused := refused }
  if x.st = .waiting ∧ x.reason ≠ .counter ∧ x.reason ≠ .beat ∧ x.reason ≠ .yield then ready y else y

/-- Whether a thread is FREE on a core in service. -/
def freeThread (s : State) (t : ThreadId) : Bool :=
  decide ((getThr s t).st = .free) && s.eng.coresOk.getLsbD t.core.val

/-- The thread a frame is restored onto: the lowest FREE one of its core, else the first FREE one in order (R208). -/
def restoreTarget (s : State) (f : Frame) : Option ThreadId :=
  match allThreads.find? (fun t => t.core == f.home.core && freeThread s t) with
  | some t => some t
  | none => allThreads.find? (freeThread s)

/-- The frame of a lease to restore next: each core's go in save order, and one whose loads have not returned waits for them (R208). -/
def restoreIdx (fs : List Frame) : Option Nat :=
  (List.range fs.length).find? (fun k => match fs[k]? with
    | none => false
    | some f => f.thr.loads.isEmpty && (fs.take k).all (fun e => e.home.core != f.home.core))

/-- Restore the next frame of a lease, where a thread is FREE. -/
def restoreFrame (s : State) (l : Nat) : Option State :=
  let rt := getRt s l
  match restoreIdx rt.frames with
  | none => none
  | some k =>
    match rt.frames[k]? with
    | none => none
    | some f =>
      (restoreTarget s f).map (fun t =>
        let s := setRt s l { rt with frames := rt.frames.eraseIdx k }
        fetchNext (setThr s t (restoredThread f.thr (getThr s t).refused)) t)

/-- Restore frames of a lease while threads are FREE. -/
def restoreFrames (l : Nat) : Nat → State → State
  | 0, s => s
  | n + 1, s => match restoreFrame s l with
    | some s' => restoreFrames l n s'
    | none => s

/-- Frames in a core's save buffer. -/
def bufferCount (s : State) (c : Nat) : Nat :=
  sumL ((List.range 16).map (fun l =>
    ((getRt s l).frames.filter (fun f => decide (f.home.core.val = c) && !f.written)).length))

/-- Save one thread of a lease: its frame enters the save buffer and the thread is FREE. -/
def saveThread (s : State) (l : Nat) (t : ThreadId) : State :=
  let x := getThr s t
  let rt := getRt s l
  let pos := if rt.frames.isEmpty then 0 else maxL (rt.frames.map (·.pos)) + 1
  let s := setRt s l { rt with frames := rt.frames ++ [{ thr := savedThread x, home := t, written := false, pos := pos }] }
  setThr s t (freed x)

/-- The threads of a lease to be saved on a core, in ascending order: a KILLED one is not saved, and becomes FREE once its stores are
acknowledged (R206). -/
def heldOn (s : State) (l c : Nat) : List ThreadId :=
  allThreads.filter (fun t => decide (t.core.val = c) && (getThr s t).st ≠ .free && !(getThr s t).killed &&
    decide ((getThr s t).lease = l))

/-- Save up to n threads of a lease on a core while its save buffer holds fewer than `room` frames. -/
def saveSome (s : State) (l c n room : Nat) : State :=
  ((heldOn s l c).take n).foldl (fun s t => if bufferCount s c < room then saveThread s l t else s) s

/-- The background save of a lease being saved: it leaves two buffer entries of each core free (R363). -/
def backgroundSave (s : State) (l c : Nat) : State := if (getRt s l).saving then saveSome s l c 16 6 else s

/-- The instructions that a core offers for a thread, in issue order. -/
def offersOf (s : State) (t : ThreadId) : List SpanI := (getCore s t.core.val).offers.filter (fun i => i.th == t)

/-- Where a thread stands once it has issued an instruction. -/
def pcAfter (i : SpanI) : Word := if i.op = .slotStat then i.pc else i.pc + BitVec.ofNat 64 (4 * wordCount i.w0)

/-- Whether a thread that stands at a PC has issued nothing beside a run of instructions, so that they can return to it. -/
def unwinds : List SpanI → Word → Bool
  | [], _ => true
  | [i], pc => pcAfter i == pc
  | i :: j :: r, pc => pcAfter i == j.pc && unwinds (j :: r) pc

/-- Return a thread's instructions that have not crossed: it waits in QUEUE at the first of them, from which it issues them again. Where no
thread is there to take them back, or theirs has executed others since, which would then execute twice, they cross (R27, R198; log
entry 9). -/
def takeBack (s : State) (t : ThreadId) : State :=
  match offersOf s t with
  | [] => s
  | i :: r =>
    match (issuer s i).filter (fun u => unwinds (i :: r) (getThr s u).pc) with
    | some u => setThr ((i :: r).foldl (fun s j => popOffer s t.core.val j) s) u
        { waiting (getThr s u) .queue 0 (BitVec.ofNat 64 (queueOf i.op)) with pc := i.pc }
    | none => (i :: r).foldl (fun s j => crossOne s t.core.val j) s

/-- The next n winners of the arbitration (R199). -/
def winners : Nat → State → List (Nat × SpanI)
  | 0, _ => []
  | n + 1, s => match arbitrate s with
    | some (c, i) => (c, i) :: winners n (popOffer { s with rrCore := c } c i)
    | none => []

/-- Settle a lease's instructions that have not crossed before its threads are saved (R363): those that win the arbitration in cycles 0 to
4, one in each, cross; the others return to their threads, which are saved waiting in QUEUE. -/
def settleOffers (s : State) (l : Nat) : State :=
  let s := (winners 5 s).foldl (fun s ci => if ci.2.lease = l then crossOne s ci.1 ci.2 else s) s
  allThreads.foldl (fun s t => if (offersOf s t).any (fun i => i.lease == l) then takeBack s t else s) s

/-- SAVE_BUFFER_WRITE (R208): the oldest frame of a core's save buffer whose loads have all returned is written to its
lease's context area; the place it leaves takes the next frame of a lease being saved. A SUSPEND ends when every frame is
written (R363). -/
def execSaveBufferWrite (c : Fin 4) (s : State) : Result :=
  let pick := (List.range 16).findSome? (fun l =>
    ((getRt s l).frames.findIdx? (fun f => decide (f.home.core = c) && !f.written && f.thr.loads.isEmpty)).map
      (fun k => (l, k)))
  .next (match pick with
    | none => s
    | some (l, k) =>
      match (getRt s l).frames[k]? with
      | none => s
      | some f =>
        if s.eng.mode = 3 then s
        else
          let s := spanWrite s (accOf s l) (frameAddr s l f.pos) (wordBytes (frameWords f.thr f.home))
          let s := setFrame s l k { f with written := true }
          endSuspend ((List.range 16).foldl (fun s l => backgroundSave s l c.val) s) l)

/-! ## Placement (R356 to R359) -/

/-- Hardware threads a lease holds. -/
def threadsHeld (s : State) (l : Nat) : Nat :=
  (allThreads.filter (fun t => (getThr s t).st ≠ .free && decide ((getThr s t).lease = l))).length

/-- Whether an instance of a task exists, in hardware or saved. -/
def taskLive (s : State) (l k : Nat) : Bool :=
  allThreads.any (fun t => (getThr s t).st ≠ .free && decide ((getThr s t).lease = l ∧ (getThr s t).task = k)) ||
    (getRt s l).frames.any (fun f => decide (f.thr.task = k))

/-- Whether a task of a lease is a candidate (R357). -/
def candidate (s : State) (l k : Nat) : Bool :=
  match (getRt s l).tasks[k]? with
  | none => false
  | some e => e.enable && !taskLive s l k && decide (lstate s l = .resident) && !(getRt s l).saving &&
      decide (threadsHeld s l < threadLimit s l) && decide (e.amount.toNat ≤ avail (getCnt s e.cnt.toNat))

/-- The first candidate in placement order. -/
def nextCandidate (s : State) : Option (Nat × Nat) :=
  (leaseOrder s 0).findSome? (fun l => ((List.range 16).find? (candidate s l)).map (fun k => (l, k)))

/-- A fresh thread of a task: its PC, ARG1 to ARG4 in g1 to g4, every other register 0 (R182). -/
def taskThread (e : Task) (l k inst : Nat) (refused : Bool) : Thread :=
  let x : Thread := { pc := e.entry, st := .ready, lease := l, task := k, inst := inst, refused := refused }
  [0, 1, 2, 3].foldl (fun x n => wrReg x (BitVec.ofNat 5 (n + 1)) (e.args.toList.getD n 0)) x

/-- Place a task on a thread: the take from its start counter, and the fetch of its entry. -/
def placeTask (s : State) (l k : Nat) (t : ThreadId) : State :=
  match (getRt s l).tasks[k]? with
  | none => s
  | some e =>
    let s := unitTake s e.cnt.toNat (e.amount.setWidth 64)
    let rt := getRt s l
    let s := serve (setRt s l { rt with nextInst := rt.nextInst + 1 }) 0 l
    fetchNext (setThr s t (taskThread e l k rt.nextInst (getThr s t).refused)) t

/-- A RESIDENT lease with a saved frame that can be restored, in placement order (R208, R411). -/
def waitingFrames (s : State) : Option Nat :=
  (leaseOrder s 0).find? (fun l => decide (lstate s l = .resident) && !(getRt s l).saving &&
    (restoreIdx (getRt s l).frames).isSome)

/-- TASK_PLACEMENT (R357): the first candidate goes onto the first FREE thread in core-then-thread order. A saved frame of a
RESIDENT lease that waits for a thread goes before it (R208, R411). -/
def execTaskPlacement (s : State) : Result :=
  .next (if stopping s then s
    else match (waitingFrames s).bind (restoreFrame s) with
      | some s' => s'
      | none =>
        match nextCandidate s, allThreads.find? (freeThread s) with
        | some (l, k), some t => placeTask s l k t
        | _, _ => s)

/-! ## Host control of threads (R206, R462) -/

/-- Set THREAD_CTL.REFUSED. -/
def refuseThread (s : State) (t : ThreadId) : State := setThr s t { getThr s t with refused := true }

/-- A halted thread made READY at a PC. -/
def unhalt (s : State) (t : ThreadId) (pc : Word) : State :=
  let x := getThr s t
  retire s t { ready x with haltCause := 0, imprecise := false, haltKind := .none } pc

/-- The words of the instruction at a halted thread's PC, as the cache or memory shows it; one where neither does. -/
def wordsAt (s : State) (t : ThreadId) : Nat :=
  let x := getThr s t
  let w := match cachedWord (getCore s t.core.val) x.lease x.pc with
    | some w => some w
    | none => (walk s x.lease x.pc).map (fun e => BitVec.ofNat 32 (leNat (memBytes s (physOf e x.pc) 4)))
  match w with
  | some w => if knownWord w then wordCount w else 1
  | none => 1

def doThreadResume (s : State) (t : ThreadId) : State :=
  let x := getThr s t
  if x.st = .halted ∧ x.haltKind = .precise then unhalt s t x.pc else refuseThread s t
def doThreadSkip (s : State) (t : ThreadId) : State :=
  let x := getThr s t
  if x.st = .halted ∧ (x.haltKind = .precise ∨ x.haltKind = .trap) then
    unhalt s t (x.pc + BitVec.ofNat 64 (4 * wordsAt s t))
  else refuseThread s t
def doThreadRestart (s : State) (t : ThreadId) : State :=
  let x := getThr s t
  if x.st = .halted then unhalt s t x.pc else refuseThread s t
/-- KILL: FREE once the outstanding stores are acknowledged; issued span instructions are unaffected. -/
def doThreadKill (s : State) (t : ThreadId) : State :=
  let x := getThr s t
  if x.st = .free then s
  else if x.stores.isEmpty then setThr s t (freed x)
  else setThr s t (waiting { x with loads := [], killed := true, haltCause := 0, imprecise := false, haltKind := .none }
    .fence (after := .leave))

def execThreadResume (t : ThreadId) (s : State) : Result := .next (if s.eng.scrubDone then doThreadResume s t else s)
def execThreadSkip (t : ThreadId) (s : State) : Result := .next (if s.eng.scrubDone then doThreadSkip s t else s)
def execThreadRestart (t : ThreadId) (s : State) : Result := .next (if s.eng.scrubDone then doThreadRestart s t else s)
def execThreadKill (t : ThreadId) (s : State) : Result := .next (if s.eng.scrubDone then doThreadKill s t else s)

/-- A host write in a thread's window (R462): G1 to G31 and an aligned PC of a HALTED thread; anything else sets REFUSED. -/
def frameWrite (s : State) (t : ThreadId) (off : Nat) (v : Word) : State :=
  let x := getThr s t
  if x.st = .halted ∧ off < 0xF8 ∧ off % 8 = 0 then
    setThr s t { x with g := Tab.set 0 x.g (off / 8 + 1) v, ue := x.ue &&& ~~~((1 : Half) <<< (off / 8 + 1)) }
  else if x.st = .halted ∧ off = 0xF8 ∧ v.toNat % 4 = 0 then setThr s t { x with pc := v }
  else refuseThread s t

/-- A host write of THREAD_CTL (R462): REFUSED is W1C, then the action; values other than 1 to 4 set REFUSED (log entry 10). -/
def threadCtlWrite (s : State) (t : ThreadId) (v : Word) : State :=
  let s := if v.getLsbD 3 then setThr s t { getThr s t with refused := false } else s
  match bits v 2 0 with
  | 1 => doThreadResume s t
  | 2 => doThreadSkip s t
  | 3 => doThreadRestart s t
  | 4 => doThreadKill s t
  | _ => refuseThread s t

def execThreadFrameWrite (t : ThreadId) (off : BitVec 9) (v : BitVec 64) (s : State) : Result :=
  .next (if ¬ s.eng.scrubDone then s
    else if off = 0x1F8 then threadCtlWrite s t v
    else if off.toNat < 0x110 then frameWrite s t off.toNat v else s)

end Sys2Proof.Machine
end

