-- ==== Sys2Proof/Machine/Fabric.lean ====
section
/-! DEFINITION. Kilile packets at their destination (R313, R314, R321 to R323, R336, R348, R349): memory traffic of the Pier
and over CXL, signals, responses, reports on their way out (R203, R205), and Ethernet frames (R346, R347). -/

namespace Sys2Proof.Machine

/-! ## The router and its table of answers -/

/-- Whether a packet is a plain register request, which an unaddressed engine set discards (R315). -/
def plainMgmt (pk : Packet) : Bool := pk.typ == 0x11 || pk.typ == 0x12

/-- Whether a packet has a command of its own at a router, whatever its DEST says. -/
def linkLocal (pk : Packet) : Bool := grouped pk || pk.typ == 0x0E || pk.typ == 0x14 || pk.typ == 0x15

/-- Whether a failed engine set still takes a packet from a port: register reads from its Abutment's host port alone (R403). -/
def failedTakes (s : State) (p : Nat) (pk : Packet) : Bool := !s.eng.startFail || (decide (p = 1) && pk.typ == 0x11 && isOwn s pk.dest)

/-- ROUTER_FORWARD (R315, R320, R330). -/
def execRouterForward (p : Fin 16) (pk : Packet) (s : State) : Result :=
  .next (if linkLocal pk ∨ ¬ failedTakes s p.val pk then s
    else
      let s := takeRx s pk
      if plainMgmt pk ∧ ¬ addressed s then fabDiscard s else routePacket s p.val pk)

/-- DEDUP_EXPIRY (R323): entries made 16,384 cycles ago or earlier expire. -/
def execDedupExpiry (s : State) : Result :=
  .next { s with abut := { s.abut with dedup := s.abut.dedup.filter (fun d => decide (s.now < d.made + 16384)) } }

/-- Whether an engine set's own endpoint accepts a packet of a type (R315); a failed engine set's accept none of these (R403). -/
def arrives (s : State) (pk : Packet) (typ : Nat) : Bool :=
  decide (pk.typ.toNat = typ) && addressed s && isOwn s pk.dest && !s.eng.startFail

/-- Send a packet of this engine set's endpoint again, as a duplicate's stored answer (R323). -/
def answerAgain (s : State) (pk : Packet) : Option State := (dedupHit s pk).map (sendPacket s)

/-- Answer a request that its endpoint cannot deliver (R322): the reason is left open where the endpoint exists. -/
def cannotServe (s : State) (pk : Packet) : State :=
  let e := epOf pk.dest
  if 3 ≤ e ∧ e < 8 then unreachableFor s pk 5
  else if 8 ≤ e then routePacket s 15 pk
  else let r := drawNat s; unreachableFor r.2 pk (1 + r.1 % 5)

/-! ## CXL.mem (R348, R349, R435) -/

/-- The lowest CXL tag that is not outstanding. -/
def cxlTag (s : State) : Option Nat := (List.range 4096).find? (fun t => !s.abut.cxl.any (fun r => r.tag == t))

/-- Request units of a job while tags are free; those that are not requested remain. -/
def cxlOffers (k : Nat) (write : Bool) : List Nat → State → List Nat × State
  | [], s => ([], s)
  | a :: t, s => match cxlTag s with
    | some tag => cxlOffers k write t { s with abut := { s.abut with cxl := s.abut.cxl ++ [⟨tag, a, write, k⟩] } }
    | none => (a :: t, s)

def getCxl (s : State) (k : Nat) : Option CxlJob := s.abut.cxlJobs.find? (fun j => j.k == k)
def putCxl (s : State) (j : CxlJob) : State :=
  { s with abut := { s.abut with cxlJobs := s.abut.cxlJobs.map (fun x => if x.k = j.k then j else x) } }
def dropCxl (s : State) (k : Nat) : State :=
  { s with abut := { s.abut with cxlJobs := s.abut.cxlJobs.filter (fun x => x.k != k)
                                 cxl := s.abut.cxl.filter (fun r => r.job != k) } }

/-- Whether a job writes. -/
def cxlWrites (j : CxlJob) : Bool := j.req.typ == 0x01

/-- Answer a job's request: a write's, or a read's with its bytes; AUX 2 where it failed. -/
def cxlAnswer (s : State) (j : CxlJob) (bad : Bool) : State :=
  let aux : BitVec 16 := if bad then 2 else 0
  let s := dropCxl s j.k
  if cxlWrites j then respond s j.req (ownAddr s 0) 0x02 aux []
  else respond s j.req (ownAddr s 0) 0x04 aux (memBytes s (pkAddr j.req) (pkLen j.req))

/-- Request what a job has left, and answer it once nothing is outstanding. -/
def pumpCxl (s : State) (k : Nat) : State :=
  match getCxl s k with
  | none => s
  | some j =>
    let r := cxlOffers k (cxlWrites j) j.todo s
    let j := { j with todo := r.1 }
    let s := putCxl r.2 j
    if r.1 = [] ∧ ¬ s.abut.cxl.any (fun r => r.job == k) then cxlAnswer s j (j.bad && !cxlWrites j) else s

/-- Enter a READ or WRITE in the CXL forwarder, a write with the bytes that it replaces. -/
def cxlStart (s : State) (pk : Packet) (ws : List (Nat × Byte)) : State :=
  let k := s.abut.nextJob
  let s' := memWrite s ws
  pumpCxl { s' with abut := { s'.abut with nextJob := k + 1, cxlJobs := s'.abut.cxlJobs ++
    [{ k := k, req := pk, todo := unitsOf (pkAddr pk) (pkLen pk), old := oldBytes s ws }] } } k

/-- CXL_RESPONSE (R349, R435): a unit of a request comes back, poisoned or not. -/
def execCxlResponse (tag : BitVec 12) (completion poison : Bool) (s : State) : Result :=
  .next (match s.abut.cxl.find? (fun r => r.tag == tag.toNat && r.write == completion) with
    | none => s
    | some r =>
      let s := { s with abut := { s.abut with cxl := s.abut.cxl.filter (fun x => x != r) } }
      let s := if poison then abutReport s 0x35 (BitVec.ofNat 64 r.unit) 1 else s
      let s := match getCxl s r.job with
        | some j => putCxl s { j with bad := j.bad || poison }
        | none => s
      (s.abut.cxlJobs.map (·.k)).foldl pumpCxl s)

/-- CXL_TIMEOUT (R349): a request that has stood CXL_TIMEOUT beats is answered with AUX 2 and reported. -/
def execCxlTimeout (tag : BitVec 12) (s : State) : Result :=
  .next (match s.abut.cxl.find? (fun r => r.tag == tag.toNat) with
    | none => s
    | some r => match getCxl s r.job with
      | none => s
      | some j =>
        if j.beats ≤ s.abut.cxlTimeout.toNat then s
        else
          let s := abutReport (cxlAnswer s j true) 0x35 (BitVec.ofNat 64 r.unit) 2
          (s.abut.cxlJobs.map (·.k)).foldl pumpCxl s)

/-- A beat edge counts against every CXL request. -/
def cxlBeat (s : State) : State :=
  { s with abut := { s.abut with cxlJobs := s.abut.cxlJobs.map (fun j => { j with beats := j.beats + 1 }) } }

/-! ## Memory traffic (R321, R179, R180) -/

/-- WRITE at its destination: the Pier's memory, or CXL memory at the Abutment. -/
def execWrite (pk : Packet) (s : State) : Result :=
  .next (if ¬ arrives s pk 0x01 then s
    else
      let s := takeRx s pk
      match answerAgain s pk with
      | some s' => s'
      | none =>
        let ws := addrBytes (pkAddr pk) ((pk.payload.drop 8).take (pkLen pk))
        match epOf pk.dest with
        | 0 => cxlStart s pk ws
        | 2 =>
          if ¬ partRuns s .pier then s
          else if offStack s (pkAddr pk) (pkLen pk) then cannotServe s pk else serveWrite s ws (pkAddr pk) (pkLen pk) (some pk)
        | _ => cannotServe s pk)

/-- The read burst that a READ asks for. -/
def burstOf (pk : Packet) : ReadBurst :=
  { addr := fld (payloadWord pk 0) 0 48, len := pkLen pk, domain := fld (payloadWord pk 1) 0 16
    rep := (payloadWord pk 1).getLsbD 16, lease := 0 }

/-- READ at its destination. -/
def execRead (pk : Packet) (s : State) : Result :=
  .next (if ¬ arrives s pk 0x03 then s
    else
      let s := takeRx s pk
      match answerAgain s pk with
      | some s' => s'
      | none =>
        match epOf pk.dest with
        | 0 => cxlStart s pk []
        | 2 =>
          if ¬ partRuns s .pier then s
          else if offStack s (pkAddr pk) (pkLen pk) then cannotServe s pk else serveRead s (burstOf pk) (some pk)
        | _ => cannotServe s pk)

/-- A run that a lease's READ asked for has been answered, whatever with: the unit that waits for it goes on at its next try. -/
def gotRun (s : State) (l pa len : Nat) : State :=
  if l < 16 then { s with net := { s.net with got := s.net.got ++ [(l, pa, len)] } } else s

/-- What a READ of a table, list or image was answered with (log entry 49): its bytes, or poison (R415). -/
def tableAnswered (s : State) (l pa len : Nat) (bad : Bool) (bs : List Byte) : State :=
  let s := gotRun s l pa len
  let s := { s with memGone := s.memGone.filter (fun u => !(unitsOf pa len).any (fun a => a / 64 == u)) }
  if bad then { s with memBad := s.memBad ++ ((unitsOf pa len).map (· / 64)).filter (fun u => !s.memBad.contains u) }
  else memWrite s (addrBytes pa bs)

/-- READ_RESP (R160, R348, R415): a stream burst's bytes, a load's or a table's; an uncorrectable response leaves them unwritten. -/
def execReadResp (pk : Packet) (s : State) : Result :=
  .next (if ¬ arrives s pk 0x04 then s
    else
      let s := takeRx s pk
      match outstanding s pk with
      | some (.burst c n k) =>
        streamPoll (completeBurst (answered s pk) c n k (decide (2 ≤ bits pk.aux 1 0)) (some pk.payload))
      | some (.load _) => loadAnswered (answered s pk) pk.tag.toNat (decide (2 ≤ bits pk.aux 1 0)) pk.payload
      | some (.table l pa len) => tableAnswered (answered s pk) l pa len (decide (2 ≤ bits pk.aux 1 0)) pk.payload
      | _ => answered s pk)

/-- WRITE_ACK (R160, R162, R258, R348): a stream's write, a scalar store, or a result or status word of an instruction is acknowledged. -/
def execWriteAck (pk : Packet) (s : State) : Result :=
  .next (if ¬ arrives s pk 0x02 then s
    else
      let s := takeRx s pk
      match outstanding s pk with
      | some (.burst c n k) => streamPoll (completeBurst (answered s pk) c n k false none)
      | some (.store _) => storeAnswered (answered s pk) pk.tag.toNat
      | some (.result u) => streamPoll (resultAcked (answered s pk) u)
      | _ => answered s pk)

/-! ## Signals (R336) -/

def sgAmount (pk : Packet) : Word := payloadWord pk 0
def sgLease (pk : Packet) : Nat := bits (payloadWord pk 1) 11 8
def sgCounter (pk : Packet) : Nat := bits (payloadWord pk 1) 7 0
def sgDomain (pk : Packet) : BitVec 16 := fld (payloadWord pk 1) 16 16

/-- The status of a signal: statuses 1 to 3 at the Abutment, 4 where it would break R249. A suspended lease's counters are
live (R266); a released one's are not (R263). -/
def signalStatus (s : State) (pk : Packet) : Nat :=
  let l := sgLease pk
  let st := lstate s l
  if stopping s ∨ st = .empty ∨ st = .releasing then 1
  else if ¬ cntInRange s l (sgCounter pk) then 2
  else if sgDomain pk ≠ cacheDomain s l ∧ epOf pk.src < 8 then 3
  else if (sigCnt (getCnt s (sgCounter pk)) (sgAmount pk)).isNone then 4
  else 0

/-- SIGNAL: applied where the status allows, and answered. -/
def execSignal (pk : Packet) (s : State) : Result :=
  .next (if ¬ arrives s pk 0x05 then s
    else
      let s := takeRx s pk
      match answerAgain s pk with
      | some s' => s'
      | none =>
        if epOf pk.dest ≠ 1 then cannotServe s pk
        else
          let st := signalStatus s pk
          let s := if st = 0 ∨ st = 4 then unitSignal s (sgCounter pk) (sgAmount pk) else s
          respond s pk (ownAddr s 1) 0x06 (BitVec.ofNat 16 st) [])

/-- SIGNAL_ACK, EVENT_ACK and MGMT_RESP end the request they answer; their requester has nothing more to do. -/
def plainAck (s : State) (pk : Packet) (typ : Nat) : State := if arrives s pk typ then answered (takeRx s pk) pk else s

def execSignalAck (pk : Packet) (s : State) : Result := .next (plainAck s pk 0x06)
def execEventAck (pk : Packet) (s : State) : Result := .next (plainAck s pk 0x08)
def execMgmtResp (pk : Packet) (s : State) : Result := .next (plainAck s pk 0x13)

/-- EVENT (R321): a report of another engine set; the host's endpoints take it by the host port, an own endpoint answers. -/
def execEvent (pk : Packet) (s : State) : Result :=
  .next (if ¬ arrives s pk 0x07 then s
    else
      let s := takeRx s pk
      match answerAgain s pk with
      | some s' => s'
      | none => if epOf pk.dest < 3 then respond s pk (ownAddr s (epOf pk.dest)) 0x08 0 [] else cannotServe s pk)

/-- An update command that is refused, by the Pier or for want of a path (R243, R278). -/
def updRefusedHere (s : State) (u : Nat) : State :=
  match getInstr s u with
  | some i => configFault (dropInstr s u) i 34 i.a
  | none => s

/-- An instruction's result or status word cannot reach its endpoint: the path faults, in place of the page (R322, R475), and the instruction
has no signal. -/
def resultLost (s : State) (u : Nat) : State :=
  match getInstr s u with
  | some i => if i.owes.isSome then faultInstr s i (.priv (i.c.toNat / 4096) 4) else s
  | none => s

/-- UNREACHABLE (R322): a stream's path faults and it halts, a thread's access faults, a table can no longer be read, an instruction's
result is lost, and an update command counts as refused. -/
def execUnreachable (pk : Packet) (s : State) : Result :=
  .next (if ¬ arrives s pk 0x10 then s
    else
      let s := takeRx s pk
      let s' := answered s pk
      match outstanding s pk with
      | some (.burst c n k) =>
        (match ctxOwner s c, getBurst (getStr s c) n k with
         | some l, some b =>
           haltStream (setStr s' c (setBurst (getStr s c) n k { b with issued := false })) l c n b.addr 0x10 0
         | _, _ => s')
      | some (.load _) | some (.store _) => accessUnreachable s' pk.tag.toNat
      | some (.table l pa len) =>
        gotRun { s' with memGone := s'.memGone ++ ((unitsOf pa len).map (· / 64)).filter (fun u => !s'.memGone.contains u) } l pa len
      | some (.result u) => streamPoll (resultLost s' u)
      | some (.upd u) => updRefusedHere s' u
      | _ => s')

/-! ## Reports on their way out (R203, R205) -/

/-- The 64-byte payload of a report. -/
def reportBytes (r : Report) : List Byte :=
  let th := match r.thread with | some t => t.core.val * 2 ^ 18 + t.num.val * 2 ^ 14 + 2 ^ 10 | none => 0
  let w0 := r.seq.toNat * 2 ^ 32 + r.cause.toNat * 2 ^ 24 + r.lease * 2 ^ 20 + th + (if r.imprecise then 2 ^ 13 else 0) +
    (if r.halted then 2 ^ 12 else 0) + (if r.engine then 2 ^ 11 else 0)
  leBytes 8 w0 ++ leBytes 8 r.pc.toNat ++ leBytes 8 r.instr.toNat ++ leBytes 8 r.detail0.toNat ++
    leBytes 8 r.detail1.toNat ++ leBytes 8 r.beat.toNat ++ List.replicate 16 0

/-- The destination of a report at the head of a part's queue: its own, its lease's, else the part's. -/
def reportDest (s : State) (part : Part) (r : Report) : BitVec 24 :=
  let fallback := match part with
    | .span => s.eng.eventDest
    | .pier => s.pier.eventDest
    | .abut => s.abut.eventDest
  let own := match r.dest with
    | some d => d
    | none => if r.engine then 0 else faultDest s r.lease
  if own = 0 then fallback else own

/-- The queue of a part's reports. -/
def repQueue (s : State) : Part → List Report
  | .span => s.repQ
  | .pier => s.pier.repQ
  | .abut => s.abut.repQ
/-- Take the head of a part's queue. -/
def popReport (s : State) : Part → State
  | .span => { s with repQ := s.repQ.drop 1 }
  | .pier => { s with pier := { s.pier with repQ := s.pier.repQ.drop 1 } }
  | .abut => { s with abut := { s.abut with repQ := s.abut.repQ.drop 1 } }

/-- The endpoint that sends a part's packets (R314). -/
def partEp : Part → Nat
  | .span => 1
  | .pier => 2
  | .abut => 0

/-- REPORT_DEQUEUE: the head leaves as an EVENT once it has a destination and the engine set an address (R205, R315). -/
def execReportDequeue (part : Part) (s : State) : Result :=
  .next (match repQueue s part with
    | [] => s
    | r :: _ =>
      let d := reportDest s part r
      if d = 0 ∨ ¬ addressed s then s
      else sendRequest (popReport s part) (partEp part) 0x07 d 3 0 (reportBytes r) .event)

/-! ## Ethernet (R346, R347, R472) -/

/-- Whether a received frame is dropped. -/
def ethBad (s : State) (p : Nat) (fr : EthFrame) : Bool :=
  let n := bits fr.encap 55 48
  fr.control || fr.etype != (getPort s p).etype || fr.dst != s.abut.mac + BitVec.ofNat 48 (p - 6) || !fr.fcsOk ||
    decide (n = 0 ∨ 2 < n ∨ fr.flits.length ≠ n)

/-- ETH_FRAME: its flits, or a drop. -/
def execEthFrame (p : Fin 16) (fr : EthFrame) (s : State) : Result :=
  .next (if ¬ isEth p.val then s
    else if ethBad s p.val fr then event s 0x202 1 srcNone
    else fr.flits.foldl (fun s fl => receiveFlit s p.val 0 fl) s)

/-- A write of ETH_LINKCFG: ignored unless every Ethernet port is DOWN. -/
def linkcfgWrite (s : State) (v : Word) : State :=
  if (List.range 8).any (fun k => (getPort s (6 + k)).st ≠ .down) then s
  else { s with abut := { s.abut with linkCfg := fld v 0 2 } }

/-- ETH_LINKCFG. -/
def execEthLinkcfg (v : BitVec 64) (s : State) : Result :=
  .next (if partWrites s .abut then linkcfgWrite s v else s)

end Sys2Proof.Machine
end

