-- ==== Sys2Proof/Machine/Mcast.lean ====
section
/-! DEFINITION. The LINK queue's `MC.SEND` and `UPD.ISSUE` (R243, R244), multicast through the router and at the span (R337 to
R341), and ports that go DOWN (R333, R339). -/

namespace Sys2Proof.Machine

/-- The addressed bytes that a bound lease's write of a packet gives. -/
def recvAt (s : State) (l : Nat) (b : McBind) (pk : Packet) : Except MemErr (List (Nat × Byte)) × State :=
  writeVirt s (accOf s l) (b.dest.toNat + mdOff pk) (mdData pk)

/-- A bound lease's translation of a packet's place waits for a READ of a table entry: the state with the READ (R373). -/
def recvWaits (s : State) (pk : Packet) : Option State :=
  if ¬ addressed s then none
  else (bindings s (mdGroup pk)).findSome? (fun lb =>
    let r := recvAt s lb.1 lb.2 pk
    match r.1 with
    | .error .wait => some (keepGot s r.2)
    | _ => none)

/-- A bound lease writes a packet at its base plus offset; a page that is not mapped writable leaves it unwritten and
unanswered, until the branch is pruned. -/
def recvData (s : State) (l : Nat) (b : McBind) (pk : Packet) : State :=
  let r := writeVirt s (accOf s l) (b.dest.toNat + mdOff pk) (mdData pk)
  match r.1 with
  | .error _ => r.2
  | .ok ws =>
    let v := getRecv r.2 l (mdGroup pk) pk.src (mdMseq pk) (mdTotal pk)
    putRecv (spanWrites r.2 (accOf s l) ws) { v with arrived := v.arrived ++ [(mdOff pk, pk)], old := v.old ++ [(mdOff pk, oldBytes r.2 ws)] }

/-! ## `MC.SEND` at its span (R243, R338) -/

/-- Packets of a group that the span has sent and that are not acknowledged. -/
def mcOpen (s : State) (g : Nat) : Nat :=
  sumL ((s.mc.sends.filter (fun m => m.group == g)).map (fun m => m.sent - m.acked.length))

/-- Send the next packet of a message. A page that is no longer readable ends the instruction with its fault. -/
def sendMc (s : State) (m : McSend) : State :=
  match getInstr s m.u with
  | none => dropSend s m.u
  | some i =>
    let off := 4096 * m.sent
    let r := readVirt s (accI i) (i.a.toNat + off) (min 4096 (m.total - off))
    match r.1 with
    | .error .wait => keepGot s r.2
    | .error e => faultInstr (dropSend r.2 m.u) i (pageFault e)
    | .ok bs =>
      let head := leBytes 4 m.mseq.toNat ++ leBytes 4 off ++ leBytes 4 m.total ++ leBytes 4 0
      putSend (sendOneWay r.2 0x0D (BitVec.ofNat 24 m.group) m.lease i.cls (head ++ bs)) { m with sent := m.sent + 1 }

/-- Send packets of one message while its group's window allows and its bytes are there (R338). -/
def pumpSend (u : Nat) : Nat → State → State
  | 0, s => s
  | n + 1, s =>
    match s.mc.sends.find? (fun m => decide (m.u = u ∧ m.sent < mcPackets m) && decide (mcOpen s m.group < 64)) with
    | some m => pumpSend u n (sendMc s m)
    | none => s

/-- Send packets of every message, oldest first. -/
def pumpMc (s : State) : State := s.mc.sends.foldl (fun s m => pumpSend m.u 64 s) s

/-- Give a packet to the own span: a lease that binds the group writes it; with no binding it is discarded and answered. An unaddressed
endpoint takes none (R315). -/
def toSpan (s : State) (pk : Packet) : State :=
  let bs := bindings s (mdGroup pk)
  if ¬ addressed s then s
  else if bs = [] then branchAnswered s (mdGroup pk) pk.src (mdMseq pk) (mdOff pk) 0
  else bs.foldl (fun s lb => recvData s lb.1 lb.2 pk) s

/-- Pass a packet on by branches that are live, and remember whom to answer. -/
def fanOut (s : State) (arr : Nat) (pk : Packet) (branches : List Nat) : State :=
  let w : McWait := { group := mdGroup pk, pk := pk, mseq := mdMseq pk, off := mdOff pk, upPort := arr, waiting := branches }
  let others := s.mc.wait.filter (fun x => !waitIs x w.group pk.src w.mseq w.off)
  if branches = [] then answerUp { s with mc := { s.mc with wait := others } } w
  else
    let s := { s with mc := { s.mc with wait := others ++ [w] } }
    let on := branches.filter (fun p => p != 0)
    let s := on.foldl (fun s p => enqueue s ((branchPort s p).getD p) { pk with ttl := pk.ttl - 1 }) s
    if branches.contains 0 then toSpan s pk else s

/-- Whether a multicast packet is malformed (R320, R337). -/
def mcBad (pk : Packet) : Bool := decide (bits pk.dest 23 10 ≠ 0 ∨ pk.ttl.toNat ≤ 1) || badHeader pk

/-- MC_DATA at a router (R337, R338): up to the root, then down every live branch but that of its arrival. A link toward the root that is
not UP or does not carry multicast cannot take it (R322, R328). -/
def routeMc (s : State) (p : Nat) (pk : Packet) : State :=
  let g := mdGroup pk
  let w := mcEntry s g
  if mcBad pk ∨ ¬ meValid w then fabDiscard s
  else if ¬ meRoot w ∧ p ≠ meUp w then
    if branchLive s (meUp w) then fanOut s p pk [meUp w] else unreachableFor s pk (if portUp s (meUp w) then 4 else 2)
  else
    let lost := (prunedBranches s g).filter (fun q => q != p)
    let s := lost.foldl (fun s q => tellMissed s g q pk.src (mdMseq pk) (mdTotal pk)) s
    fanOut s p pk ((meDown w).filter (fun q => q != p && branchLive s q))

/-- Whether a router takes a packet of a group, or an answer: a failed engine set's takes none (R403). -/
def mcTakes (s : State) (pk : Packet) (typ : Nat) : Bool := decide (pk.typ.toNat = typ) && !s.eng.startFail

/-- MC_DATA. -/
def execMcData (p : Fin 16) (pk : Packet) (s : State) : Result :=
  .next (if ¬ mcTakes s pk 0x0D then s
    else match recvWaits s pk with
      | some t => t
      | none => routeMc (takeRx s pk) p.val pk)

/-- Whether writes of a lease's multicast data to other endpoints are not acknowledged (R338). -/
def recvOut (s : State) (l : Nat) : Bool :=
  s.net.out.any (fun e => e.2 == .other && decide (e.1 / 65536 = 1 ∧ Tab.get 0 s.net.whose (e.1 % 65536) = l + 1))

/-- Whether a lease at the span still has a write of a packet outstanding. -/
def spanBusy (s : State) (g : Nat) (src : BitVec 24) (mseq : Half) (off : Nat) : Bool :=
  s.mc.recv.any (fun r => r.group == g && r.src == src && r.mseq == mseq && r.arrived.any (fun a => a.1 == off))

/-- MC_DATA_WRITTEN (R338): a packet's write is acknowledged; it is answered, and the last byte of a message that was not
missed raises the bound counter by 1. -/
def execMcDataWritten (l : Fin 16) (g : BitVec 10) (mseq off : BitVec 32) (s : State) : Result :=
  .next (match s.mc.recv.find? (fun r => !recvOut s l.val && r.lease == l.val && r.group == g.toNat && r.mseq == mseq &&
      r.arrived.any (fun a => a.1 == off.toNat)) with
    | none => s
    | some r =>
      match r.arrived.find? (fun a => a.1 == off.toNat) with
      | none => s
      | some a =>
        let known := r.written.any (fun w => w.1 == a.1)
        let written := if known then r.written else r.written ++ [(a.1, (mdData a.2).length)]
        let whole := decide (r.total ≤ sumL (written.map (·.2))) && !r.done && !r.missed
        let old := r.old.eraseP (fun o => o.1 == a.1)
        let r' := { r with arrived := r.arrived.erase a, old := old, written := written, done := r.done || whole }
        let s := putRecv s r'
        let s := match whole, (bindings s g.toNat).find? (fun lb => lb.1 == l.val) with
          | true, some lb => unitSignal s lb.2.cnt.toNat 1
          | _, _ => s
        if spanBusy s g.toNat r.src mseq off.toNat then s
        else branchAnswered s g.toNat r.src mseq off.toNat 0)

/-! ## The LINK queue (R243, R244, R341) -/

/-- The group that an `MC.SEND` names. -/
def msGroup (i : SpanI) : Nat := bits i.w1 31 16

/-- Check 33 (R341), by the domain of the crossing (R376). -/
def check33 (s : State) (i : SpanI) : Bool :=
  let w := mcEntry s (msGroup i)
  decide (1023 < msGroup i) || !meValid w || meDomain w != i.dom

/-- Whether an `MC.SEND` has its turn: none before it of its lease and group waits or still sends (R244). -/
def mcTurn (s : State) (i : SpanI) : Bool :=
  !s.instrs.any (fun j => decide (j.op = .mcSend ∧ j.lease = i.lease ∧ j.u < i.u ∧ msGroup j = msGroup i) &&
    (decide (j.stage = .queued) || decide (i.b = 0) ||
      s.mc.sends.any (fun m => decide (m.u = j.u ∧ m.sent < mcPackets m))))

/-- Start an `MC.SEND`: its checks, its MSEQ, and its first packets (R338, R341). -/
def startMc (s : State) (i : SpanI) : State :=
  let m := armStatus s i
  let r := if statusWaits s i then (.error .wait, m.2.2)
    else if i.b = 0 then (.ok [], m.2.2) else readVirt m.2.2 (accI i) i.a.toNat i.b.toNat
  let page := match r.1 with
    | .error e => pageFault e
    | .ok _ => .ok
  match worst page (firstCheck 0 [(3, statusSkew i), (30, m.1), (33, check33 s i)]) with
  | .ok =>
    if i.b = 0 then finish r.2 m.2.1 { skipped := true } (sigList i)
    else
      let s := putInstr r.2 { m.2.1 with stage := .running }
      let key := 1024 * i.lease + msGroup i
      let n := Tab.get 0 s.mc.mseq key
      { s with mc := { s.mc with mseq := Tab.set 0 s.mc.mseq key (n + 1)
                                 sends := s.mc.sends ++ [{ u := i.u, lease := i.lease, group := msGroup i, mseq := n
                                                           total := i.b.toNat }] } }
  | bad => faultOr s r.2 i bad

/-- Start an `UPD.ISSUE`: its command goes to the Pier with the lease's number, domain and LEGACY bit attached, as they stood at the
crossing (R277, R376). The command names no other Pier than the engine set's own. -/
def startUpd (s : State) (i : SpanI) : State :=
  let m := armStatus s i
  let r := if statusWaits s i then (.error .wait, m.2.2) else readVirt m.2.2 (accI i) i.a.toNat 64
  if i.a.toNat % 64 ≠ 0 then faultInstr s i (.config 3 i.a)
  else
    let page := match r.1 with
      | .error e => pageFault e
      | .ok _ => .ok
    match worst page (firstCheck i.a [(3, statusSkew i), (30, m.1)]), r.1 with
    | .ok, .ok bs =>
      let s := putInstr r.2 { m.2.1 with stage := .running }
      let att : Word := b1 i.leg ++ (i.dom ++ (BitVec.ofNat 4 i.lease : BitVec 4)).setWidth 63
      let body := bs ++ leBytes 8 att.toNat
      addMeters (sendRequest s 1 0x0B (ownAddr s 2) i.cls 0 body (.upd i.u) i.lease) i.lease 0 0 body.length
    | bad, _ => faultOr s r.2 i bad

/-- Start what the LINK queue's heads allow. -/
def linkStep (s : State) (i : SpanI) : State :=
  match getInstr s i.u with
  | none => s
  | some i =>
    if i.stage ≠ .queued ∨ ¬ takes s i.lease then s
    else match i.op with
      | .mcSend => if mcTurn s i then startMc s i else s
      | .updIssue => startUpd s i
      | _ => s

/-- The LINK queue and the sends under way move on. -/
def linkPoll (s : State) : State :=
  if stopping s then s
  else
    pumpMc (s.instrs.foldl linkStep s)

/-- INSTRUCTION_CROSSING (R199), after which the streamers and the links take what they can. -/
def execInstructionCrossing (s : State) : Result := .next (if stopping s then s else linkPoll (streamPoll (crossing s)))

/-- UPD_RESP (R243, R321): the command is accepted and the instruction signals, or refused with check 34. -/
def execUpdResp (pk : Packet) (s : State) : Result :=
  .next (if ¬ arrives s pk 0x0C then s
    else
      let s := takeRx s pk
      match outstanding s pk with
      | some (.upd u) =>
        let s := answered s pk
        if pk.aux ≠ 0 then linkPoll (updRefusedHere s u)
        else match getInstr s u with
          | some i => linkPoll (finish s i {} (sigList i))
          | none => s
      | _ => answered s pk)

/-- MC_ACK at a router (R338): a branch's answer, or the root's on its way to the sender. -/
def execMcAck (p : Fin 16) (pk : Packet) (s : State) : Result :=
  .next (if ¬ mcTakes s pk 0x0E then s
    else if badHeader pk ∨ pk.ttl.toNat ≤ 1 then fabDiscard (takeRx s pk)
    else
      let s := takeRx s pk
      let g := bits pk.src 9 0
      match s.mc.wait.find? (fun w => waitIs w g pk.dest (mdMseq pk) (mdOff pk) &&
          w.waiting.any (fun q => q == p.val || branchPort s q == some p.val)) with
      | none => s
      | some w =>
        let q := (w.waiting.find? (fun q => q == p.val || branchPort s q == some p.val)).getD p.val
        linkPoll (branchAnswered s g pk.dest (mdMseq pk) (mdOff pk) q))

/-- The beat edges after which a branch's oldest packet has stood unanswered for more than 16 complete beats, or 24 where the
branch is no leaf (R339). -/
def pruneBeats (s : State) (g p : Nat) : Nat := if meLeaf (mcEntry s g) p then 18 else 26

/-- MC_PRUNE: a branch that has not answered in time, or whose port is DOWN and reached by no other (R339). -/
def execMcPrune (g : BitVec 10) (p : Fin 16) (s : State) : Result :=
  let w := mcEntry s g.toNat
  let late := s.mc.wait.any (fun x => x.group == g.toNat && x.waiting.contains p.val && decide (pruneBeats s g.toNat p.val ≤ x.beats))
  .next (if meValid w ∧ w.getLsbD p.val ∧ (late ∨ (¬ portUp s p.val ∧ (branchPort s p.val).isNone)) then
      linkPoll (prune s g.toNat p.val)
    else s)

/-- A beat edge counts against every packet that waits for its branches. -/
def mcBeat (s : State) : State :=
  { s with mc := { s.mc with wait := s.mc.wait.map (fun w => { w with beats := w.beats + 1 }) } }

/-- MISSED (R340): in the form of a group it goes down every live branch; at the span the lease is told. -/
def execMissed (p : Fin 16) (pk : Packet) (s : State) : Result :=
  .next (if ¬ mcTakes s pk 0x0F then s
    else
      let s := takeRx s pk
      let g := bits (payloadWord pk 1) 15 0
      let src : BitVec 24 := fld (payloadWord pk 1) 16 24
      let here := fun (s : State) => spanMissed s g src (mdMseq pk) (bits (payloadWord pk 0) 63 32)
      if pk.aux.getLsbD 0 then
        let w := mcEntry s (mdGroup pk)
        if mcBad pk ∨ ¬ meValid w then fabDiscard s
        else
          let down := (meDown w).filter (fun q => q != p.val && branchLive s q)
          let s := (down.filter (fun q => q != 0)).foldl (fun s q =>
            enqueue s ((branchPort s q).getD q) { pk with ttl := pk.ttl - 1 }) s
          if down.contains 0 then here s else s
      else if isOwn s pk.dest ∧ epOf pk.dest = 1 ∧ ¬ badPacket pk ∧ 1 < pk.ttl.toNat then here s
      else routePacket s p.val pk)

/-! ## Ports that go DOWN (R333, R339, R347) -/

/-- Take a port DOWN; what its branches no longer owe lets the sends of this span move on. -/
def loseLink (s : State) (k : Nat) : State :=
  if (getPort s k).st = .down ∨ (getPort s k).st = .training then s else linkPoll (portDown s k)

/-- PORT_LINK_DOWN (R333): 2,048 cycles without a good flit. -/
def execPortLinkDown (p : LinkId) (s : State) : Result := .next (loseLink s (linkKey p))

/-- SIGNAL_DETECT_LOSS (R347, R434). -/
def execSignalDetectLoss (lane : Fin 8) (s : State) : Result :=
  .next (loseLink { s with pins := { s.pins with sigDetect := s.pins.sigDetect &&& ~~~((1 : BitVec 8) <<< lane.val) } }
    (lanePort s lane.val))

end Sys2Proof.Machine
end

