-- ==== Sys2Proof/Machine/Lease.lean ====
section
/-! DEFINITION. The lease table, the memory map and the router's tables as host software commits them (R351, R352, R356, R360,
R452, R461, R473), run windows (R381) and meter records (R383). -/

namespace Sys2Proof.Machine

/-! ## Commit registers (R452) -/

/-- A write of a commit register in a cycle: SHADOW_LOCKED and REFUSED are W1C, and COMMIT requests a commit unless one is pending. -/
def commitWrite (g : CommitReg) (now : Nat) (v : Word) : CommitReg :=
  let g := if v.getLsbD 18 then { g with shadowLocked := false } else g
  let g := if v.getLsbD 17 then { g with refused := false } else g
  if v.getLsbD 16 ∧ ¬ g.pending then { g with pending := true, due := false, reqAt := now } else g

/-- A commit taken, and one refused: REFUSED is W1C, so that a commit taken leaves it (DEDUCED). -/
def commitTaken (g : CommitReg) : CommitReg := { g with pending := false, due := false, taken := g.taken + 1 }
def commitRefused (g : CommitReg) : CommitReg := { g with pending := false, due := false, refused := true }

/-- A beat makes due a pending commit that was requested in an earlier cycle (R453). -/
def commitDue (g : CommitReg) (now : Nat) : CommitReg := { g with due := g.due || (g.pending && decide (g.reqAt < now)) }

/-- The commit registers as addresses: LEASE_GENERATION and MAP_GENERATION of the span, ROUTER_GENERATION of the Abutment. -/
def leaseGenAt : Nat := 0x2880
def mapGenAt : Nat := 0x3300
def routerGenAt : Nat := 0x40008

/-- A write of LEASE_GENERATION: the bits that the hardware sets in the same cycle stay set (R9). -/
def leaseGenWrite (s : State) (v : Word) : State :=
  { s with lease := { s.lease with gen := commitWrite s.lease.gen s.now (w1c s .span leaseGenAt v) } }

/-- A write of MAP_GENERATION. -/
def mapGenWrite (s : State) (v : Word) : State :=
  { s with map := { s.map with gen := commitWrite s.map.gen s.now (w1c s .span mapGenAt v) } }

/-- A write of ROUTER_GENERATION. -/
def routerGenWrite (s : State) (v : Word) : State :=
  { s with abut := { s.abut with gen := commitWrite s.abut.gen s.now (w1c s .abut routerGenAt v) } }

/-! ## Task tables and multicast bindings (R356, R360) -/

/-- Bytes of a physical table; none where it lies in no window, is poisoned or cannot be reached. -/
def physTable (s : State) (a n : Nat) : Option (List Byte) :=
  if inMap s a n ∧ ¬ poisoned s a n ∧ ¬ cutOff s a n then some (memBytes s a n) else none

/-- Whether a task entry breaks R356 for a counter range. -/
def taskBad (base count : Nat) (w : List Word) : Bool :=
  let c := w.getD 5 0
  decide (bits c 63 41 ≠ 0 ∨ w.getD 6 0 ≠ 0 ∨ w.getD 7 0 ≠ 0) ||
    (c.getLsbD 40 && decide ((w.getD 0 0).toNat % 4 ≠ 0 ∨ bits c 39 8 = 0 ∨ bits c 7 0 < base ∨ base + count ≤ bits c 7 0))

/-- A task entry. -/
def taskOf (w : List Word) : Task :=
  let c := w.getD 5 0
  { entry := w.getD 0 0, args := #v[w.getD 1 0, w.getD 2 0, w.getD 3 0, w.getD 4 0], enable := c.getLsbD 40
    amount := fld c 8 32, cnt := fld c 0 8 }

/-- A task table: its entries, or the index of the first that breaks R356. -/
def readTasks (s : State) (a n base count : Nat) : Except Nat (List Task) :=
  match physTable s a (64 * n) with
  | none => if n = 0 then .ok [] else .error 0
  | some bs =>
    let es := (List.range n).map (fun k => words64 ((bs.drop (64 * k)).take 64))
    match es.findIdx? (taskBad base count) with
    | some k => .error k
    | none => .ok (es.map taskOf)

/-- A multicast binding, and whether it breaks R360, which binds an entry that is not VALID as well. -/
def bindOf (w : List Word) : McBind :=
  let c := w.getD 2 0
  { dest := w.getD 0 0, replay := w.getD 1 0, group := fld c 16 10, valid := c.getLsbD 8, cnt := fld c 0 8 }
def bindBad (base count : Nat) (w : List Word) : Bool :=
  let c := w.getD 2 0
  decide (bits c 63 26 ≠ 0 ∨ bits c 15 9 ≠ 0 ∨ w.getD 3 0 ≠ 0 ∨ (w.getD 0 0).toNat % 64 ≠ 0 ∨ (w.getD 1 0).toNat % 64 ≠ 0 ∨
    bits c 7 0 < base ∨ base + count ≤ bits c 7 0)

/-- A lease's bindings, or the index of the first that breaks R360: by itself, or as the second of a group. -/
def readBinds (s : State) (a n base count : Nat) : Except Nat (List McBind) :=
  match physTable s a (32 * n) with
  | none => if n = 0 then .ok [] else .error 0
  | some bs =>
    let es := (List.range n).map (fun k => words64 ((bs.drop (32 * k)).take 32))
    let twin := fun k =>
      let b := bindOf (es.getD k [])
      b.valid && (List.range k).any (fun j => let c := bindOf (es.getD j []); c.valid && c.group == b.group)
    match (List.range n).find? (fun k => bindBad base count (es.getD k []) || twin k) with
    | some k => .error k
    | none => .ok (es.map bindOf)

/-! ## The lease commit (R351, R352) -/

/-- Word w of a position's entry as the commit would leave it. -/
def nextWord (s : State) (l w : Nat) : Word :=
  if s.lease.written.getLsbD l then Tab.get 0 s.lease.shadow (16 * l + w) else leaseWord s l w

/-- The state with the shadow entries of the written positions in force. -/
def withShadow (s : State) : State :=
  { s with lease := { s.lease with active := (List.range 256).foldl (fun t k =>
      if s.lease.written.getLsbD (k / 16) then Tab.set 0 t k (Tab.get 0 s.lease.shadow k) else t) s.lease.active } }

/-- The positions that a commit concerns: those not EMPTY, and those being written. -/
def concerned (s : State) : List Nat :=
  (List.range 16).filter (fun l => lstate s l ≠ .empty || s.lease.written.getLsbD l)

/-- The word offsets at which a position's own entry fails; `n` is the state with the shadow in force. -/
def entryFails (s n : State) (l : Nat) : List Nat :=
  let was := fun (w : Nat) => leaseWord s l w
  let is := fun (w : Nat) => leaseWord n l w
  let live := decide (lstate s l = .resident ∨ lstate s l = .parked)
  let moved := fun (w hi lo : Nat) => decide (bits (was w) hi lo ≠ bits (is w) hi lo)
  let f08 := decide (leaseClass n l = 3 ∨ 192 < cntCount n l ∨ 256 < gatherCount n l ∨ 64 < threadLimit n l ∨
      64 < segQuota n l ∨ 32 < slotQuota n l ∨ 192 < cntBase n l + cntCount n l ∨ 256 < gatherBase n l + gatherCount n l ∨
      slotQuota n l < boundSlots s l) ||
    (legacy n l && !s.eng.straps.getLsbD 0) || (lstate s l ≠ .empty && (moved 1 58 58 || moved 1 55 40)) ||
    (live && moved 1 39 23)
  let f10 := decide (2048 < creditShare n l) || (live && moved 2 63 32)
  let f18 := decide (4096 < westPages n l ∨ 8192 < northPages n l ∨ 4096 < westBase n l + westPages n l ∨
      8192 < northBase n l + northPages n l) || (live && moved 3 63 12)
  let f58 := decide (16 < taskCount n l ∨ 16 < mcCount n l) || (live && (moved 11 47 38 || moved 11 23 0))
  let list := [(0x08, f08), (0x10, f10), (0x18, f18), (0x20, decide (spillBase n l % 4096 ≠ 0)),
    (0x28, decide (ctxBase n l % 65536 ≠ 0)), (0x30, decide (xlateRoot n l % 4096 ≠ 0)),
    (0x38, decide (taskBase n l % 64 ≠ 0) || (live && moved 7 63 0)), (0x50, decide (meterBase n l % 64 ≠ 0)), (0x58, f58),
    (0x60, decide (rowsetTable n l % 64 ≠ 0)), (0x68, decide ((is 13).toNat % 1048576 ≠ 0) || (live && moved 13 63 0)),
    (0x70, live && moved 14 63 52), (0x78, live && moved 15 63 0)]
  (list.filter (·.2)).map (·.1)

/-- Whether two ranges overlap. -/
def rangesMeet (a n b m : Nat) : Bool := decide (0 < n ∧ 0 < m ∧ a < b + m ∧ b < a + n)

/-- The word offsets at which two leases' entries clash. -/
def pairFails (n : State) (l k : Nat) : List Nat :=
  (([(0x08, rangesMeet (cntBase n l) (cntCount n l) (cntBase n k) (cntCount n k) ||
        rangesMeet (gatherBase n l) (gatherCount n l) (gatherBase n k) (gatherCount n k)),
     (0x10, ctxMask n l &&& ctxMask n k != 0),
     (0x18, rangesMeet (westBase n l) (westPages n l) (westBase n k) (westPages n k) ||
        rangesMeet (northBase n l) (northPages n l) (northBase n k) (northPages n k))] : List (Nat × Bool)).filter (·.2)).map (·.1)

/-- The sums of R352: word offset, limit and the field. -/
def sumFields (n : State) : List (Nat × Nat × (Nat → Nat)) :=
  [(0x08, 64, segQuota n), (0x08, 32, slotQuota n), (0x10, 2048, creditShare n),
   (0x10, 256, linkShare n)]

/-- The position that a failure between leases is charged to: the lowest written one that takes part, else the lowest one that does (log
entry 75). -/
def chargedTo (s : State) (ls : List Nat) : Option Nat := (ls.find? (fun l => s.lease.written.getLsbD l)).or ls.head?

/-- The failures of sums and of pairs among every position that the commit concerns (R352). -/
def crossFails (s n : State) : List (Nat × Nat) :=
  let ls := concerned s
  let sums := (sumFields n).filterMap (fun f =>
    if f.2.1 < sumL (ls.map f.2.2) then (chargedTo s (ls.filter (fun l => decide (f.2.2 l ≠ 0)))).map (fun l => (l, f.1)) else none)
  let pairs := (ls.map (fun l => (ls.filter (fun k => decide (l < k))).map (fun k =>
    (pairFails n l k).map (fun o => ((chargedTo s [l, k]).getD l, o))))).flatten.flatten
  sums ++ pairs

/-- The task and binding tables that a commit reads anew for a position, with the offset of a failure (R352, R386). -/
def tablesFor (s n : State) (l : Nat) : Except Nat (Option (List Task) × Option (List McBind)) :=
  if ¬ s.lease.written.getLsbD l then .ok (none, none)
  else
    let t := taskBase s l ≠ taskBase n l ∨ taskCount s l ≠ taskCount n l
    let b := mcBindBase s l ≠ mcBindBase n l ∨ mcCount s l ≠ mcCount n l
    let rt := if t then (readTasks s (taskBase n l) (taskCount n l) (cntBase n l) (cntCount n l)).map some else .ok none
    let rb := if b then (readBinds s (mcBindBase n l) (mcCount n l) (cntBase n l) (cntCount n l)).map some else .ok none
    match rt, rb with
    | .error k, _ => .error (0x80 + 0x40 * k)
    | _, .error k => .error (0x480 + 0x20 * k)
    | .ok x, .ok y => .ok (x, y)

/-- The task table and the binding table of a position's entry, as runs of device memory. -/
def tableRuns (n : State) (l : Nat) : List (Nat × Nat) :=
  [(taskBase n l, 64 * taskCount n l), (mcBindBase n l, 32 * mcCount n l)]

/-- Those of them that a commit reads. -/
def commitRuns (s n : State) (l : Nat) : List (Nat × Nat) :=
  match tablesFor s n l with
  | .ok (none, none) => []
  | _ => tableRuns n l

/-- Whether tables that a commit reads still lie with other endpoints. -/
def tablesWait (s : State) : Bool :=
  (concerned s).any (fun l => (commitRuns s (withShadow s) l).any (fun r => farWaits s l r.1 r.2))

/-- Every failure of a commit: position and offset. -/
def commitFails (s : State) : List (Nat × Nat) :=
  let n := withShadow s
  let own := ((concerned s).map (fun l => (entryFails s n l).map (fun o => (l, o)))).flatten
  let tabs := (concerned s).filterMap (fun l => match tablesFor s n l with
    | .error o => some (l, o)
    | .ok _ => none)
  own ++ crossFails s n ++ tabs

/-- The lowest position of a list of failures, and its lowest offset. -/
def lowestFail (fs : List (Nat × Nat)) : Option (Nat × Nat) :=
  (List.range 16).findSome? (fun l =>
    match (fs.filter (fun f => f.1 == l)).map (·.2) with
    | [] => none
    | o :: t => some (l, t.foldl min o))

/-- Take the tables that a commit has read. -/
def takeTables (s n : State) (l : Nat) (t : State) : State :=
  match tablesFor s n l with
  | .ok (x, y) =>
    let rt := getRt t l
    setRt t l { rt with tasks := x.getD rt.tasks, binds := y.getD rt.binds }
  | .error _ => t

/-- A commit whose tables are at hand: the shadow set is taken whole, or refused whole and reported. -/
def commitLease (s : State) : State :=
  match lowestFail (commitFails s) with
  | some (l, o) =>
    engineReport (hwSet { s with lease := { s.lease with gen := commitRefused s.lease.gen } } .span leaseGenAt (2 ^ 17)) 0x40
      (BitVec.ofNat 64 l) (BitVec.ofNat 64 o)
  | none =>
    let n := withShadow s
    let t := (concerned s).foldl (fun t l => takeTables s n l t) n
    { t with lease := { t.lease with gen := commitTaken t.lease.gen, written := 0 } }

/-- LEASE_COMMIT_TAKE (R352): at the beat after the request the shadow set is taken whole, or refused whole and reported. Where tables lie
with other endpoints their READs are sent, and the commit stays due until they are answered (log entry 49). -/
def execLeaseCommitTake (s : State) : Result :=
  .next (if ¬ s.lease.gen.due then s
    else
      let n := withShadow s
      if tablesWait s then (concerned s).foldl (fun t l => farReads t (accOf n l) (commitRuns s n l)) s
      else (concerned s).foldl (fun t l => farTakes t l (commitRuns s n l)) (commitLease s))

/-- LEASE_GENERATION: a write of the commit register. -/
def execLeaseGeneration (v : BitVec 64) (s : State) : Result := .next (if s.eng.scrubDone then leaseGenWrite s v else s)

/-! ## The memory map (R460, R461) -/

/-- Whether a MEMMAP shadow set is refused. -/
def mapBad (m : Tab Word) : Bool :=
  let ws := (List.range 24).filter (winValid m)
  ws.any (fun w => decide (winLimit m w ≤ winBase m w ∨ bits (winTarget m w) 3 0 ≠ (if w < 16 then 2 else 0)) ||
    ws.any (fun k => decide (w < k ∧ winBase m w < winLimit m k ∧ winBase m k < winLimit m w)))

/-- MEMMAP_COMMIT_TAKE (R461). -/
def execMemmapCommitTake (s : State) : Result :=
  .next (if ¬ s.map.gen.due then s
    else if mapBad s.map.shadow then hwSet { s with map := { s.map with gen := commitRefused s.map.gen } } .span mapGenAt (2 ^ 17)
    else { s with map := { s.map with gen := commitTaken s.map.gen, active := s.map.shadow } })

/-- MAP_GENERATION: a write of the commit register. -/
def execMapGeneration (v : BitVec 64) (s : State) : Result :=
  .next (if s.eng.scrubDone then mapGenWrite s v else s)

/-! ## The router's tables (R332, R473) -/

/-- Whether a ROUTER shadow set is refused. -/
def routerBad (q : AbutUnit) : Bool :=
  decide (bits q.fabShadow 23 8 = 0xFFFF) || q.mcShadow.any (fun kw =>
    let w := kw.2
    meValid w && ((!meRoot w && decide (14 ≤ meUp w)) || decide (bits w 15 14 ≠ 0 ∨ bits w 31 30 ≠ 0) ||
      (List.range 16).any (fun p => meLeaf w p && !w.getLsbD p)))

/-- ROUTER_COMMIT_TAKE (R332, R473): a new FAB_ADDR lets the waiting packets go (R315), and a group committed again has its
branches back (R339). -/
def execRouterCommitTake (s : State) : Result :=
  .next (if ¬ s.abut.gen.due then s
    else if routerBad s.abut then hwSet { s with abut := { s.abut with gen := commitRefused s.abut.gen } } .abut routerGenAt (2 ^ 17)
    else
      let q := s.abut
      readyCheck (flushTx { s with
        abut := { q with gen := commitTaken q.gen, fabActive := q.fabShadow, routeActive := q.routeShadow, mcActive := q.mcShadow }
        mc := { s.mc with pruned := [], told := [] } }))

/-- ROUTER_GENERATION: a write of the commit register. -/
def execRouterGeneration (v : BitVec 64) (s : State) : Result :=
  .next (if partWrites s .abut then routerGenWrite s v else s)

/-! ## Run windows (R381) -/

/-- Whether a lease is inside its run window. -/
def inWindow (s : State) (l : Nat) : Bool :=
  decide (runFrom s l ≤ s.beat.count.toNat ∧ (runUntil s l = 0 ∨ s.beat.count.toNat < runUntil s l))

/-! ## Meters (R382, R383) -/

def addMeter (a b : Meters) : Meters :=
  ⟨a.cell + b.cell, a.replay + b.replay, a.bytes + b.bytes, a.threads + b.threads, a.segs + b.segs⟩

/-- Fold a lease's counts of the beat into its totals. -/
def foldMeters (s : State) (l : Nat) : State :=
  let rt := getRt s l
  setRt s l { rt with meters := addMeter rt.meters rt.acc, acc := {} }

/-- The 64 bytes of a meter record. -/
def meterBytes (s : State) (l : Nat) (final : Bool) : List Byte :=
  let rt := getRt s l
  let m := rt.meters
  let w := rt.meterSeq.toNat * 2 ^ 32 + rt.parkedBeats.toNat * 2 ^ 16 + l * 16 + (if legacy s l then 8 else 0) +
    (if final then 4 else 0) + (if rt.parked then 2 else 0) + (if rt.beatFree then 1 else 0)
  wordBytes [s.beat.count, m.cell, m.replay, m.bytes, m.threads, m.segs, BitVec.ofNat 64 w, 0]

/-- Sample a lease's meters into a record for its ring: dropped where 16 wait, none where METER_RING is 0. -/
def meterRecord (s : State) (l : Nat) (final : Bool) : State :=
  let rt := getRt s l
  if meterRing s l = 0 then s
  else
    let r : MemRec := ⟨meterBase s l + 64 * (rt.meterSeq.toNat % meterRing s l), meterBytes s l final, l⟩
    let s := setRt s l { rt with meterSeq := rt.meterSeq + 1, parkedBeats := 0, parked := decide (lstate s l = .parked)
                                 beatFree := false }
    if s.lease.meterQ.length < 16 then { s with lease := { s.lease with meterQ := s.lease.meterQ ++ [r] } }
    else { s with beat := { s.beat with meterLost := if s.beat.meterLost = 0xFF then 0xFF else s.beat.meterLost + 1 } }

end Sys2Proof.Machine
end

