-- ==== Sys2Proof/Machine/Rowset.lean ====
section
/-! DEFINITION. `ROWSET.COMMIT`: the commit list, leaves and joins, the checkpoint pool, and the row-set table (R235, R365,
R370 to R372, R153). -/

namespace Sys2Proof.Machine

/-- An entry of a commit list (R370). -/
structure RsOp where
  join : Bool
  id : Half
  len : Nat
  bad : Bool
  deriving DecidableEq, Repr

/-- The entries of a list's words, after its first two. -/
def rsOps (ws : List Word) : List RsOp :=
  (List.range (ws.length / 2)).map (fun k =>
    let a := ws.getD (2 * k) 0
    let b := ws.getD (2 * k + 1) 0
    let op := bits a 63 62
    let len := bits b 31 0
    { join := decide (op = 2), id := fld a 0 32, len := len
      bad := decide (op = 0 ∨ op = 3 ∨ bits a 61 32 ≠ 0 ∨ bits b 63 32 ≠ 0 ∨ (op = 2 ∧ len = 0) ∨ (op = 1 ∧ len ≠ 0)) })

/-- Whether check 35 fails (R370). -/
def rsBad (set : List RsEntry) (pend : List (Half × Nat)) (ops : List RsOp) : Bool :=
  let known := fun (x : Half) => set.any (fun e => e.id == x) || pend.any (fun e => e.1 == x)
  ops.any (·.bad) || decide (¬ (ops.map (·.id)).Nodup) || ops.any (fun o => if o.join then known o.id else !known o.id) ||
    decide (64 < (ops.filter (·.join)).length + pend.length)

/-- The sequences packed from index 0 (R371). -/
def packSet (n : Nat) : List RsEntry → List RsEntry
  | [] => []
  | e :: t => { e with start := n } :: packSet (n + e.len) t

/-- The length L of a row set. -/
def setLen (set : List RsEntry) : Nat := sumL (set.map (·.len))

/-- Whether a chunk of the pool is free. -/
def chunkFree (set : List RsEntry) (k : Nat) : Bool := set.all (fun e => decide (k < e.chunk ∨ e.chunk + e.chunks ≤ k))

/-- The lowest run of n free chunks of a pool. -/
def lowestRun (set : List RsEntry) (pool n : Nat) : Option Nat :=
  (List.range (pool + 1)).find? (fun k => decide (k + n ≤ pool) && (List.range n).all (fun j => chunkFree set (k + j)))

/-- Try joins in order: the first that does not fit, and every join after it, is deferred whole (R371). -/
def tryJoins (bpt pool : Nat) : List RsEntry → List (Half × Nat) → List RsEntry × List (Half × Nat)
  | set, [] => (set, [])
  | set, j :: t =>
    let n := cdiv (j.2 * bpt) (2 ^ 20)
    match lowestRun set pool n with
    | some k =>
      if set.length < 1024 ∧ setLen set + j.2 ≤ 1048576 then
        tryJoins bpt pool (set ++ [⟨j.1, setLen set, j.2, k, n⟩]) t
      else (set, j :: t)
    | none => (set, j :: t)

/-- A valid commit (R371): leaves, pending joins, the list's joins. -/
def applyCommit (bpt pool : Nat) (set : List RsEntry) (pend : List (Half × Nat)) (ops : List RsOp) :
    List RsEntry × List (Half × Nat) :=
  let leaves := (ops.filter (fun o => !o.join)).map (·.id)
  let set := packSet 0 (set.filter (fun e => !leaves.contains e.id))
  let pend := pend.filter (fun e => !leaves.contains e.1)
  tryJoins bpt pool set (pend ++ (ops.filter (·.join)).map (fun o => (o.id, o.len)))

/-- The row-set table (R372): the header's word, the committed entries and the pending ones. -/
def setHeader (set : List RsEntry) (pend : List (Half × Nat)) : Word :=
  BitVec.ofNat 64 (setLen set + set.length * 2 ^ 32 + pend.length * 2 ^ 48)
def setWords (set : List RsEntry) : List Word :=
  ((set.map (fun e => [BitVec.ofNat 64 (e.id.toNat + e.start * 2 ^ 32),
    BitVec.ofNat 64 (e.len + e.chunk * 2 ^ 32 + e.chunks * 2 ^ 44)])).flatten) ++ List.replicate (2 * (1024 - set.length)) 0
def pendWords (pend : List (Half × Nat)) : List Word :=
  ((pend.map (fun e => [e.1.setWidth 64, BitVec.ofNat 64 e.2])).flatten) ++ List.replicate (2 * (64 - pend.length)) 0

/-- Write a lease's row-set table to ROWSET_TABLE. -/
def writeTable (s : State) (c : Acc) (set : List RsEntry) (pend : List (Half × Nat)) : State :=
  let a := rowsetTable s c.l
  let s := spanWrite s c a (wordBytes [setHeader set pend])
  let s := spanWrite s c (a + 0x40) (wordBytes (setWords set))
  spanWrite s c (a + 0x4040) (wordBytes (pendWords pend))

/-- Whether an earlier pass or commit of the lease still stands (R235, R365). -/
def commitWaits (s : State) (i : SpanI) : Bool :=
  s.instrs.any (fun j => decide (j.lease = i.lease ∧ j.u < i.u) && !isAO j && (isPass j.op || decide (j.op = .rowsetCommit)))

/-- Run a commit whose list has been read. -/
def startCommit (s : State) (i : SpanI) (ws : List Word) : State :=
  let rt := getRt s i.lease
  let set := rt.rowSet.getD []
  let ops := rsOps (ws.drop 2)
  if bits (ws.getD 0 0) 63 32 ≠ 0 ∨ ws.getD 1 0 ≠ 0 ∨ rsBad set rt.pendJoins ops then faultInstr s i (.config 35 i.a)
  else
    let o := applyCommit (ckptBpt s i.lease) (ckptChunks s i.lease) set rt.pendJoins ops
    { putInstr s { i with stage := .running } with rs := s.rs ++ [⟨i.u, i.lease, o.1, o.2, o.2.length⟩] }

/-- ROWSET_COMMIT_START (R235): once every earlier pass of the lease has ended, the list is read and judged. -/
def execRowsetCommitStart (u : Nat) (s : State) : Result :=
  .next (match getInstr s u with
    | none => s
    | some i =>
      if i.op ≠ .rowsetCommit ∨ i.stage ≠ .queued ∨ ¬ takes s i.lease ∨ commitWaits s i then s
      else
        let m := armStatus s i
        if statusWaits s i then m.2.2
        else match firstCheck i.a [(3, decide (i.a.toNat % 64 ≠ 0) || statusSkew i), (30, m.1)] with
        | .ok =>
          let h := readVirt m.2.2 (accI i) i.a.toNat 16
          match h.1 with
          | .error e => faultRead s h.2 i e
          | .ok hb =>
            let n := bits ((words64 hb).getD 0 0) 31 0
            if 1024 < n then faultInstr h.2 i (.config 35 i.a)
            else
              let r := readVirt h.2 (accI i) i.a.toNat (16 + 16 * n)
              match r.1 with
              | .error e => faultRead s r.2 i e
              | .ok bs => startCommit r.2 m.2.1 (words64 bs)
        | bad => faultInstr m.2.2 i bad)

/-- ROWSET_COMMIT_COMPLETE (R153, R371, R372): the row set changes, the table is written, the generation advances. -/
def execRowsetCommitComplete (u : Nat) (s : State) : Result :=
  .next (match s.rs.find? (fun r => r.u == u), getInstr s u with
    | some r, some i =>
      let rt := getRt s r.lease
      let s := setRt { s with rs := s.rs.filter (fun x => x.u != u) } r.lease
        { rt with rowSet := some r.set, pendJoins := r.pend, rsGen := rt.rsGen + 1 }
      finish (writeTable s (accI i) r.set r.pend) i { count := r.deferred, deferred := decide (r.deferred ≠ 0) } (sigList i)
    | _, _ => s)

end Sys2Proof.Machine
end

