-- ==== Sys2Proof/Machine/Vector.lean ====
section
/-! DEFINITION. The Spandrel's instructions: the VEC family (R239 to R241), `ROT.LOAD` (R57 to R59, R236, R237) and
`SCALE.UPDATE` (R40, R41, R238). -/

namespace Sys2Proof.Machine

/-! ## Turns (R212, R359, R241, R41) -/

/-- Whether an earlier DRAIN that names a gathering register has not gathered yet (R41). -/
def gatherPending (s : State) (i : SpanI) : Bool :=
  s.instrs.any (fun j => decide (j.op = .drain ∧ j.lease = i.lease ∧ j.u < i.u ∧ j.stage ≠ .running) && !isAO j &&
    (!j.ready || (ddGatherEn j.desc && decide (ddGather j.desc = bits i.w1 23 16))))

/-- Whether an instruction of the VECTOR queue could start on a free Spandrel. -/
def vecStartable (s : State) (i : SpanI) : Bool :=
  decide (queueOf i.op = 3 ∧ i.stage = .queued) && takes s i.lease && !(i.op == .scaleUpdate && gatherPending s i)

/-- Whether an instruction is the one that the Spandrel starts next. -/
def vecTurn (s : State) (i : SpanI) : Bool :=
  s.vec.isNone &&
    ((leaseOrder s 4).findSome? (fun l => s.instrs.find? (fun j => decide (j.lease = l) && vecStartable s j))).map (·.u) ==
      some i.u

/-- An instruction of the VECTOR queue that may start now. -/
def vecInstr (s : State) (u : Nat) (p : SpanOp → Bool) : Option SpanI :=
  (getInstr s u).filter (fun i => p i.op && vecTurn s i)

/-! ## Writes of results -/

/-- The addressed bytes of several results, or the verdict of a page that is not writable (log entry 18). -/
def resultWrites (c : Acc) : List (Nat × List Byte) → State → Except Verdict (List (Nat × Byte)) × State
  | [], s => (.ok [], s)
  | (a, bs) :: t, s =>
    let r := writeVirt s c a bs
    match r.1 with
    | .error e => (.error (pageFault e), r.2)
    | .ok ws => let q := resultWrites c t r.2; (q.1.map (fun rest => ws ++ rest), q.2)

/-- Put an instruction on the Spandrel. -/
def startVec (s : State) (i : SpanI) (r : VecRun) : State :=
  serve { putInstr s { i with stage := .running } with vec := some r } 4 i.lease

/-- Complete the instruction on the Spandrel: its writes, then status and signal (R214). -/
def completeVec (s : State) (p : SpanOp → Bool) (extra : State → VecRun → State) : State :=
  match s.vec with
  | none => s
  | some r =>
    match getInstr s r.u with
    | none => { s with vec := none }
    | some i =>
      if ¬ p i.op then s
      else
        let s := extra (spanWrites { s with vec := none } (accI i) r.writes) r
        finish s i { count := r.count, skipped := r.skipped, singular := r.singular, smoothZero := r.smoothZero } (sigList i)

/-! ## VEC (R239, R240) -/

def vdAddr (d : List Word) (k : Nat) : Nat := (d.getD k 0).toNat
def vdCols (d : List Word) : Nat := bits (d.getD 4 0) 63 32
def vdRows (d : List Word) : Nat := bits (d.getD 4 0) 31 0
def vdT (d : List Word) : Half := fld (d.getD 5 0) 32 32
def vdS (d : List Word) : Half := fld (d.getD 5 0) 0 32
/-- The format of operand k (A, B, C) or, for 3, of the result. -/
def vdFmt (d : List Word) (k : Nat) : Nat := bits (d.getD 6 0) (63 - 8 * k) (56 - 8 * k)

/-- How many of the operands A, B and C an operation reads. -/
def vecArity (k : Nat) : Nat := if k = 2 then 3 else if k < 2 ∨ 8 ≤ k then 2 else 1

/-- The static checks of a VEC descriptor. -/
def vecChecks (k : Nat) (d : List Word) (skew : Bool) : List (Nat × Bool) :=
  let used := (List.range (vecArity k)) ++ [3]
  [(1, decide (bits (d.getD 6 0) 31 0 ≠ 0) || d.getD 7 0 != 0),
   (2, used.any (fun q => decide (vdFmt d q ≠ 9 ∧ (vdFmt d q ≠ 8 ∨ 8 ≤ k)))),
   (3, used.any (fun q => decide (vdAddr d q % 64 ≠ 0)) || skew)]

/-- Elements of a row of operand A and the rows (records of 8 bytes for SUB 8 and 9). -/
def vecIn (k : Nat) (d : List Word) : Nat := if 8 ≤ k then 2 * vdRows d else vdRows d * vdCols d

/-- The codes of an operand. -/
def vecCodes (f : Nat) (bs : List Byte) : List Nat :=
  let n := fmtWidth f / 8
  (List.range (bs.length / n)).map (fun i => leNat ((bs.drop (n * i)).take n))

/-- The exact values of an operand, NaN for a special code, and how many were special. -/
def vecVals (f : Nat) (bs : List Byte) : List Val := (vecCodes f bs).map (decodeVal f)

/-- A result code, and whether its narrowing saturated (R44). -/
def vecOut (f : Nat) (polbin : Bool) (v : Val) : Nat × Nat :=
  (encodeVal f polbin v, match v with
    | some x => if (narrow x (if f = 8 then fBF16 else fB32) polbin).2 then 1 else 0
    | none => 0)

/-- A sum's result: the value of vec_sum, with its saturations. -/
def vecSumOut (f : Nat) (polbin : Bool) (terms : List Val) : Nat × Nat :=
  let r := terms.foldl (vecSumStep polbin) (some (exZero, exZero), 0)
  let fin := r.1.map (fun p => exAdd p.1 p.2)
  let n := r.2 + (match fin with | some x => if sat32 x polbin then 1 else 0 | none => 0)
  let o := vecOut f polbin (fin.map (narEx polbin))
  (o.1, n + o.2)

/-- 1 / √A (R239): a zero saturates, a negative value gives NaN. -/
def vecRsqrt (v : Val) : Val :=
  v.bind (fun x => if x.mag = 0 then some ⟨false, 1, 200⟩ else if x.neg then none else some (exRsqrt x))

/-- The results of a VEC operation, in order: codes with saturations. `a`, `b`, `c` are the operands' values. -/
def vecResults (k rows cols : Nat) (f : Nat) (polbin : Bool) (s t : Half) (a b c : List Val) : List (Nat × Nat) :=
  let row := fun (l : List Val) (i : Nat) => (l.drop (cols * i)).take cols
  match k with
  | 0 => (a.zip b).map (fun xy => vecOut f polbin (vAdd xy.1 xy.2))
  | 1 => (a.zip b).map (fun xy => vecOut f polbin (vMul xy.1 xy.2))
  | 2 => ((a.zip b).zip c).map (fun z => vecOut f polbin (vAdd (vMul z.1.1 z.1.2) z.2))
  | 3 => a.map (fun x => vecOut f polbin (vAdd (vMul x (dec32 s)) (dec32 t)))
  | 4 => (List.range rows).map (fun i => vecSumOut f polbin (row a i))
  | 5 => (List.range cols).map (fun j => vecSumOut f polbin ((List.range rows).map (fun i => a.getD (cols * i + j) none)))
  | 6 => (List.range rows).map (fun i => vecSumOut f polbin ((row a i).map (fun x => vMul x x)))
  | _ => a.map (fun x => vecOut f polbin (vecRsqrt x))

/-- A winner record as it enters the Spandrel: an infinity or NaN is the canonical NaN (R49). -/
def vecRecord (w : List Half) (i : Nat) : Half × Half :=
  (if (dec32 (w.getD (2 * i) 0)).isNone then nan32 else w.getD (2 * i) 0, w.getD (2 * i + 1) 0)

/-- The winner records of two record tensors (R126). -/
def vecWinners (maxMode : Bool) (a b : List Half) : List Half :=
  ((List.range (a.length / 2)).map (fun i =>
    let w := winner maxMode (vecRecord a i) (vecRecord b i)
    [w.1, w.2])).flatten

/-- The comparisons of records that a special value enters (R49). -/
def vecWinnerSpecials (a b : List Half) : Nat :=
  ((List.range (a.length / 2)).filter (fun i => (dec32 (a.getD (2 * i) 0)).isNone || (dec32 (b.getD (2 * i) 0)).isNone)).length

/-- The operations of a VEC instruction but ARGMAX and ARGMIN, one for each result, that a special value enters from memory (R49; log entry 54). -/
def vecSpecials (k : Nat) (d : List Word) (a b c : List Val) : Nat :=
  let bad := fun (l : List Val) => l.any (fun v => v.isNone)
  let cols := vdCols d
  let among (n : Nat) (terms : Nat → List Val) : Nat := ((List.range n).filter (fun i => bad (terms i))).length
  match k with
  | 0 | 1 => among a.length (fun i => [a.getD i none, b.getD i none])
  | 2 => among a.length (fun i => [a.getD i none, b.getD i none, c.getD i none])
  | 3 => among a.length (fun i => [a.getD i none, dec32 (vdS d), dec32 (vdT d)])
  | 4 | 6 => among (vdRows d) (fun i => (a.drop (cols * i)).take cols)
  | 5 => among cols (fun j => (List.range (vdRows d)).map (fun i => a.getD (cols * i + j) none))
  | 7 => among a.length (fun i => [a.getD i none])
  | _ => 0

/-- Read the operands of a VEC instruction; an operand that it does not use reads as empty. -/
def vecRead (s : State) (i : SpanI) (k : Nat) (d : List Word) (q : Nat) : Except MemErr (List Byte) × State :=
  if vecArity k ≤ q then (.ok [], s)
  else readVirt s (accI i) (vdAddr d q) (vecIn k d * (fmtWidth (vdFmt d q) / 8))

/-- The result codes of a VEC instruction but ROWMAX and ROWMIN, each with whether it saturated. -/
def vecCodesOut (k : Nat) (d : List Word) (polbin : Bool) (a b c : List Byte) : List (Nat × Nat) :=
  vecResults k (vdRows d) (vdCols d) (vdFmt d 3) polbin (vdS d) (vdT d) (vecVals (vdFmt d 0) a) (vecVals (vdFmt d 1) b)
    (vecVals (vdFmt d 2) c)

/-- The bytes of a VEC instruction's result, from the bytes of its operands. -/
def vecBytes (k : Nat) (d : List Word) (polbin : Bool) (a b c : List Byte) : List Byte :=
  if 8 ≤ k then halfBytes (vecWinners (decide (k = 8)) (words32 a) (words32 b))
  else ((vecCodesOut k d polbin a b c).map (fun r => leBytes (fmtWidth (vdFmt d 3) / 8) r.1)).flatten

/-- Run a VEC instruction whose operands are read, from the state before its command. -/
def vecRunOps (s0 s : State) (i : SpanI) (k : Nat) (d : List Word) (a b c : List Byte) : State :=
  let polbin := i.leg
  let w := resultWrites (accI i) [(vdAddr d 3, vecBytes k d polbin a b c)] s
  match w.1 with
  | .error v => faultOr s0 w.2 i v
  | .ok ws =>
    let sat := if 8 ≤ k then 0 else sumL ((vecCodesOut k d polbin a b c).map (·.2))
    let special := if 8 ≤ k then vecWinnerSpecials (words32 a) (words32 b) else vecSpecials k d (vecVals (vdFmt d 0) a) (vecVals (vdFmt d 1) b) (vecVals (vdFmt d 2) c)
    let s := startVec w.2 i { u := i.u, lease := i.lease, writes := ws }
    event (event s 0x021 sat (srcOf i)) 0x022 special (srcOf i)

def isVec : SpanOp → Bool
  | .vec _ => true
  | _ => false
/-- The SUB of a VEC instruction. -/
def vecSub : SpanOp → Nat
  | .vec k => k.val
  | _ => 0

/-- VEC_START (R239, R241): descriptor, checks, operands, results. -/
def execVecStart (u : Nat) (s : State) : Result :=
  .next (match vecInstr s u isVec with
    | none => s
    | some i =>
      if i.a.toNat % 64 ≠ 0 then faultInstr s i (.config 3 i.a)
      else
        let k := vecSub i.op
        let r := readVirt s (accI i) i.a.toNat 64
        match r.1 with
        | .error e => faultRead s r.2 i e
        | .ok bs =>
          let d := words64 bs
          let m := armStatus r.2 i
          if statusWaits r.2 i then keepGot s m.2.2
          else match firstCheck i.a (vecChecks k d (statusSkew i) ++ [(30, m.1)]) with
          | .ok =>
            let i := m.2.1
            if vdRows d = 0 ∨ vdCols d = 0 then finish m.2.2 i { skipped := true } (sigList i)
            else
              let a := vecRead m.2.2 i k d 0
              let b := vecRead a.2 i k d 1
              let c := vecRead b.2 i k d 2
              match a.1, b.1, c.1 with
              | .ok x, .ok y, .ok z => vecRunOps s c.2 i k d x y z
              | .error e, _, _ => faultRead s a.2 i e
              | _, .error e, _ => faultRead s b.2 i e
              | _, _, .error e => faultRead s c.2 i e
          | bad => faultInstr m.2.2 i bad)

/-- VEC_COMPLETE (R214, R241). -/
def execVecComplete (s : State) : Result := .next (completeVec s isVec (fun s _ => s))

/-! ## ROT.LOAD (R57 to R59, R236, R237) -/

def isRot : SpanOp → Bool
  | .rotMatrix | .rotSmooth => true
  | _ => false

/-- A rotation slot and the inverse buffer from a matrix (R57, R58). -/
def rotFrom (ws : List Half) (polbin : Bool) : RotSlot × List Half × Bool :=
  let bad : RotSlot × List Half × Bool := ({ mat := identity32, mark := true }, identity32, true)
  if ws.any (fun w => (dec32 w).isNone) then bad
  else match gjInverse (ws.map val32) polbin with
    | some inv => ({ mat := ws, mark := false }, inv.map (fun x => nar32 x polbin), false)
    | none => bad

/-- Matrix mode: the slot takes R or the identity at completion, and the buffer its inverse (R236). -/
def startRotMatrix (s : State) (i : SpanI) : State :=
  let r := readVirt s (accI i) i.a.toNat 4096
  match r.1 with
  | .error e => faultRead s r.2 i e
  | .ok bs =>
    let o := rotFrom (words32 bs) i.leg
    let w := resultWrites (accI i) [(i.b.toNat, halfBytes o.2.1)] r.2
    match w.1 with
    | .error v => faultOr s w.2 i v
    | .ok ws =>
      let xs := words32 bs
      let n := if xs.any (fun x => (dec32 x).isNone) then 0 else gjSats (xs.map val32) i.leg
      event (startVec w.2 i
        { u := i.u, lease := i.lease, writes := ws, singular := o.2.2, rot := some (bits i.w1 11 10, o.1) }) 0x021 n (srcOf i)

/-- Smoothing mode: the reciprocals to RD and the factors to RB (R59, R237). -/
def startRotSmooth (s : State) (i : SpanI) : State :=
  let n := bits i.w1 31 12
  let polbin := i.leg
  if n = 0 then finish s i { skipped := true } (sigList i)
  else
    let r := readVirt s (accI i) i.a.toNat (4 * n)
    match r.1 with
    | .error e => faultRead s r.2 i e
    | .ok bs =>
      let fs := (words32 bs).map smoothFactor
      let recip := fs.map (fun f => exDiv exOne (val32 f.1))
      let count := (fs.filter (·.2)).length
      let w := resultWrites (accI i)
        [(i.d.toNat, halfBytes (recip.map (fun x => nar32 x polbin))), (i.b.toNat, halfBytes (fs.map (·.1)))] r.2
      match w.1 with
      | .error v => faultOr s w.2 i v
      | .ok ws =>
        let s := startVec w.2 i
          { u := i.u, lease := i.lease, writes := ws, smoothZero := decide (count ≠ 0), count := count }
        event s 0x021 ((recip.filter (fun x => sat32 x polbin)).length) (srcOf i)

/-- ROT_LOAD_START. -/
def execRotLoadStart (u : Nat) (s : State) : Result :=
  .next (match vecInstr s u isRot with
    | none => s
    | some i =>
      let m := armStatus s i
      let skew := decide (i.a.toNat % 64 ≠ 0 ∨ i.b.toNat % 64 ≠ 0 ∨ (i.op = .rotSmooth ∧ i.d.toNat % 64 ≠ 0)) || statusSkew i
      if statusWaits s i then m.2.2
      else match firstCheck i.a [(3, skew), (30, m.1)] with
      | .ok => if i.op = .rotMatrix then startRotMatrix m.2.2 m.2.1 else startRotSmooth m.2.2 m.2.1
      | bad => faultInstr m.2.2 m.2.1 bad)

/-- ROT_LOAD_COMPLETE (R58, R236): the slot takes its new content and mark. -/
def execRotLoadComplete (s : State) : Result :=
  .next (completeVec s isRot (fun s r => match r.rot with
    | some (k, v) => setRt s r.lease { getRt s r.lease with rot := Tab.set {} (getRt s r.lease).rot k v }
    | none => s))

/-! ## SCALE.UPDATE (R40, R41, R238) -/

def isScale : SpanOp → Bool
  | .scaleUpdate => true
  | _ => false

/-- The checks of a history record: its reserved fields, FMT and maxima, and its TSCALE (R34, R40). -/
def recordChecks (r : List Half) : List (Nat × Bool) :=
  let ctl := r.getD 17 0
  [(23, (tscale (r.getD 16 0)).isNone),
   (24, decide (bits ctl 31 18 ≠ 0 ∨ bits ctl 16 12 ≠ 0 ∨ bits ctl 7 0 = 0 ∨ 8 < bits ctl 7 0) ||
      (r.drop 20).any (fun w => w != 0) ||
      (r.take 16).any (fun w => (dec32 w).isNone || (w.getLsbD 31 && w != 0x80000000)))]

/-- SCALE_UPDATE_START (R41, R238): the record's checks, the update, and the register cleared. -/
def execScaleUpdateStart (u : Nat) (s : State) : Result :=
  .next (match vecInstr s u isScale with
    | none => s
    | some i =>
      let m := armStatus s i
      let g := bits i.w1 23 16
      if statusWaits s i then m.2.2
      else match firstCheck i.a [(3, decide (i.a.toNat % 128 ≠ 0) || statusSkew i)] with
      | .ok =>
        let r := readVirt m.2.2 (accI i) i.a.toNat 128
        match r.1 with
        | .error e => faultRead s r.2 m.2.1 e
        | .ok bs =>
          match firstCheck i.a (recordChecks (words32 bs) ++ [(30, m.1), (31, decide (gatherCount s i.lease ≤ g))]) with
          | .ok =>
            let k := gatherBase s i.lease + g
            let w := resultWrites (accI i)
              [(i.a.toNat, halfBytes (scaleUpdateRec (words32 bs) (Tab.get {} s.gather k)))] r.2
            match w.1 with
            | .error v => faultOr s w.2 m.2.1 v
            | .ok ws =>
              startVec { w.2 with gather := Tab.set {} w.2.gather k {} } m.2.1 { u := u, lease := i.lease, writes := ws }
          | bad => faultInstr r.2 m.2.1 bad
      | bad => faultInstr m.2.2 m.2.1 bad)

/-- SCALE_UPDATE_COMPLETE. -/
def execScaleUpdateComplete (s : State) : Result := .next (completeVec s isScale (fun s _ => s))

end Sys2Proof.Machine
end

