-- ==== Sys2Proof/Machine/Context.lean ====
section
/-! DEFINITION. The context area of a lease (R265, R355, R366, R368): what UNLOAD writes, and what LOAD takes up again. R368
gives the places; the fields of a stream context record and of a held instruction's record are the model's, and so are the side records that
follow the held instructions (log entry 30). -/

namespace Sys2Proof.Machine

/-! ## Writing (R368) -/

/-- Set a run of device memory to 0. -/
def memZero (s : State) (a n : Nat) : State :=
  { s with mem := s.mem.filter (fun e => decide (e.1 < a ∨ a + n ≤ e.1))
           memBad := s.memBad.filter (fun u => decide (u * 64 + 64 ≤ a ∨ a + n ≤ u * 64))
           pier := { s.pier with
                     lines := s.pier.lines.filter (fun ln => decide (ln.addr / 512 * 512 + 512 ≤ a ∨ a + n ≤ ln.addr / 512 * 512)) } }

/-- The 32-byte record of a counter (R265). -/
def cntRecord (c : Counter) : List Byte :=
  wordBytes [c.p, c.c, BitVec.ofNat 64 ((if c.ovf then 2 ^ 33 else 0) + c.cap.toNat), 0]

/-- Write the records of a lease's counters (R265, R266). -/
def writeCounters (s : State) (l : Nat) : State :=
  let a := ctxBase s l + 0x4500
  if ¬ inMap s a 6144 then s
  else spanWrite s (accOf s l) a (((List.range (cntCount s l)).map (fun k => cntRecord (getCnt s (cntBase s l + k)))).flatten)

/-- The slot indices a lease has bound. -/
def slotMask (s : State) (l : Nat) : Nat :=
  sumL ((List.range 32).map (fun x => if (getSlot s x).st ≠ .free ∧ (getSlot s x).lease = l then 2 ^ x else 0))

/-- The span instructions a lease still holds, in issue sequence. -/
def heldInstrs (s : State) (l : Nat) : List SpanI := s.instrs.filter (fun i => decide (i.lease = l))

/-- The 256 header bytes. -/
def headerArea (s : State) (l : Nat) : List Byte :=
  let rt := getRt s l
  let pos := match rt.held with | some r => arrayPos r | none => (0, 0)
  let n := (heldInstrs s l).length
  let slots := (List.range 32).map (fun x =>
    let v := getSlot s x
    if v.st ≠ .free ∧ v.lease = l then slotStat v &&& 0xF1E001FF else 0)
  let marks := sumL ((List.range 4).map (fun k => if (Tab.get {} rt.rot k).mark then 2 ^ k else 0))
  let m := rt.meters
  wordBytes [BitVec.ofNat 64 (1 + 256 * rt.frames.length + 65536 * cdiv n 2), pos.1,
      BitVec.ofNat 64 (rt.seq.toNat + 2 ^ 32 * rt.rsGen.toNat), BitVec.ofNat 64 (slotMask s l)] ++ halfBytes slots ++
    wordBytes [m.cell, m.replay, m.bytes, m.threads, m.segs, 0, 0, 0, pos.2, BitVec.ofNat 64 marks, 0, 0]

def sstateCode : SState → Nat
  | .unarmed => 0 | .running => 1 | .drained => 2 | .halted => 3 | .quiescing => 4 | .quiesced => 5
def sstateOf (n : Nat) : SState :=
  match n with
  | 1 => .running | 2 => .drained | 3 => .halted | 4 => .quiescing | 5 => .quiesced | _ => .unarmed

/-- A stream context's record but for its last word: descriptor address, displacement, ROWS and generation, position, first transfer of
the extent and the saved fault. -/
def streamRecord (x : Stream) : List Byte :=
  wordBytes [x.descAddr, x.disp, BitVec.ofNat 64 (x.rows % 2 ^ 32 + 2 ^ 32 * (x.gen.getD 0).toNat), BitVec.ofNat 64 (freshNext x),
    BitVec.ofNat 64 x.base, x.faultAddr, x.faultXfer]

/-- The state of a stream context in the last word of its record. -/
def streamFlags (x : Stream) : Nat :=
  sstateCode x.st + (if x.gen.isSome then 8 else 0) + (if x.notHalted then 16 else 0) + (if x.gated ∨ x.xfers ≠ [] then 32 else 0)

/-- The last word of the k-th stream context record: the context's state, and the columns and column base of slot index k (log entry 30). -/
def contextWord (s : State) (l k : Nat) : Word :=
  let x := getStr s k
  let v := getSlot s k
  let mine := decide (v.st ≠ .free ∧ v.lease = l)
  BitVec.ofNat 64 ((if (ctxMask s l).getLsbD k then streamFlags x else 0) +
    (if mine then 2 ^ 20 * (v.cols - 1) + 2 ^ 32 * v.colBase.toNat else 0))

/-- A side record: its kind, two numbers, and words from its byte 16 on. -/
def sideRecord (kind a b : Nat) (ws : List Word) : List Byte :=
  let bs := halfBytes [BitVec.ofNat 32 kind, BitVec.ofNat 32 a, BitVec.ofNat 32 b, 0] ++ wordBytes ws
  bs ++ List.replicate (64 - bs.length) 0

/-- The side record of the masked rows that the k-th held instruction read when it was armed (R143). -/
def maskRecord (k : Nat) (m : List Bool) : List Byte :=
  sideRecord 1 k m.length ((List.range 4).map (fun w => BitVec.ofNat 64 (sumL ((List.range 64).map (fun b =>
    if m.getD (64 * w + b) false then 2 ^ b else 0)))))

/-- The side record of an older restart layer of a held run: its active groups, and its counts in the form of ARRAY_POS (R93, R94). -/
def layerRecord (l : Nat × List Nat) : List Byte := let w := posWords l.2; sideRecord 2 l.1 0 [w.1, w.2]

/-- The side record of an extent that a context has left (R172). -/
def extentRecord (c : Nat) (e : Extent) : List Byte :=
  sideRecord 3 c (if e.gen.isSome then 1 else 0)
    [BitVec.ofNat 64 e.base, e.disp, BitVec.ofNat 64 (e.rows % 2 ^ 32 + 2 ^ 32 * (e.gen.getD 0).toNat)]

/-- The side records of a lease: the older layers of its held run, the masks of its held instructions, and the old extents of its contexts.
Those that the room after n held instructions cannot take are left out (log entry 30). -/
def sideRecords (s : State) (l : Nat) : List (List Byte) :=
  let held := heldInstrs s l
  let ls := ((getRt s l).held.map (fun r => ((layers r).drop 1).map layerRecord)).getD []
  let ms := ((List.range held.length).zip held).filterMap (fun ki => ki.2.mask.map (maskRecord ki.1))
  let es := ((List.range 32).map (fun c => if (ctxMask s l).getLsbD c then (getStr s c).old.map (extentRecord c) else [])).flatten
  (ls ++ ms ++ es).take (90 - 2 * cdiv held.length 2)

/-- The 16 bytes of a gathering register. -/
def gatherRecord (g : Gather) : List Byte := halfBytes [g.amax, g.sat, g.nan, 0]

/-- Ring slots that the tiles of a held pass have taken: of each operand, west before north. -/
def takenOf (r : Option PassRun) (k : Nat) : Nat × Nat :=
  match r.bind (fun r => r.parts[k]?) with
  | some p => (p.west.taken, p.north.taken)
  | none => (0, 0)

/-- The record of a held instruction: its words, its thread, frame and progress, the active groups that its intervals are counted by, its
operands, PC and issue sequence, which a held pass, of at most two words, has in place of a third. -/
def heldRecord (rt : LeaseRt) (i : SpanI) : List Byte :=
  let run := rt.held.filter (fun r => r.u == i.u)
  let fr := match rt.frames.findIdx? (fun f => f.thr.inst == i.inst) with | some k => k + 1 | none => 0
  let sig := fun (k : Nat) => (run.bind (fun r => r.parts[k]?)).any (·.signalled)
  let flags := (if run.isSome then 1 else 0) + 2 * thrKey i.th + 128 * fr + (if sig 0 then 2 ^ 15 else 0) +
    (if sig 1 then 2 ^ 16 else 0) + (if i.mask.isSome then 2 ^ 17 else 0) + 2 ^ 18 * ((run.map (·.groups)).getD 0)
  let t0 := takenOf run 0
  let t1 := takenOf run 1
  let pair := fun (t : Nat × Nat) => (BitVec.ofNat 64 (t.1 % 2 ^ 32 + 2 ^ 32 * (t.2 % 2 ^ 32)) : Word)
  halfBytes [i.w0, i.w1, if run.isSome then i.seq else i.w2, BitVec.ofNat 32 flags] ++
    wordBytes [i.a, i.b, i.c, if run.isSome then pair t0 else i.d, i.pc, if run.isSome then pair t1 else i.seq.setWidth 64]

/-- The 4,096 bytes of a rotation slot; the identity is written out. -/
def rotBytes (r : RotSlot) : List Byte :=
  halfBytes (if r.mark ∨ r.mat = [] then
    (List.range 1024).map (fun k => if k / 32 = k % 32 then 0x3F800000 else 0) else r.mat)

/-- Write a lease's context area in full, VALID included (R355, R368). -/
def writeArea (s : State) (l : Nat) : State :=
  let a := ctxBase s l
  let rt := getRt s l
  if ¬ inMap s a 65536 then s
  else
    let put := fun (off : Nat) (bs : List Byte) (s : State) => spanWrite s (accOf s l) (a + off) bs
    let t := put 0 (headerArea s l) (memZero s a 65536)
    let t := put 0x100 ((rt.frames.map (fun f => wordBytes (frameWords f.thr f.home))).flatten) t
    let t := writeCounters t l
    let t := (List.range 32).foldl (fun t c =>
      put (0x5D38 + 64 * c) (wordBytes [contextWord s l c])
        (if (ctxMask s l).getLsbD c then put (0x5D00 + 64 * c) (streamRecord (getStr s c)) t else t)) t
    let t := put 0x6500 (((List.range (gatherCount s l)).map (fun k =>
      gatherRecord (Tab.get {} s.gather (gatherBase s l + k)))).flatten) t
    let held := heldInstrs s l
    let t := put 0x7500 ((held.map (heldRecord rt)).flatten) t
    let t := put (0x7500 + 128 * cdiv held.length 2) ((sideRecords s l).flatten) t
    put 0x8C00 (((List.range 4).map (fun k => rotBytes (Tab.get {} rt.rot k))).flatten) t

/-! ## Reading (R366, R368) -/

/-- Word k of a context area from an offset. -/
def areaWord (s : State) (l off k : Nat) : Word := memWord s (ctxBase s l + off + 8 * k)
def areaHalf (s : State) (l off k : Nat) : Half := BitVec.ofNat 32 (leNat (memBytes s (ctxBase s l + off + 4 * k) 4))

/-- Whether a lease's context header says VALID. -/
def areaValid (s : State) (l : Nat) : Bool := (areaWord s l 0 0).getLsbD 0

/-- The bits that must be 0 in the word of a context area at an offset (R207, R265, R368): of the header, the slot records, the saved
frames, the counter records, the gathering registers and the reserved end. -/
def areaZero (frames counters gathers o : Nat) : Word :=
  if o < 0x08 then ~~~(0x3FFF01 : Word)
  else if o < 0x10 then 0xFFFFFFFF
  else if o < 0x18 then 0
  else if o < 0x20 then 0xFFFFFFFF00000000
  else if o < 0xA0 then ~~~(0xF1E001FFF1E001FF : Word)
  else if o < 0xE0 then 0
  else if o < 0xE8 then 0xFFFFE00000000000
  else if o < 0xF0 then ~~~(0xF : Word)
  else if o < 0x100 then ~~~(0 : Word)
  else if o < 0x100 + 272 * frames then if (o - 0x100) % 272 / 8 = 32 then 0xFFFFFFFF0000FFC0 else 0
  else if o < 0x4500 then 0
  else if o < 0x4500 + 32 * counters then
    if (o - 0x4500) % 32 / 8 = 2 then 0xFFFFFFFD00000000 else if (o - 0x4500) % 32 / 8 = 3 then ~~~(0 : Word) else 0
  else if o < 0x6500 then 0
  else if o < 0x6500 + 16 * gathers then if o % 16 / 8 = 1 then 0xFFFFFFFF00000000 else 0
  else if o < 0xCC00 then 0 else ~~~(0 : Word)

/-- The bits that must be 0 in the word of a row-set table at an offset (R372). -/
def rowsZero (n pend o : Nat) : Word :=
  if o < 0x40 then 0
  else if o < 0x4040 then if (o - 0x40) / 16 < n then 0 else ~~~(0 : Word)
  else if (o - 0x4040) / 16 < pend then 0xFFFFFFFF00000000 else ~~~(0 : Word)

/-- The first word of a structure of n bytes that has a set bit where it must be 0. -/
def firstSet (s : State) (a n : Nat) (zero : Nat → Word) : Option Nat :=
  (s.mem.find? (fun e => decide (a ≤ e.1 ∧ e.1 < a + n) && ((zero (e.1 - a)) >>> (8 * (e.1 % 8))).setWidth 8 &&& e.2 != 0)).map
    (fun e => e.1 / 8 * 8)

/-- The first word of a lease's context area or row-set table with a non-zero reserved field (R12), by its address. -/
def badRecord (s : State) (l : Nat) : Option Nat :=
  let h := memWord s (rowsetTable s l)
  (firstSet s (ctxBase s l) 65536 (areaZero (bits (areaWord s l 0 0) 15 8) (cntCount s l) (gatherCount s l))).or
    (if bits (areaWord s l 0x10 0) 63 32 = 0 then none
     else firstSet s (rowsetTable s l) 0x4440 (rowsZero (bits h 47 32) (bits h 63 48)))

/-- Whether a counter record would break R249: it keeps the load from taking effect (log entry 41). -/
def brokenRecord (s : State) (l : Nat) : Bool :=
  (List.range (cntCount s l)).any (fun k =>
    let w := fun (j : Nat) => (areaWord s l (0x4500 + 32 * k) j).toNat
    decide (w 0 < w 1 ∨ w 2 % 2 ^ 32 < w 0 - w 1))

/-- Load the counters of a lease from their records, or at 0 (R263, R265). CAP_REFUSED, which R263 does not list and a record does not hold,
is cleared with the rest (DESIGN CHOICE, log entry 88). -/
def loadCounters (s : State) (l : Nat) (valid : Bool) : State :=
  (List.range (cntCount s l)).foldl (fun s k =>
    let w := areaWord s l (0x4500 + 32 * k)
    setCnt s (cntBase s l + k) (if valid then { p := w 0, c := w 1, cap := fld (w 2) 0 32, ovf := (w 2).getLsbD 33 } else {})) s

/-- Fetch what `wordVirt` reads of other endpoints' memory: the READs are sent, or what they have brought is taken. -/
def fetchWord (s : State) (l : Nat) (pc : Word) : State :=
  let c := accOf s l
  match walkNeeds s c pc with
  | some a => farRead s c a 8
  | none => match walk s l pc with
    | none => walkTake s c pc
    | some e => if farWaits s l (physOf e pc) 4 then farRead s c (physOf e pc) 4 else farTake (walkTake s c pc) l (physOf e pc) 4

/-- The instruction word at a lease's address, as memory shows it. -/
def wordVirt (s : State) (l : Nat) (pc : Word) : Half :=
  match walk s l pc with
  | some e => BitVec.ofNat 32 (leNat (memBytes s (physOf e pc) 4))
  | none => 0

def reasonOf (n : Nat) : WaitReason :=
  match n with
  | 1 => .counter | 2 => .load | 3 => .fetch | 4 => .queue | 5 => .fence | 6 => .store | 7 => .beat | 8 => .yield | _ => .none
def tstateOf (n : Nat) : TState :=
  match n with
  | 1 => .ready | 2 => .waiting | 3 => .halted | _ => .free

/-- The k-th saved frame of an area. Its task is not in the frame and is left open (log entry 31). -/
def loadFrame (s : State) (l k : Nat) : Frame :=
  let w := fun (n : Nat) => areaWord s l (0x100 + 272 * k) n
  let st := w 32
  let pc := w 31
  let cause : Byte := fld st 24 8
  let arg := w 33
  let word := wordVirt s l pc
  let take := bits word 31 26 = 0x3B ∧ bits word 23 20 = 3
  let reason := reasonOf (bits st 19 16)
  let kind : HaltKind := if bits st 22 20 ≠ 3 then .none else if st.getLsbD 23 then .imprecise
    else if cause = 0x09 then .trap else .precise
  { thr := { g := (List.range 31).foldl (fun t n => Tab.set 0 t (n + 1) (w n)) [], pc := pc, st := tstateOf (bits st 22 20)
             reason := reason, arg := arg, amount := if reason = .counter then arg >>> 8 else 0
             after := if reason = .counter ∧ take then .take else .resume
             haltCause := cause, imprecise := st.getLsbD 23, haltKind := kind, lease := l
             task := Config.freeNat (s.free + k) % 16, inst := (getRt s l).nextInst + k }
    home := thrOf (bits st 5 0), written := true, pos := k }

/-- The span instruction that OP and SUB name (R209). -/
def opOf (w : Half) : Option SpanOp :=
  match bits w 31 26, bits w 23 20 with
  | 0x30, 0 => some .passFwd | 0x30, 1 => some .passDx | 0x30, 2 => some .passDw | 0x30, 3 => some .passPair
  | 0x31, 0 => some .slotOpen | 0x31, 1 => some .slotClose | 0x31, 2 => some .slotSpill | 0x31, 3 => some .slotFill
  | 0x31, 4 => some .slotStat | 0x32, 0 => some .drain
  | 0x33, 0 => some .streamArm | 0x33, 1 => some .streamRearm | 0x33, 2 => some .streamResume
  | 0x33, 3 => some .streamQuiesce | 0x33, 4 => some .streamRearmRows
  | 0x34, 0 => some .rowsetCommit | 0x35, 0 => some .rotMatrix | 0x35, 1 => some .rotSmooth | 0x36, 0 => some .scaleUpdate
  | 0x37, n => if h : n < 10 then some (.vec ⟨n, h⟩) else none
  | 0x38, 0 => some .chainSend | 0x38, 1 => some .chainRecv | 0x39, 0 => some .mcSend | 0x3A, 0 => some .updIssue
  | _, _ => none

/-- The tile of a held pass with the slots it had read and taken and the signal it had sent. -/
def heldPart (p : PassPart) (sig : Bool) (w n : Nat) : PassPart :=
  { p with signalled := sig, west := { p.west with slot0 := p.west.slot0 - w, read := w, taken := w }
           north := { p.north with slot0 := p.north.slot0 - n, read := n, taken := n } }

/-- The side records of a kind in an area that names up to n held instructions, as their addresses. -/
def areaSide (s : State) (l n kind : Nat) : List Nat :=
  ((List.range (90 - n)).map (fun k => 0x7500 + 64 * (n + k))).filter (fun o => decide ((areaHalf s l o 0).toNat = kind))

/-- The masked rows of the k-th held instruction as the area carries them (R143). -/
def areaMask (s : State) (l n k : Nat) : Option (List Bool) :=
  ((areaSide s l n 1).find? (fun o => decide ((areaHalf s l o 1).toNat = k))).map (fun o =>
    (List.range (areaHalf s l o 2).toNat).map (fun b => (areaWord s l (o + 16) (b / 64)).getLsbD (b % 64)))

/-- The older layers of a held run as the area carries them (R94). -/
def areaLayers (s : State) (l n : Nat) : List (Nat × List Nat) :=
  (areaSide s l n 2).map (fun o => ((areaHalf s l o 1).toNat, posCounts (areaWord s l (o + 16) 0) (areaWord s l (o + 16) 1)))

/-- The held instructions that a header names, rounded up to a multiple of 2. -/
def areaHeld (s : State) (l : Nat) : Nat := 2 * bits (areaWord s l 0 0) 21 16

/-! ## Ring slots that a held pass had read (R27, R157) -/

/-- Fill a ring slot again with a transfer that had landed, from the source that its extent had (R172). -/
def reland (s : State) (l c n : Nat) : State :=
  let x := extentOf (getStr s c) n
  match ringPage s l c n with
  | none => s
  | some pg =>
    let north := decide (stKind x = 1)
    let s := (tileSegs x (n - x.base)).foldl (fun s g =>
      let r := readVirt s (accOf s l) g.1 g.2.1
      match r.1 with
      | .ok bs => storeWrite r.2 north (addrBytes (4096 * pg + g.2.2) bs)
      | .error _ => r.2) s
    let v := validOf x n
    setTags s north pg (max 1 (stPages x))
      { ringTag x (getTag s north pg) with gen := x.gen, validRows := v.1, validCols := v.2 }

/-- Fill a context's ring again with the transfers that stood in it. -/
def relandRing (s : State) (l c : Nat) : State :=
  let x := getStr s c
  if ¬ stIsRing x then s
  else
    let lo := max (firstHeld x) (x.next - stRing x)
    (List.range (x.next - lo)).foldl (fun s k => reland s l c (lo + k)) s

/-- The transfers that an interval reads of a ring, by context and number. -/
def ringUse (s : State) (p : PassPart) (o : Opnd) (north : Bool) (it : Nat) : List (Nat × Nat) :=
  let rows := alongRows p.kind north
  let e := lastPos p o rows it
  let n := ringSpan s o rows
  let lo := if it = 0 then 0 else lastPos p o rows (it - 1) / n
  if ¬ o.ring ∨ e = 0 then [] else (List.range ((e - 1) / n + 1 - lo)).map (fun k => (o.ctx, o.slot0 + lo + k))

/-- Capture again the blocks of an interval that a held run had captured from slots which it has taken since: their transfers are put in their
slots once more. -/
def recapture (s : State) (r : PassRun) (key : Nat) : PassRun × State :=
  let pt := runSched r key
  match r.parts[pt.1]? with
  | none => (r, s)
  | some p =>
    let w := ringUse s p p.west false pt.2
    let n := ringUse s p p.north true pt.2
    if w.any (fun c => decide (c.2 < p.west.slot0 + p.west.taken)) || n.any (fun c => decide (c.2 < p.north.slot0 + p.north.taken)) then
      let s := (w ++ n).foldl (fun s c => reland s r.lease c.1 c.2) s
      ({ r with blocks := Tab.put r.blocks key (capture s r.lease p pt.2).1 }, s)
    else (r, s)

/-- The intervals of a sweep whose blocks a held run has still to use. -/
def keysLeft (r : PassRun) : List Nat :=
  let n := max 1 (runN r)
  let t := r.counts.getD 318 0
  (List.range (runN r)).filter (fun k => decide (t / n + 1 < runSweeps r ∨ t % n ≤ k))

/-- A held run with the blocks that it had captured, and the rings as they stood. -/
def recaptured (s : State) (r : PassRun) : PassRun × State :=
  let q := (keysLeft r).foldl (fun (q : PassRun × State) k => recapture q.2 q.1 k) (r, s)
  let ctxs := (r.parts.map (fun p => [p.west, p.north])).flatten.filterMap (fun o => if o.ring then some o.ctx else none)
  (q.1, if q.1.blocks = [] then q.2 else ctxs.foldl (fun s c => relandRing s r.lease c) q.2)

/-- The run of a held pass, made again from its descriptors, the mask it had read (R143), its active groups and ARRAY_POS, with the blocks
that it had captured. ARRAY_POS counts the intervals as the active groups of the saving span numbered them, and these are kept with it (R94;
log entry 30). -/
def heldRun (s : State) (i : SpanI) (flags : Half) (d e : Word) : Option PassRun × State :=
  let r := readDesc s (accI i) i.a 64 false
  let q := if i.op = .passPair then readDesc r.2 (accI i) i.b 64 false else (.ok [], r.2)
  match r.1, q.1 with
  | .ok x, .ok y =>
    let j := { i with ready := true, desc := x, desc2 := y, stage := .running }
    let plan := passPlan (putInstr q.2 j) j
    let parts := match plan.1.2 with
      | [p] => [heldPart p (flags.getLsbD 15) (bits d 31 0) (bits d 63 32)]
      | [p, v] => [heldPart p (flags.getLsbD 15) (bits d 31 0) (bits d 63 32),
          heldPart v (flags.getLsbD 16) (bits e 31 0) (bits e 63 32)]
      | ps => ps
    let counts := posCounts (areaWord s i.lease 0x08 0) (areaWord s i.lease 0xE0 0)
    let run := newRun plan.2 j parts
    let groups := bits flags 24 18
    let z := recaptured plan.2 { run with groups := groups, counts := counts, t := maxL counts, stop := some .preempt, limit := counts
                                          supp := (groups, counts) :: areaLayers s i.lease (areaHeld s i.lease) }
    (some z.1, z.2)
  | _, _ => (none, q.2)

/-- Load the k-th of n held instructions. A pass whose mask is not in the area reads it again when it is armed again. -/
def loadInstr (s : State) (l k n : Nat) : State :=
  let h := fun (q : Nat) => areaHalf s l (0x7500 + 64 * k) q
  let w := fun (q : Nat) => areaWord s l (0x7500 + 64 * k) q
  match opOf (h 0) with
  | none => s
  | some op =>
    let flags := h 3
    let rt := getRt s l
    let fr := bits flags 14 7
    let inst := if fr = 0 then 2 ^ 40 else ((rt.frames[fr - 1]?).map (fun f => f.thr.inst)).getD 0
    let i : SpanI := { u := s.nextUid, op := op, lease := l, th := thrOf (bits flags 6 1), inst := inst, pc := w 6, w0 := h 0
                       w1 := h 1, w2 := if flags.getLsbD 0 then 0 else h 2, a := w 2, b := w 3, c := w 4
                       d := if flags.getLsbD 0 then 0 else w 5, seq := if flags.getLsbD 0 then h 2 else fld (w 7) 0 32, cls := leaseClass s l, leg := legacy s l, dom := cacheDomain s l
                       root := leaseWord s l 6
                       mask := if flags.getLsbD 17 then areaMask s l n k else none }
    let s := { s with nextUid := s.nextUid + 1, instrs := s.instrs ++ [i] }
    if flags.getLsbD 0 then
      let r := heldRun s i flags (w 5) (w 7)
      match r.1 with
      | some run => setRt r.2 l { getRt r.2 l with held := some run }
      | none => r.2
    else s

/-- The extents that a context has left, as the area carries them. -/
def areaExtents (s : State) (l c : Nat) (ws : List Word) : List Extent :=
  ((areaSide s l (areaHeld s l) 3).filter (fun o => decide ((areaHalf s l o 1).toNat = c))).map (fun o =>
    let w := areaWord s l (o + 16)
    let rows := bits (w 2) 31 0
    ⟨(w 0).toNat, movedDesc ws (w 1) rows, w 1, rows, if (areaHalf s l o 2) = 1 then some (fld (w 2) 32 32) else none⟩)

/-- Load a stream context from its record: the descriptor is read again and the displacement and ROWS applied (R366, R413);
one that cannot be read leaves the context halted. The ring's slots are filled again, each from its own extent. -/
def loadStream (s : State) (l c : Nat) : State :=
  let w := fun (k : Nat) => areaWord s l (0x5D00 + 64 * c) k
  let st := sstateOf (bits (w 7) 2 0)
  if st = .unarmed then setStr s c {}
  else
    let r := readVirt s (accOf s l) (w 0).toNat 64
    let x : Stream := { st := st, descAddr := w 0, disp := w 1, rows := bits (w 2) 31 0
                        gen := if (w 7).getLsbD 3 then some (fld (w 2) 32 32) else none
                        base := (w 4).toNat, next := (w 3).toNat, start := (w 3).toNat, faultAddr := w 5, faultXfer := w 6
                        notHalted := (w 7).getLsbD 4 }
    match r.1 with
    | .error .wait => r.2
    | .error _ => haltStream (setStr r.2 c x) l c x.next (w 0).toNat 0x10 0
    | .ok bs =>
      let ws := words64 bs
      let x := { x with desc := movedDesc ws x.disp x.rows, old := areaExtents s l c ws }
      let x := { x with gated := (stGate x).isSome && (w 7).getLsbD 5 }
      relandRing (tagRing (setStr r.2 c x) l c true) l c

/-- The committed row set and pending joins that a table holds (R372). -/
def loadRows (s : State) (l : Nat) : List RsEntry × List (Half × Nat) :=
  let a := rowsetTable s l
  let h := memWord s a
  ((List.range (bits h 47 32)).map (fun k =>
      let u := memWord s (a + 0x40 + 16 * k)
      let v := memWord s (a + 0x48 + 16 * k)
      { id := fld u 0 32, start := bits u 63 32, len := bits v 31 0, chunk := bits v 43 32, chunks := bits v 55 44 }),
   (List.range (bits h 63 48)).map (fun k =>
      (fld (memWord s (a + 0x4040 + 16 * k)) 0 32, bits (memWord s (a + 0x4048 + 16 * k)) 31 0)))

/-- Bind a slot index of the header as SPILLED. Its slot record has no place for its columns and column base, which the last word of the
stream context record of its number carries (R27; log entry 32). -/
def loadSlot (s : State) (l x : Nat) : State :=
  let h := areaHalf s l 0x20 x
  let e := areaWord s l (0x5D38 + 64 * x) 0
  setSlot s x { st := .spilled, lease := l, fr := 2 ^ bits h 24 23, fc := 2 ^ bits h 22 21, ksum := fld h 0 9
                colBase := fld e 32 32, cols := 1 + bits e 31 20, poison := h.getLsbD 31, accSat := h.getLsbD 30
                psat := h.getLsbD 29, special := h.getLsbD 28 }

/-- The lease's run-time state from its header. -/
def loadRt (s : State) (l : Nat) (tasks : List Task) (binds : List McBind) : LeaseRt :=
  let old := getRt s l
  let w := areaWord s l
  let rows := loadRows s l
  let gen : Half := fld (w 0x10 0) 32 32
  { seq := fld (w 0x10 0) 0 32, rsGen := gen, rowSet := if gen = 0 then none else some rows.1
    pendJoins := if gen = 0 then [] else rows.2, tasks := tasks, binds := binds
    rot := (List.range 4).foldl (fun t k => Tab.set {} t k
      (if (w 0xE8 0).getLsbD k then {} else
        { mat := (List.range 1024).map (fun q => areaHalf s l (0x8C00 + 4096 * k) q), mark := false })) []
    meters := ⟨w 0xA0 0, w 0xA0 1, w 0xA0 2, w 0xA0 3, w 0xA0 4⟩, repSeq := old.repSeq
    nextInst := old.nextInst + bits (w 0 0) 15 8
    frames := (List.range (bits (w 0 0) 15 8)).map (loadFrame s l) }

/-- Load a lease's whole context from its area (R366). -/
def loadArea (s : State) (l : Nat) (tasks : List Task) (binds : List McBind) : State :=
  let s := (List.range (bits (areaWord s l 0 0) 15 8)).foldl (fun s k => fetchWord s l (areaWord s l (0x100 + 272 * k) 31)) s
  let s := setRt s l (loadRt s l tasks binds)
  let s := { s with free := s.free + 256 }
  let s := loadCounters s l true
  let s := (List.range (gatherCount s l)).foldl (fun s k =>
    let h := areaHalf s l (0x6500 + 16 * k)
    { s with gather := Tab.set {} s.gather (gatherBase s l + k) { amax := h 0, sat := h 1, nan := h 2 } }) s
  let mask := areaHalf s l 0x18 0
  let s := (List.range 32).foldl (fun s x => if mask.getLsbD x then loadSlot s l x else s) s
  let s := (List.range 32).foldl (fun s c => if (ctxMask s l).getLsbD c then loadStream s l c else s) s
  let n := areaHeld s l
  (List.range n).foldl (fun s k => loadInstr s l k n) s

end Sys2Proof.Machine
end

