-- ==== Sys2Proof/Machine/Park.lean ====
section
/-! DEFINITION. The commands of a lease (R353 to R355, R377) and pre-emption (R361 to R366). -/

namespace Sys2Proof.Machine

/-! ## Commands (R353, R354) -/

/-- Set LEASE_CTL.REFUSED. -/
def refuseLease (s : State) (l : Nat) : State := setCtl s l { getCtl s l with refused := true }

/-- Whether lease commands are refused and leases stay as they are: from STOPPED on, and in TEST (R417, R421). A stop that runs refuses none. -/
def leaseShut (s : State) : Bool := decide (3 ≤ s.eng.mode.toNat)

/-- A position is PARKED, which the meter record of the period tells (R383). -/
def markParked (s : State) (l : Nat) : State := setRt s l { getRt s l with parked := true }

/-- Change a lease's state and BUSY. -/
def setLState (s : State) (l : Nat) (st : LState) (busy : Bool) : State := setCtl s l { getCtl s l with st := st, busy := busy }

/-- Note or end the command in progress. -/
def setCmd (s : State) (l : Nat) (c : BitVec 3) : State := setRt s l { getRt s l with cmd := c }

/-! ## What holds the array (R361, R362) -/

/-- Whether an Express lease has a pass running or standing next. -/
def expressHolds (s : State) : Bool :=
  s.arr.run.any (fun r => runClass s r == 0) || (standsNext s).any (fun l => workClass s 1 l == 0)

/-- The contexts of a lease stop issuing (R173). -/
def stopStreams (s : State) (l : Nat) : State :=
  (List.range 32).foldl (fun s c =>
    if (ctxMask s l).getLsbD c ∧ stIsRing (getStr s c) ∧ (getStr s c).st ≠ .unarmed then
      setStr s c { getStr s c with stopped := true } else s) s

/-- Stop what a lease that is parked or suspended runs: its pass at the promotion boundary, its streams (R362). -/
def stopLease (s : State) (l : Nat) : State :=
  let s := if s.arr.run.any (fun r => r.lease == l) then preemptRun s else s
  stopStreams s l

/-! ## Restore (R366) -/

/-- Put a lease back to work: RESIDENT, its frames on the threads that R208 chooses, its streams and links going on. -/
def restoreLease (s : State) (l : Nat) : State :=
  let s := setCtl s l { getCtl s l with st := .resident, busy := false, parkWindow := false, parkExpress := false }
  let s := setRt s l { getRt s l with saving := false, cmd := 0 }
  linkPoll (streamPoll (restoreFrames l 64 s))

/-- Restore a lease, or park it for the causes that hold (R354, R364, R381). -/
def restoreOrPark (s : State) (l : Nat) (express : Bool) : State :=
  if inWindow s l ∧ ¬ express then restoreLease s l
  else
    markParked (setCmd (setCtl s l { getCtl s l with st := .parked, busy := false, parkWindow := !inWindow s l, parkExpress := express }) l 0) l

/-! ## LOAD (R354, R366) -/

/-- A lease's store windows: North, first page and pages. -/
def windowsOf (s : State) (l : Nat) : List (Bool × Nat × Nat) :=
  [(false, westBase s l, westPages s l), (true, northBase s l, northPages s l)]

/-- Whether pages of a lease's windows still wait for their scrub. -/
def windowsDirty (s : State) (l : Nat) : Bool :=
  (List.range 16).any (fun k => (getRt s k).fills.any (fun f =>
    (windowsOf s l).any (fun w => w.1 == f.1 && rangesMeet w.2.1 w.2.2 f.2.1 f.2.2)))

/-- Refuse a LOAD: the position is EMPTY again. -/
def refuseLoad (s : State) (l : Nat) : State :=
  setRt (setCtl (hwSet (forgetFar s l) .span (0x2800 + 8 * l) 0x400) l { getCtl s l with st := .empty, busy := false, refused := true }) l
    { getRt s l with cmd := 0, scrubWait := false }

/-- Whether a slot index of a header is bound to another lease. -/
def slotTaken (s : State) (l : Nat) : Bool :=
  let mask := areaHalf s l 0x18 0
  (List.range 32).any (fun x => mask.getLsbD x && slotForeign s l x)

/-- The run-time state of a lease that starts fresh. -/
def freshRt (old : LeaseRt) (tasks : List Task) (binds : List McBind) : LeaseRt :=
  { tasks := tasks, binds := binds, repSeq := old.repSeq, nextInst := old.nextInst }

/-- Load a lease whose tables and context area are at hand: its tasks and bindings, then fresh, or from its context area. Of a header with
VALID = 0 no other bit is judged (DESIGN CHOICE, log entry 97). -/
def loadTry (s : State) (l : Nat) : State :=
  match readTasks s (taskBase s l) (taskCount s l) (cntBase s l) (cntCount s l),
        readBinds s (mcBindBase s l) (mcCount s l) (cntBase s l) (cntCount s l), physTable s (ctxBase s l) 65536 with
  | .ok ts, .ok bs, some _ =>
    if ¬ areaValid s l then
      let s := setRt (loadCounters s l false) l (freshRt (getRt s l) ts bs)
      restoreOrPark s l false
    else if slotTaken s l then refuseLoad s l
    else match badRecord s l with
      | some a => leaseReport (refuseLoad s l) l 0x03 none false false 0 0 1 (BitVec.ofNat 64 a)
      | none => if brokenRecord s l then refuseLoad s l else restoreOrPark (loadArea s l ts bs) l false
  | _, _, _ => refuseLoad s l

/-- What LOAD reads before it judges anything: the tables and the header, then, of a VALID area, all of it and the row-set table. -/
def loadRuns (s : State) (l : Nat) : List (Nat × Nat) :=
  let first := tableRuns s l ++ [(ctxBase s l, 8)]
  if first.any (fun r => farWaits s l r.1 r.2) ∨ ¬ areaValid s l then first
  else first ++ [(ctxBase s l, 65536)] ++ (if bits (areaWord s l 0x10 0) 63 32 = 0 then [] else [(rowsetTable s l, 0x4440)])

/-- The state of a LOAD that has to wait for READs which `t` has sent: LOAD_AFTER_SCRUB tries it again (log entry 49). -/
def loadLater (s t : State) (l : Nat) : State :=
  setRt { s with net := { t.net with got := s.net.got }, abut := t.abut } l { getRt s l with scrubWait := true }

/-- Whether READs of a lease for its tables, descriptors or data are not answered. -/
def readsOut (s : State) (l : Nat) : Bool := s.net.out.any (fun e => match e.2 with | .table k _ _ => decide (k = l) | _ => false)

/-- Load a lease, once what it reads of other endpoints' memory has come. -/
def loadNow (s : State) (l : Nat) : State :=
  let rs := loadRuns s l
  if rs.any (fun r => farWaits s l r.1 r.2) then loadLater s (farReads s (accOf s l) rs) l
  else
    let t := loadTry s l
    if lstate t l ≠ .empty ∧ readsOut t l then loadLater s t l else forgetFar t l

/-- The command LOAD. -/
def leaseLoad (s : State) (l : Nat) : State :=
  if leaseShut s ∨ lstate s l ≠ .empty ∨ (getCtl s l).busy then refuseLease s l
  else
    let s := setCmd (setLState s l .loading true) l 1
    if windowsDirty s l then setRt s l { getRt s l with scrubWait := true } else loadNow s l

/-- LOAD_AFTER_SCRUB: a LOAD that waits goes on once its store pages are scrubbed; so does one that waited for READs. -/
def execLoadAfterScrub (l : Fin 16) (s : State) : Result :=
  .next (if lstate s l.val = .loading ∧ (getRt s l.val).scrubWait ∧ ¬ windowsDirty s l.val then
      loadNow (setRt s l.val { getRt s l.val with scrubWait := false }) l.val
    else s)

/-! ## PARK, SUSPEND and the save sequence (R361 to R363) -/

/-- Whether a lease is being parked. -/
def beingParked (s : State) (l : Nat) : Bool :=
  decide (lstate s l = .resident) && ((getCtl s l).parkWindow || (getCtl s l).parkExpress)

/-- The victim of an Express pass that stands next. -/
def passVictim (s : State) : Option Nat :=
  match s.arr.run with
  | some r => if r.stop.isNone ∧ runClass s r ≠ 0 ∧ (standsNext s).any (fun l => workClass s 1 l == 0) then some r.lease
      else none
  | none => none

/-- The victim of an Express task, or of an Express frame that its core's failure displaced (R411), that finds no FREE thread: of the
lowest class that holds threads, the highest lease. -/
def taskVictim (s : State) : Option Nat :=
  let waits := (List.range 16).any (fun l => leaseClass s l == 0 &&
    ((List.range 16).any (candidate s l) || (decide (lstate s l = .resident) && (getRt s l).frames.any (·.displaced))))
  if ¬ waits ∨ allThreads.any (freeThread s) then none
  else
    let holds := fun (c : Nat) => (List.range 16).reverse.find? (fun l =>
      decide (leaseClass s l = c ∧ lstate s l = .resident ∧ 0 < threadsHeld s l))
    match holds 2 with
    | some l => some l
    | none => holds 1

/-- PARK: for Express, or at the end of the run window. -/
def execPark (l : Fin 16) (window : Bool) (s : State) : Result :=
  .next (if leaseShut s ∨ lstate s l.val ≠ .resident ∨ (List.range 16).any (beingParked s) ∨ (getRt s l.val).cmd = 2 then s
    else if window then
      if inWindow s l.val ∨ s.lease.gen.due then s
      else stopLease (setCtl s l.val { getCtl s l.val with parkWindow := true }) l.val
    else if passVictim s = some l.val ∨ ((passVictim s).isNone ∧ taskVictim s = some l.val) then
      stopLease (setCtl s l.val { getCtl s l.val with parkExpress := true }) l.val
    else s)

/-- The command SUSPEND: the same stop as a park; a PARKED lease saves its remaining frames (R364). -/
def doSuspend (s : State) (l : Nat) : State :=
  if leaseShut s ∨ (getCtl s l).busy then refuseLease s l
  else match lstate s l with
    | .resident => stopLease (setCmd (setLState s l .resident true) l 2) l
    | .parked =>
      let s := setCtl s l { getCtl s l with st := .suspended, busy := true, parkWindow := false, parkExpress := false }
      let s := setRt s l { getRt s l with cmd := 2, saving := true }
      endSuspend ((List.range 4).foldl (fun s c => saveSome s l c 16 6) s) l
    | _ => refuseLease s l

/-- A run that the array has come to rest with is held by its lease. -/
def holdRun (s : State) (l : Nat) : State :=
  match s.arr.run with
  | some r => if r.lease = l then leaveArray (setRt s l { getRt s l with held := some r }) r else s
  | none => s

/-- Whether the array is empty of a lease's pass: none runs, or it has stopped short of its end. -/
def arrayEmptyOf (s : State) (l : Nat) : Bool :=
  match s.arr.run with
  | some r => decide (r.lease ≠ l) || (runStopped r && !r.counts.all (fun c => decide (runTotal r ≤ c)))
  | none => true

/-- The save sequence: ARRAY_POS formed, threads stopped and instructions withdrawn, the counters' snapshot, two frames of each
core and then those for which the save buffer has room (R363). -/
def saveSequence (s : State) (l : Nat) : State :=
  let s := settleOffers (holdRun s l) l
  let s := setRt s l { getRt s l with saving := true, frames := (getRt s l).frames.map (fun f => { f with displaced := false }) }
  let s := writeCounters s l
  let s := (List.range 4).foldl (fun s c => saveSome s l c 2 8) s
  let s := (List.range 4).foldl (fun s c => saveSome s l c 16 6) s
  if (getRt s l).cmd = 2 then
    endSuspend (setCtl s l { getCtl s l with st := .suspended, parkWindow := false, parkExpress := false }) l
  else markParked (setLState s l .parked (getCtl s l).busy) l

/-- SAVE_SEQUENCE. -/
def execSaveSequence (l : Fin 16) (s : State) : Result :=
  .next (if lstate s l.val = .resident ∧ parking s l.val ∧ arrayEmptyOf s l.val then saveSequence s l.val else s)

/-- PARK_RESTORE (R362, R366, R381). A commit that is due is taken first (R364). -/
def execParkRestore (l : Fin 16) (s : State) : Result :=
  .next (if lstate s l.val = .parked ∧ ¬ leaseShut s ∧ inWindow s l.val ∧
      ¬ s.lease.gen.due ∧ (leaseClass s l.val = 0 ∨ ¬ expressHolds s) ∧ allThreads.any (freeThread s) then restoreLease s l.val else s)

/-- The command RESUME. -/
def doResume (s : State) (l : Nat) : State :=
  if leaseShut s ∨ (getCtl s l).busy ∨ lstate s l ≠ .suspended then refuseLease s l
  else restoreOrPark s l (leaseClass s l ≠ 0 && expressHolds s)

/-! ## Freeing a position (R355, R377, R388) -/

/-- Clear the performance counters that name a lease (R388). -/
def perfClear (s : State) (l : Nat) : State :=
  (List.range 16).foldl (fun s n =>
    let c := Tab.get 0 s.perf.ctl n
    if c.getLsbD 24 ∧ bits c 23 20 = l then
      { s with perf := { s.perf with val := Tab.set 0 s.perf.val n 0, ctl := Tab.set 0 s.perf.ctl n (c &&& ~~~0x0C001000) } }
    else s) s

/-- Zero a lease's store windows and the tags of their pages. -/
def zeroWindows (s : State) (l : Nat) : State :=
  let wl := westBase s l
  let wh := wl + westPages s l
  let nl := northBase s l
  let nh := nl + northPages s l
  let q := s.store
  { s with store := { q with
      west := q.west.filter (fun e => decide (e.1 / 4096 < wl ∨ wh ≤ e.1 / 4096))
      north := q.north.filter (fun e => decide (e.1 / 4096 < nl ∨ nh ≤ e.1 / 4096))
      tags := q.tags.filter (fun e => if e.1 < 4096 then decide (e.1 < wl ∨ wh ≤ e.1)
        else decide (e.1 - 4096 < nl ∨ nh ≤ e.1 - 4096)) } }

/-- Invalidate what the caches hold of a lease, and zero its gathering registers. -/
def clearCaches (s : State) (l : Nat) : State :=
  let clean := fun (k : Core) => { k with
    icache := k.icache.filter (fun c => c.lease != l), itlb := k.itlb.filter (fun c => c.lease != l)
    dtlb := k.dtlb.filter (fun c => c.lease != l), pred := k.pred.filter (fun e => e.2.lease != l) }
  let s := (List.range 4).foldl (fun s c => setCore s c (clean (getCore s c))) s
  { s with xlate := s.xlate.filter (fun e => e.lease != l), dcache := s.dcache.filter (fun e => e.lease != l)
           ftab := s.ftab.filter (fun e => e.lease != l)
           gather := s.gather.filter (fun e => decide (e.1 < gatherBase s l ∨ gatherBase s l + gatherCount s l ≤ e.1)) }

/-- Unarm a lease's stream contexts. -/
def clearStreams (s : State) (l : Nat) : State :=
  (List.range 32).foldl (fun s c => if (ctxMask s l).getLsbD c then setStr s c {} else s) s

/-- Discard a lease's span instructions and what runs of them, the chains apart (R377 step 1). -/
def dropWork (s : State) (l : Nat) : State :=
  let s := (List.range 4).foldl (fun s c =>
    let k := getCore s c
    setCore s c { k with offers := k.offers.filter (fun i => i.lease != l) }) s
  { s with instrs := s.instrs.filter (fun i => decide (i.lease ≠ l) || (isChain i.op && decide (i.stage = .running)))
           drn := s.drn.filter (fun r => r.lease != l), vec := s.vec.filter (fun r => r.lease != l)
           rs := s.rs.filter (fun r => r.lease != l)
           mc := { s.mc with sends := s.mc.sends.filter (fun r => r.lease != l)
                             recv := s.mc.recv.filter (fun r => r.lease != l) }
           gir := { s.gir with mover := s.gir.mover.filter (fun m => m.lease != l) } }

/-- The run-time state of an EMPTY position: its report numbers and the model's own go on. -/
def emptyRt (rt : LeaseRt) : LeaseRt := { repSeq := rt.repSeq, nextInst := rt.nextInst }

/-- Free a position: EMPTY, nothing in progress, and its performance counters cleared. -/
def freePosition (s : State) (l : Nat) : State :=
  let s := setRt (perfClear (forgetFar s l) l) l (emptyRt (getRt s l))
  setCtl s l { refused := (getCtl s l).refused }

/-- Whether bursts of a lease's contexts are under way. -/
def burstsOut (s : State) (l : Nat) : Bool :=
  (List.range 32).any (fun c => (ctxMask s l).getLsbD c && (getStr s c).xfers.any (fun t => t.bursts.any inFlight))

/-! ## UNLOAD (R355) -/

/-- The command UNLOAD. -/
def doUnload (s : State) (l : Nat) : State :=
  if leaseShut s ∨ (getCtl s l).busy ∨ lstate s l ≠ .suspended then refuseLease s l
  else setCmd (setLState s l .unloading true) l 4

/-- Whether a lease's unload may go on: no chain, no spill or fill, no instruction yet to cross, and no other instruction of it still runs. -/
def unloadReady (s : State) (l : Nat) : Bool :=
  decide (lstate s l = .unloading) && !s.chn.any (fun r => r.lease == l) && !s.gir.mover.any (fun m => m.lease == l) &&
    !burstsOut s l && (List.range 4).all (fun c => !(getCore s c).offers.any (fun i => i.lease == l)) && !(heldInstrs s l).any (fun i => decide (i.stage = .running) && (i.owes.isSome || (!isPass i.op && !isRearm i.op)))

/-- Spill a slot of an unloading lease whole; a page in no window halts the mover, and the unload waits for its resume. -/
def unloadSlot (s : State) (l x : Nat) : State :=
  let v := getSlot s x
  if v.lease ≠ l ∨ v.segs = [] ∨ v.st = .free ∨ s.gir.mover.isSome then s
  else
    let s := startMover (setSlot s x { v with st := .spilling, evicting := false }) ⟨x, false, 0, false, none, l⟩
    match moved s false with
    | none => s
    | some _ =>
      let s := setSlot s x { getSlot s x with st := .spilled, segs := [] }
      { s with gir := { s.gir with scrubQ := s.gir.scrubQ ++ v.segs, mover := none } }

/-- UNLOAD_PROCEED: the spills, the context area, the FINAL record, and the position is free. The freed windows and caches
are scrubbed as a release scrubs them (log entry 33). -/
def unloadProceed (s : State) (l : Nat) : State :=
  let s := (List.range 32).foldl (fun s x => unloadSlot s l x) s
  if (List.range 32).any (fun x => decide ((getSlot s x).lease = l) && (getSlot s x).segs != []) then s
  else
    let s := meterRecord (foldMeters s l) l true
    let s := writeArea s l
    let s := (List.range 32).foldl (fun s x => if (getSlot s x).st ≠ .free ∧ (getSlot s x).lease = l then setSlot s x {} else s) s
    let s := { s with instrs := s.instrs.filter (fun i => i.lease != l) }
    let s := clearStreams (clearCaches (zeroWindows (dropWork s l) l) l) l
    freePosition s l

def execUnloadProceed (l : Fin 16) (s : State) : Result :=
  .next (if unloadReady s l.val ∧ ¬ leaseShut s then unloadProceed s l.val else s)

/-! ## RELEASE (R377) -/

/-- The command RELEASE, with step 1: the running pass stopped without ARRAY_POS, instructions discarded without signal,
threads killed. -/
def doRelease (s : State) (l : Nat) : State :=
  if leaseShut s ∨ lstate s l = .empty then refuseLease s l
  else if lstate s l = .releasing then s
  else
    let s := match s.arr.run with
      | some r => if r.lease = l then leaveArray (discard s r) r else s
      | none => s
    let s := setCtl s l { getCtl s l with st := .releasing, busy := true, parkWindow := false, parkExpress := false }
    let s := setRt s l { getRt s l with cmd := 5, held := none, frames := [], saving := false, scrubWait := false, torn := false
                                        fills := windowsOf s l }
    let s := dropWork s l
    allThreads.foldl (fun s t => if (getThr s t).st ≠ .free ∧ (getThr s t).lease = l then doThreadKill s t else s) s

/-- RELEASE_TEARDOWN: once the threads are FREE and every issued burst has landed, steps 2 to 7. -/
def teardown (s : State) (l : Nat) : State :=
  let s := dropChains s l
  let s := clearStreams { s with instrs := s.instrs.filter (fun i => i.lease != l) } l
  let s := (List.range 32).foldl (fun s x =>
    if (getSlot s x).st ≠ .free ∧ (getSlot s x).lease = l then releaseSlot s x else s) s
  let s := clearCaches (zeroWindows s l) l
  let s := setRt s l { getRt s l with rot := [], rowSet := none, pendJoins := [], torn := true }
  meterRecord (foldMeters s l) l true

def execReleaseTeardown (l : Fin 16) (s : State) : Result :=
  .next (if lstate s l.val = .releasing ∧ ¬ (getRt s l.val).torn ∧ threadsHeld s l.val = 0 ∧ ¬ burstsOut s l.val then
      teardown s l.val else s)

/-- RELEASE_COMPLETE: the fills have ended, and the position is EMPTY. -/
def execReleaseComplete (l : Fin 16) (s : State) : Result :=
  .next (if lstate s l.val = .releasing ∧ (getRt s l.val).torn then freePosition s l.val else s)

/-! ## The commands as host software writes them -/

/-- A write of LEASE_CTL (R353, R354): REFUSED is W1C, then the command; a CMD value that the table does not list, 0 among them, is refused
(log entry 10). -/
def leaseCtlWrite (s : State) (l : Nat) (v : Word) : State :=
  let s := if (w1c s .span (0x2800 + 8 * l) v).getLsbD 10 then setCtl s l { getCtl s l with refused := false } else s
  match bits v 2 0 with
  | 1 => leaseLoad s l
  | 2 => doSuspend s l
  | 3 => doResume s l
  | 4 => doUnload s l
  | 5 => doRelease s l
  | _ => refuseLease s l

def execLoad (l : Fin 16) (s : State) : Result := .next (if s.eng.scrubDone then leaseLoad s l.val else s)
def execSuspend (l : Fin 16) (s : State) : Result := .next (if s.eng.scrubDone then doSuspend s l.val else s)
def execResume (l : Fin 16) (s : State) : Result := .next (if s.eng.scrubDone then doResume s l.val else s)
def execUnload (l : Fin 16) (s : State) : Result := .next (if s.eng.scrubDone then doUnload s l.val else s)
def execRelease (l : Fin 16) (s : State) : Result := .next (if s.eng.scrubDone then doRelease s l.val else s)

end Sys2Proof.Machine
end

