-- ==== Sys2Proof/Machine/Banks.lean ====
section
/-! DEFINITION. Faults of storage: the Girder's and the stores' banks and words (R408, R409), and upsets in the engine set's own storage
(R182, R407, R412, R414). -/

namespace Sys2Proof.Machine

/-- Spare banks still free: of the Girder (0), the West store (2) or the North store (4) by the first of the two entries. -/
def sparesLeft (s : State) (k : Nat) : Nat :=
  ([k, k + 1].filter (fun j => !(Tab.get 0 s.fuse.spareBank j).getLsbD 15)).length

/-- Whether a bank has been replaced already. -/
def spared (s : State) (k b : Nat) : Bool :=
  [k, k + 1].any (fun j => Tab.get 0 s.fuse.spareBank j == (0x8000 ||| BitVec.ofNat 16 b))

/-- Take a spare for a bank; none where no spare is left. -/
def takeSpare (s : State) (k b : Nat) : Option State :=
  ([k, k + 1].find? (fun j => !(Tab.get 0 s.fuse.spareBank j).getLsbD 15)).map (fun j =>
    { s with fuse := { s.fuse with spareBank := Tab.set 0 s.fuse.spareBank j (0x8000 ||| BitVec.ofNat 16 b) } })

/-! ## The Girder's and the stores' banks (R408, R409) -/

/-- Whether storage faults are handled at run time. -/
def inService (s : State) : Bool := s.eng.scrubDone && !stopping s

/-- A Girder bank fails: its row of every slot that holds segments is masked and the slot poisoned; a spare is taken and promotions into
it stall until it is zero-filled. With no spare left the engine set stops (R416). -/
def girderBankFail (s : State) (b : Nat) : State :=
  if ¬ inService s then s
  else
    let mark := fun (s : State) (x : Nat) =>
      let v := getSlot s x
      if v.segs = [] then s else setSlot s x { v with poison := true, poisonRows := v.poisonRows ||| ((1 : BitVec 256) <<< b) }
    let s := (List.range 32).foldl mark s
    match takeSpare s 0 b with
    | some s =>
      engineReport { s with gir := { s.gir with bankBusy := s.gir.bankBusy ++ [b] } } 0x63 (BitVec.ofNat 64 b)
        (BitVec.ofNat 64 (sparesLeft s 0))
    | none => startStop s 1 (BitVec.ofNat 64 b)

/-- GIRDER_BANK_FAIL. -/
def execGirderBankFail (b : Fin 256) (s : State) : Result := .next (girderBankFail s b.val)

/-- A Girder bank that has given four uncorrectable words within 2^20 cycles fails (R408). -/
def wornBank (s : State) : State :=
  let recent := s.gir.ueWords.filter (fun e => decide (s.now < e.2 + 2 ^ 20))
  let banks := recent.map (fun e => e.1 / 32768)
  match banks.find? (fun b => decide (4 ≤ banks.count b)) with
  | none => s
  | some b => girderBankFail { s with gir := { s.gir with ueWords := recent.filter (fun e => e.1 / 32768 != b) } } b

/-- GIRDER_SPARE_READY: the spare stands zero-filled in the bank's place. -/
def execGirderSpareReady (s : State) : Result :=
  .next (match s.gir.bankBusy with
    | [] => s
    | b :: t => { s with gir := { s.gir with bankBusy := t
                                             ent := s.gir.ent.filter (fun e => e.1 / 32768 != b) } })

/-- GIRDER_LOST (R416): a control domain or the bond fails. -/
def execGirderLost (s : State) : Result := .next (if s.eng.phase = 0 then s else startStopOpen s 1)

/-- The slot index of a context's ring that an absolute page belongs to. -/
def ringSlotOf (s : State) (l c : Nat) (north : Bool) (page : Nat) : Option Nat :=
  let x := getStr s c
  if x.st = .unarmed ∨ ¬ stIsRing x ∨ stRing x = 0 ∨ (stKind x = 1) ≠ north then none
  else (List.range (stRing x)).find? (fun n => match ringPage s l c n with
    | some p => decide (p ≤ page ∧ page < p + max 1 (stPages x))
    | none => false)

/-- Lost slots of a context's ring: its transfers under way in them are fetched again, and those it has signalled and the
consumer has not taken count as unsignalled until they have been fetched again. -/
def refetchSlots (s : State) (c : Nat) (lost : List Nat) : State :=
  let x := getStr s c
  let cc := (getCnt s (stData x)).c.toNat
  let hit := fun (n : Nat) => lost.contains (n % max 1 (stRing x))
  let done := freshNext x
  let lo := max (firstHeld x) (max cc (done - stRing x))
  let back := ((List.range (done - lo)).map (fun k => lo + k)).filter (fun n => hit n && !x.xfers.any (fun t => t.n == n))
  let fresh := fun (n : Nat) =>
    let e := extentOf x n
    ({ n := n, tile := n - e.base, bursts := burstsOf x n, gen := e.gen, again := true, vr := (validOf x n).1
       vc := (validOf x n).2 } : Xfer)
  let again := back.map fresh
  let kept := x.xfers.map (fun t => if hit t.n then refetch t else t)
  let olds := sortL (·.n) (again ++ kept.filter (·.again))
  let xs := olds ++ kept.filter (fun t => !t.again)
  let st := if xs = [] then x.st else if x.st = .drained then .running else if x.st = .quiesced then .quiescing else x.st
  setStr s c { x with xfers := xs, st := st, next := ((xs.head?).map (·.n)).getD x.next }

/-- Suspend a lease because of a fault, where a SUSPEND would be accepted. -/
def faultSuspend (s : State) (l : Nat) : State :=
  if (lstate s l = .resident ∨ lstate s l = .parked) ∧ ¬ (getCtl s l).busy then doSuspend s l else s

/-- A page of a store lost: its ring slot is fetched again, or the lease that owns the region is suspended and told. -/
def losePage (north : Bool) (s : State) (page : Nat) : State :=
  let mine := fun (l : Nat) => (windowsOf s l).any (fun w => w.1 == north && decide (w.2.1 ≤ page ∧ page < w.2.1 + w.2.2))
  match (List.range 16).find? (fun l => lstate s l ≠ .empty && mine l) with
  | none => s
  | some l =>
    let rings := (List.range 32).filterMap (fun c =>
      if (ctxMask s l).getLsbD c then (ringSlotOf s l c north page).map (fun n => (c, n)) else none)
    if rings ≠ [] then rings.foldl (fun s r => refetchSlots s r.1 [r.2]) s
    else if (getTag s north page).valid then
      faultSuspend (leaseReport s l 0x62 none false false 0 0 (BitVec.ofNat 64 page) (if north then 1 else 0)) l
    else s

/-- Lose pages of a store: a running pass takes a fault stop, then each page's holder is served. -/
def losePages (s : State) (north : Bool) (pages : List Nat) : State := streamPoll (pages.foldl (losePage north) (faultStop s))

/-- The bytes of lost pages that lay in the failed bank are zero on the spare; which ones they are the spec leaves to the
skew (R174). -/
def zeroSome (s : State) (north : Bool) (pages : List Nat) : State :=
  let keep := fun (e : Nat × Byte) => !pages.contains (e.1 / 4096) || Config.freeBit ((2 ^ 65 + s.free) * 2 ^ 64 + e.1)
  let q := s.store
  { s with free := s.free + 1
           store := if north then { q with north := q.north.filter keep } else { q with west := q.west.filter keep } }

/-- Banks of a store (R174). -/
def storeBanks (north : Bool) : Nat := if north then 64 else 256

/-- A store's bank fails: a spare takes its place, and the pages with an element in it are lost. With no spare left the engine set stops
with SPARES_LOST. -/
def storeBankFail (s : State) (north : Bool) (b : Nat) (pages : List Nat) : State :=
  let k := if north then 4 else 2
  if ¬ inService s ∨ storeBanks north ≤ b then s
  else match takeSpare s k b with
    | none => startStop s 8 (BitVec.ofNat 64 b)
    | some s =>
      let s := engineReport s 0x64 (BitVec.ofNat 64 b) (BitVec.ofNat 64 ((if north then 256 else 0) + sparesLeft s k))
      let s := zeroSome s north pages
      let q := s.store
      losePages { s with store :=
        if north then { q with badNorth := q.badNorth ++ [b] } else { q with badWest := q.badWest ++ [b] } } north pages

/-- STORE_BANK_FAIL. -/
def execStoreBankFail (north : Bool) (b : Nat) (pages : List Nat) (s : State) : Result := .next (storeBankFail s north b pages)

/-- STORE_SPARE_READY: the spare of the bank that failed first is zero-filled; once none is awaited the store is read again (R406). -/
def execStoreSpareReady (north : Bool) (s : State) : Result :=
  let q := s.store
  .next (streamPoll { s with store :=
    if north then { q with badNorth := q.badNorth.drop 1 } else { q with badWest := q.badWest.drop 1 } })

/-- The bank of an uncorrectable store word, and the pages with an element in it should the bank fail: the skew of R174 is the hardware's
own, so both are left open (log entry 86). -/
def skewBank (s : State) (north : Bool) : Nat := Config.freeNat (s.free + 1) % storeBanks north
def skewPages (s : State) (north : Bool) : List Nat :=
  (List.range (storePages north)).filter (fun p => Config.freeBit ((2 ^ 66 + s.free) * 2 ^ 64 + p))

/-- A store's bank gives one more uncorrectable word: the fourth within 2^20 cycles is a failure of the bank (R408). -/
def storeWorn (s : State) (north : Bool) (b : Nat) : State :=
  let recent := s.store.ueWords.filter (fun e => decide (s.now < e.2.2 + 2 ^ 20)) ++ [(north, b, s.now)]
  let mine := fun (e : Bool × Nat × Nat) => e.1 == north && e.2.1 == b
  if (recent.filter mine).length < 4 then { s with store := { s.store with ueWords := recent } }
  else storeBankFail { s with store := { s.store with ueWords := recent.filter (fun e => !mine e) } } north b (skewPages s north)

/-- STORE_WORD_UE: one word of a page is lost; what it then holds is left open. The engine set is told (R407). -/
def execStoreWordUe (north : Bool) (page : Nat) (s : State) : Result :=
  .next (if ¬ inService s ∨ storePages north ≤ page then s
    else
      let a := 4096 * page + 8 * (Config.freeNat s.free % 512)
      let s1 := storeWrite { s with free := s.free + 2 } north (addrBytes a (leBytes 8 (Config.freeWord s.free).toNat))
      storeWorn (losePages (faultNotice s1) north [page]) north (skewBank s north))

/-! ## Upsets (R182, R407, R412, R414, R105) -/

/-- A copy of a counter that was found bad has been rewritten from the other (R412). -/
def mendCounters (s : State) : State :=
  (s.cnt.filter (fun e => e.2.copyBad != 0)).foldl (fun s e => setCnt s e.1 { e.2 with copyBad := 0 }) s

/-- An entry of a core's cache, TLB or predictor is invalidated where one is there, and the engine set is told (R407). -/
def strikeCore (s : State) (c : Nat) (f : Core → Core) : State :=
  let x := getCore s (c % 4)
  if f x = x then s else faultNotice (setCore s (c % 4) (f x))

/-- An entry of a list is invalidated where one is there, and the engine set is told (R407); `t` is the state without it. -/
def strikeEntry (s t : State) (n k : Nat) : State := if k < n then faultNotice t else s

/-- What an upset does (log entry 66): a register's correctable error is corrected and counted, an uncorrectable one waits for its reader;
one copy of a counter is bad for a cycle; a Girder entry's check bits show it; a cache's, TLB's, predictor's, descriptor's or table
copy's entry is invalid; the Pier's own storage follows R414. What is detected at once is told to the engine set (R407). -/
def strike (s : State) (u : Config.Upset) : State :=
  match u with
  | .reg k r ue =>
    let t := thrOf (k % 64)
    let x := getThr s t
    if x.st = .free ∨ r % 32 = 0 then s
    else if ue then setThr s t { x with ue := x.ue ||| ((1 : Half) <<< (r % 32)) }
    else event s 0x033 1 (srcThread x t ((cachedWord (getCore s t.core.val) x.lease x.pc).getD 0))
  | .counter n second => faultNotice (setCnt s (n % 192) { getCnt s (n % 192) with copyBad := if second then 2 else 1 })
  | .entry r w ue => setEnt s (r % 256) (w % 32768) { getEnt s (r % 256) (w % 32768) with chk := if ue then 2 else 1 }
  | .icache c k => strikeCore s c (fun x => { x with icache := x.icache.eraseIdx k })
  | .itlb c k => strikeCore s c (fun x => { x with itlb := x.itlb.eraseIdx k })
  | .dtlb c k => strikeCore s c (fun x => { x with dtlb := x.dtlb.eraseIdx k })
  | .pred c k => strikeCore s c (fun x => { x with pred := Tab.drop x.pred k })
  | .xlate k => strikeEntry s { s with xlate := s.xlate.eraseIdx k } s.xlate.length k
  | .desc k => strikeEntry s { s with dcache := s.dcache.eraseIdx k } s.dcache.length k
  | .func k => strikeEntry s { s with ftab := s.ftab.eraseIdx k } s.ftab.length k
  | .line k => lineUe s k
  | .tile k => tileUe s k
  | .group g => groupUe s g

end Sys2Proof.Machine
end

