-- ==== Sys2Proof/Machine/Beat.lean ====
section
/-! DEFINITION. The beat (R378 to R383, R427, R428, R459), the counters' wraps and dumps (R387, R395), the monitors and the
throttle controller (R396 to R399), and what a clock tick does. Where the opcode table gives a beat-scheduled action a row of
its own, the beat marks it due and that row's command performs it (log entry 7). -/

namespace Sys2Proof.Machine

/-! ## Throttle (R397) -/

/-- Note a change of THROTTLE_LEVEL from its former value. -/
def relevel (s : State) (old : Nat) : State :=
  let new := throttleLevel s
  if new = old then s
  else
    let s := event s 0x301 1 srcNone
    { s with perf := { s.perf with levelMax := BitVec.ofNat 4 (max s.perf.levelMax.toNat new) } }

/-- The valid temperature readings: sensor and code. -/
def validTemps (s : State) : List (Nat × Nat) :=
  (List.range 32).filterMap (fun k => let x := Tab.get {} s.mon.temp k; if x.valid then some (k, x.code.toNat) else none)

/-- The lowest-numbered sensor with the highest valid code, and that code. -/
def hottest (s : State) : Option (Nat × Nat) :=
  (validTemps s).foldl (fun (m : Option (Nat × Nat)) x => match m with
    | some y => if y.2 < x.2 then some x else some y
    | none => some x) none

/-- The highest valid code, 0 where no sensor is valid. -/
def tmax (s : State) : Nat := ((hottest s).map (·.2)).getD 0

/-- The thermal term at a beat (R397): up, down or kept. With no valid sensor the level falls (log entry 34). -/
def thermalBeat (s : State) : State :=
  let hot := s.mon.tempHot.toNat
  let old := s.mon.thermal
  match hottest s with
  | some (k, t) =>
    if hot ≤ t then
      if old = 15 then s
      else
        let s := { s with mon := { s.mon with thermal := old + 1 } }
        if old = 0 then engineReport s 0x51 (BitVec.ofNat 64 k) 0 else s
    else if t + s.mon.hyst.toNat < hot ∧ old ≠ 0 then { s with mon := { s.mon with thermal := old - 1 } }
    else s
  | none => if old ≠ 0 then { s with mon := { s.mon with thermal := old - 1 } } else s

/-- The droop hold at a beat: once its beats are over, a fall is due at each further beat. A fall still due takes place. -/
def droopBeat (s : State) : State :=
  let m := s.mon
  if m.droopLvl = 0 then { s with mon := { m with droopDue := false } }
  else if 0 < m.holdBeats then { s with mon := { m with holdBeats := m.holdBeats - 1 } }
  else { s with mon := { m with droopDue := true, droopLvl := if m.droopDue then m.droopLvl - 1 else m.droopLvl } }

/-! ## Dumps (R395) -/

/-- The 256 bytes of a dump record. -/
def dumpBytes (s : State) (gen : Bool) : List Byte :=
  let p := s.perf
  let ctl := fun n => Tab.get 0 p.ctl n
  let ovf := sumL ((List.range 16).map (fun n => if (ctl n).getLsbD 26 then 2 ^ n else 0))
  let evs := sumL ((List.range 16).map (fun n => bits (ctl n) 11 0 * 2 ^ (12 * n)))
  let temps := tmax s * 2 ^ 54 + p.tmaxPeriod.toNat * 2 ^ 44 + p.droopTrips.toNat * 2 ^ 36 + throttleLevel s * 2 ^ 32 +
    p.levelMax.toNat * 2 ^ 28
  leBytes 8 s.beat.count.toNat ++ leBytes 8 (p.dumpSeq.toNat * 2 ^ 32 + ovf * 2 ^ 16 + (if gen then 1 else 0)) ++
    wordBytes ((List.range 16).map (fun n => Tab.get 0 p.val n)) ++ leBytes 24 evs ++ leBytes 8 temps ++
    leBytes 8 p.throttled.toNat ++ List.replicate 72 0

/-- Ring base and length of PERF_DUMP_CFG. -/
def dumpBase (s : State) : Nat := bits s.perf.dumpCfg 63 16 * 65536
def dumpRing (s : State) : Nat := bits s.perf.dumpCfg 15 8

/-- Form a dump record: it waits among at most 4, or is dropped and counted in DUMP_LOST; its SEQ is consumed. The values
since the previous record start anew. -/
def perfDump (s : State) (gen : Bool) : State :=
  if dumpRing s = 0 then s
  else
    let p := s.perf
    let r : MemRec := ⟨dumpBase s + 256 * (p.dumpSeq.toNat % dumpRing s), dumpBytes s gen, 16⟩
    let lost := bits p.dumpCfg 7 0
    let cfg : Word := if lost < 255 then p.dumpCfg + 1 else p.dumpCfg
    let full := decide (4 ≤ p.dumpQ.length)
    { s with perf := { p with dumpSeq := p.dumpSeq + 1
                              dumpQ := if full then p.dumpQ else p.dumpQ ++ [r]
                              dumpCfg := if full then cfg else p.dumpCfg
                              tmaxPeriod := BitVec.ofNat 10 (tmax s), droopTrips := 0
                              levelMax := BitVec.ofNat 4 (throttleLevel s), throttled := 0 } }

/-! ## Every beat -/

/-- End the BEAT waits that the count has reached (R184, R195). -/
def beatWaits (s : State) : State :=
  allThreads.foldl (fun s t =>
    let x := getThr s t
    if x.st = .waiting ∧ x.reason = .beat ∧ x.arg.toNat ≤ s.beat.count.toNat then retire s t (ready x) (x.pc + 4) else s) s

/-- What a beat does to a lease that is not EMPTY: its meters (R382), its parked beats (R383), and the holdings it must give
back while it runs no pass (R369). -/
def leaseBeat (gen : Bool) (s : State) (l : Nat) : State :=
  if lstate s l = .empty then s
  else
    let rt := getRt s l
    let parked := decide (lstate s l = .parked)
    let s := setRt s l { rt with
      acc := { rt.acc with segs := rt.acc.segs + BitVec.ofNat 64 (segsHeld s l) }
      parkedBeats := if parked ∧ rt.parkedBeats ≠ 0xFFFF then rt.parkedBeats + 1 else rt.parkedBeats
      parked := rt.parked || parked
      beatFree := rt.beatFree || gen }
    let s := foldMeters s l
    if s.arr.run.any (fun r => r.lease == l) then s else reclaim s l

/-- Sample the meters of every lease that is not EMPTY (R383). -/
def meterAll (s : State) : State :=
  (List.range 16).foldl (fun s l => if lstate s l = .empty then s else meterRecord s l false) s

/-- The ring oscillators' counts of the past beat, which the spec leaves to the silicon (R396). -/
def roBeat (s : State) : State :=
  { s with free := s.free + 8
           mon := { s.mon with ro := (List.range 8).foldl (fun t k =>
             Tab.set 0 t k (BitVec.ofNat 20 (Config.freeNat (s.free + k)))) s.mon.ro } }

/-- The span's beat messages to its Pier and its Abutment (R428): each goes by the lowest-numbered UP module of its link, so that a link
without one carries none. -/
def sendBeat (s : State) : State :=
  let carries := fun (k : Nat) => (getPort s k).mods.any (fun m => (getMod s .span m).up)
  let one := fun (k : Nat) (part : Part) => if carries k then [(part, s.beat.count)] else []
  { s with beat := { s.beat with sent := s.beat.sent ++ one 17 .pier ++ one 16 .abut } }

/-- Everything that a beat drives at the span, once BEAT_COUNT holds its new value (R380). -/
def onBeat (s : State) (gen : Bool) : State :=
  let s := sendBeat (event s 0x002 1 srcNone)
  let old := throttleLevel s
  let s := relevel (droopBeat (thermalBeat { s with mon := { s.mon with tripLocked := true } })) old
  let s := roBeat s
  let s := { s with lease := { s.lease with gen := commitDue s.lease.gen s.now }, map := { s.map with gen := commitDue s.map.gen s.now } }
  let s := chainBeat s
  let s := { s with arr := { s.arr with run := s.arr.run.map (fun r =>
      if r.starved = 0 then r else { r with starved := r.starved + 1 }) } }
  let s := (List.range 16).foldl (leaseBeat gen) s
  let s := if s.beat.count.toNat % max 1 s.beat.meterPeriod.toNat = 0 then meterAll s else s
  let s := if s.beat.count.toNat % max 1 s.perf.dumpPeriod.toNat = 0 then perfDump s gen else s
  beatWaits s

/-! ## BEAT_EDGE, BEAT_LOST, BEAT_GENERATED (R378, R379, R427) -/

/-- Whether an edge comes too soon after the last accepted one (R378). -/
def glitch (s : State) : Bool := match s.beat.lastEdge with
  | some t => decide (s.now < t + 262)
  | none => false

/-- Whether an accepted edge is taken as the generated beat just before it (R379). -/
def absorbed (s : State) : Bool := s.beat.freeRun && (match s.beat.lastGen with
  | some g => decide (2 * (s.now - g) ≤ s.beat.nominal.toNat)
  | none => false)

/-- Whether an edge takes BEAT_LOAD: one that was written in an earlier cycle (R459). -/
def loadDue (s : State) : Bool := s.beat.loadPending && decide (s.beat.loadAt < s.now)

/-- An accepted edge: BEAT_COUNT advances or takes BEAT_LOAD, free running ends, and the beat's actions run. -/
def acceptEdge (s : State) : State :=
  let taken := absorbed s
  let free := s.beat.freeRun
  let n := s.beat.generated
  let count := if loadDue s then s.beat.load else if taken then s.beat.count else s.beat.count + 1
  let s := { s with beat := { s.beat with count := count, loadPending := s.beat.loadPending && !loadDue s, freeRun := false, generated := 0
                                          lastEdge := some s.now, lastBeat := s.now, lastGen := none } }
  let s := if free then engineReport s 0x42 count (BitVec.ofNat 64 n) else s
  if taken then s else onBeat s false

/-- BEAT_EDGE: no edge is accepted before phase FUSE has ended. -/
def execBeatEdge (s : State) : Result :=
  .next (if ¬ s.eng.fuseDone then s else if glitch s then event s 0x300 1 srcNone else acceptEdge s)

/-- BEAT_LOST: no edge for 4 × BEAT_NOMINAL cycles. -/
def execBeatLost (s : State) : Result :=
  .next (if s.eng.fuseDone ∧ ¬ s.beat.freeRun ∧ s.beat.lastBeat + 4 * s.beat.nominal.toNat ≤ s.now then
      engineReport { s with beat := { s.beat with freeRun := true, generated := 0, lastGen := none } } 0x41 s.beat.count 0
    else s)

/-- Whether a beat falls to be generated: on the grid of BEAT_NOMINAL cycles from the last accepted edge. -/
def genDue (s : State) : Bool :=
  let p := max 1 s.beat.nominal.toNat
  let k := (s.now - s.beat.lastBeat) / p
  s.beat.freeRun && decide (0 < k) && (match s.beat.lastGen with
    | some g => decide ((g - s.beat.lastBeat) / p < k)
    | none => true)

/-- BEAT_GENERATED: a generated beat drives every action that a real one drives. -/
def execBeatGenerated (s : State) : Result :=
  .next (if genDue s then
      onBeat { s with beat := { s.beat with count := s.beat.count + 1, generated := s.beat.generated + 1
                                            lastGen := some s.now } } true
    else s)

/-! ## BEAT_SIDEBAND (R428) -/

/-- The oldest beat message on its way to a part, if it carries the given low bits. -/
def beatMessage (s : State) (part : Part) (low : BitVec 16) : Option (Part × Word) :=
  (s.beat.sent.find? (fun m => m.1 == part)).filter (fun m => m.2.setWidth 16 == low)

/-- BEAT_SIDEBAND: a beat message of the span arrives at the Pier, or at the Abutment with the actions that follow its copy (R332, R339,
R349). The copy is full (log entry 87); a part in reset takes nothing (R425). -/
def execBeatSideband (part : Part) (low : BitVec 16) (s : State) : Result :=
  .next (match beatMessage s part low with
    | none => s
    | some m =>
      let s := { s with beat := { s.beat with sent := s.beat.sent.erase m } }
      if ¬ partRuns s part then s
      else match part with
        | .span => s
        | .pier => { s with pier := { s.pier with beatCount := m.2 } }
        | .abut =>
          let q := s.abut
          mcBeat (cxlBeat { s with abut := { q with beatCount := m.2, gen := commitDue q.gen s.now } }))

/-! ## The beat's registers (R459, R395) -/

def beatLoadWrite (s : State) (v : Word) : State := { s with beat := { s.beat with load := v, loadPending := true, loadAt := s.now } }
def nominalWrite (s : State) (v : Word) : State :=
  { s with beat := { s.beat with nominal := BitVec.ofNat 13 (max 262 (min 4200 (bits v 12 0))) } }
def meterPeriodWrite (s : State) (v : Word) : State :=
  { s with beat := { s.beat with meterPeriod := BitVec.ofNat 16 (max 1 (bits v 15 0)), meterLost := 0 } }
/-- PERF_DUMP_PERIOD: DUMP_LOST is cleared; a 0, outside the field's range, takes 1 (log entry 34). -/
def dumpPeriodWrite (s : State) (v : Word) : State :=
  { s with perf := { s.perf with dumpPeriod := BitVec.ofNat 16 (max 1 (bits v 15 0)), dumpCfg := s.perf.dumpCfg &&& ~~~0xFF } }

def execBeatLoad (v : BitVec 64) (s : State) : Result := .next (if s.eng.scrubDone then beatLoadWrite s v else s)
def execBeatNominal (v : BitVec 64) (s : State) : Result := .next (if s.eng.scrubDone then nominalWrite s v else s)
def execMeterPeriod (v : BitVec 64) (s : State) : Result := .next (if s.eng.scrubDone then meterPeriodWrite s v else s)
def execPerfDumpPeriod (v : BitVec 64) (s : State) : Result := .next (if s.eng.scrubDone then dumpPeriodWrite s v else s)

/-! ## PERF_WRAP (R387, R392) -/

/-- PERF_WRAP: occurrences that arrive at a counter that selects them and take it past 2^64 − 1. -/
def execPerfWrap (n : Fin 16) (inc : Nat) (src : SampleSrc) (s : State) : Result :=
  let ctl := Tab.get 0 s.perf.ctl n.val
  .next (if perfMatches ctl (bits ctl 11 0) src ∧ inc ≤ 2 ^ 25 ∧ 2 ^ 64 ≤ (Tab.get 0 s.perf.val n.val).toNat + inc then
      perfAdd s n.val inc src
    else s)

/-! ## Monitors (R396, R398, R399) -/

/-- A sensor's reading that follows one at or above TEMP_TRIP (R398). -/
def secondReading (s : State) (k : Nat) (valid : Bool) (code : BitVec 10) : State :=
  let s := { s with mon := { s.mon with tripPend := s.mon.tripPend &&& ~~~((1 : Half) <<< k) } }
  if ¬ valid then s
  else if s.mon.tempTrip.toNat ≤ code.toNat then
    let s := engineReport s 0x52 (BitVec.ofNat 64 k) (code.setWidth 64)
    startStop { s with pins := { s.pins with thermtripN := false } } 6 (BitVec.ofNat 64 k)
  else engineReport s 0x51 (BitVec.ofNat 64 (((hottest s).map (·.1)).getD k)) 1

/-- Whether a reading is valid (R396). -/
def tempValid (code : BitVec 10) (ok : Bool) : Bool := ok && code != 0 && code != 1023

/-- One sensor takes its new reading. -/
def tempStore (s : State) (k : Nat) (code : BitVec 10) (ok : Bool) : State :=
  if 32 ≤ k then s
  else
    let x := Tab.get {} s.mon.temp k
    let valid := tempValid code ok
    let hot := valid && decide (s.mon.tempHot.toNat ≤ code.toNat)
    let s := { s with mon := { s.mon with temp := Tab.set {} s.mon.temp k ⟨valid, x.hotSeen || hot, code⟩ } }
    let s := if hot then hwSet s .span (0x32000 + 8 * k) (2 ^ 30) else s
    let s := if valid = x.valid then s else engineReport s 0x53 (BitVec.ofNat 64 k) (if valid then 1 else 0)
    if valid then
      { s with perf := { s.perf with tmaxPeriod := BitVec.ofNat 10 (max s.perf.tmaxPeriod.toNat code.toNat) } } else s

/-- What a sensor's new reading means against TEMP_TRIP (R398), once every sensor holds its own. -/
def tempTrip (s : State) (k : Nat) (code : BitVec 10) (ok : Bool) : State :=
  if 32 ≤ k then s
  else
    let valid := tempValid code ok
    if s.mon.tripPend.getLsbD k then secondReading s k valid code
    else if valid ∧ s.mon.tempTrip.toNat ≤ code.toNat then
      { s with mon := { s.mon with tripPend := s.mon.tripPend ||| ((1 : Half) <<< k) } }
    else s

/-- TEMP_READING: the sensors update, each with its code and whether its self-check is good. -/
def execTempReading (codes : List (Nat × BitVec 10 × Bool)) (s : State) : Result :=
  .next (if s.eng.fuseDone then
      codes.foldl (fun s c => tempTrip s c.1 c.2.1 c.2.2) (codes.foldl (fun s c => tempStore s c.1 c.2.1 c.2.2) s)
    else s)

/-- DROOP_TRIP (R397). -/
def execDroopTrip (m : Fin 16) (s : State) : Result :=
  .next (if ¬ s.eng.fuseDone then s
    else
      let old := throttleLevel s
      let d := Tab.get {} s.mon.droop m.val
      let d := { d with trips := if d.trips = 0xFFFF then d.trips else d.trips + 1 }
      let lvl := if s.mon.droopLvl.toNat < s.mon.droopStep.toNat then s.mon.droopStep else s.mon.droopLvl
      let s := hwAdd s .span (0x32100 + 8 * m.val) 1
      let s := { s with mon := { s.mon with droop := Tab.set {} s.mon.droop m.val d, droopLvl := lvl
                                            holdBeats := max 1 s.mon.droopHold.toNat, droopDue := false }
                        perf := { s.perf with droopTrips := if s.perf.droopTrips = 0xFF then 0xFF else s.perf.droopTrips + 1 } }
      relevel (event s 0x302 1 srcNone) old)

/-- DROOP_HOLD_EXPIRE (R397): at a beat after the hold, DROOP_LEVEL falls by 1. -/
def execDroopHoldExpire (s : State) : Result :=
  .next (if s.mon.droopDue ∧ s.mon.droopLvl ≠ 0 then
      relevel { s with mon := { s.mon with droopLvl := s.mon.droopLvl - 1, droopDue := false } } (throttleLevel s)
    else s)

/-! ## The clock tick -/

/-- Write one waiting record of a queue. -/
def writeRecord (s : State) (r : MemRec) : State := if inMap s r.pa r.bytes.length then spanWrite s (accOf s r.lease) r.pa r.bytes else s

/-- One record of each queue leaves. -/
def drainRecords (s : State) : State :=
  let s := match s.lease.meterQ with
    | r :: t => writeRecord { s with lease := { s.lease with meterQ := t } } r
    | [] => s
  match s.perf.dumpQ with
  | r :: t => writeRecord { s with perf := { s.perf with dumpQ := t } } r
  | [] => s

/-- THREAD_CYCLES and QUEUE_WAIT of one thread that is not FREE. -/
def threadCycle (s : State) (t : ThreadId) : State :=
  let x := getThr s t
  if x.st = .free then s
  else
    let rt := getRt s x.lease
    let s := setRt s x.lease { rt with acc := { rt.acc with threads := rt.acc.threads + 1 } }
    let w := (cachedWord (getCore s t.core.val) x.lease x.pc).getD 0
    if x.st = .waiting ∧ x.reason = .queue then event s 0x064 2 (srcThread x t w) else s

/-- CREDIT_WAIT of one context: a ready burst, and no credit of its lease's share. -/
def creditCycle (s : State) (c : Nat) : State :=
  match ctxOwner s c with
  | some l => if burstReady s l (getStr s c) ∧ creditShare s l ≤ creditsHeld s l then event s 0x053 1 (srcStream s l (getStr s c) 0) else s
  | none => s

/-- Cycles that the throttle counts. -/
def throttleCycle (s : State) : State :=
  if throttleLevel s = 0 then s
  else event { s with perf := { s.perf with throttled := s.perf.throttled + 1 } } 0x303 1 srcNone

/-- The PRBS-31 generator (ITU-T O.150, x^31 + x^28 + 1) one bit on. -/
def prbsNext (x : BitVec 31) : BitVec 31 := (x <<< 1) ||| (if x.getLsbD 30 != x.getLsbD 27 then 1 else 0)

/-- The next 512 bits of the pattern, the first at bit 0, and the generator after them. -/
def prbsUnit (x : BitVec 31) : BitVec 512 × BitVec 31 :=
  (List.range 512).foldl (fun (q : BitVec 512 × BitVec 31) k =>
    ((if q.2.getLsbD 30 then q.1 ||| ((1 : BitVec 512) <<< k) else q.1), prbsNext q.2)) (0, x)

/-- What of a unit sent returns: by PIER_PORT from the loop buffer, in whose next place it has been written, else from where the path turns
it, a router port exchanging SRC and DEST of the packet that carries it. `noise` is what the path under test changes, which is left open
(R419; log entry 65). -/
def loopReturn (x : Loopback) (noise : BitVec 512) : BitVec 512 :=
  (if x.path = 6 then Tab.get 0 x.buf x.pos.toNat else (prbsUnit x.prbs).1) ^^^ noise

/-- One unit of a loop-back: sent, returned, compared and counted. ERRORS counts the units that differ (log entry 65). -/
def loopUnit (x : Loopback) (noise : BitVec 512) : Loopback :=
  let u := prbsUnit x.prbs
  let x := if x.path = 6 then { x with buf := Tab.set 0 x.buf x.pos.toNat u.1 } else x
  { x with units := satAdd32 x.units 1, errors := if loopReturn x noise = u.1 then x.errors else satAdd32 x.errors 1
           prbs := u.2, pos := if x.path = 6 then x.pos + 1 else x.pos }

/-- n units of a loop-back. -/
def loopUnits (seed : Nat) : Nat → Loopback → Loopback
  | 0, x => x
  | n + 1, x => loopUnits seed n (loopUnit x (BitVec.ofNat 512 (Config.freeNat ((2 ^ 67 + seed) * 2 ^ 64 + n))))

/-- A running loop-back sends on its pattern and compares what returns (R419, R468); how many units a cycle takes is left open (log entry
65). -/
def loopCycle (s : State) : State :=
  { s with loop := s.loop.map (fun e =>
             (e.1, if e.2.run then loopUnits (s.free + 2 * e.1) (Config.freeNat (s.free + 2 * e.1 + 1)) e.2 else e.2))
           free := if s.loop = [] then s.free else s.free + 512 }

/-- ALERT_N (R438): low while THROTTLE_LEVEL is above 0. -/
def alertN (s : State) : Bool := decide (throttleLevel s = 0)

/-- DRAIN_STALL (R125): a cycle in which a destination holds the drain path's work back. -/
def drainCycle (s : State) : State :=
  match drainStalled s with
  | some i => event s 0x042 1 (srcOf i)
  | none => s

/-- A cycle of ACLK: what happens whatever is commanded (log entry 2). -/
def cycle (s : State) : State :=
  let s := linksPhase (stackLevels { s with now := s.now + 1 })
  if ¬ s.eng.fuseDone then s
  else
    let s := wornBank (mendCounters (event s 0x001 1 srcNone))
    let s := allThreads.foldl threadCycle s
    let s := (List.range 32).foldl creditCycle s
    loopCycle (beatWaits (drainRecords (sendFlits (throttleCycle (linkPoll (chainCycle (moverCycle (drainCycle (arrayCycle s)))))))))

/-- A cycle, and what an upset strikes in it, if anything does (log entries 2, 66). -/
def struckCycle (s : State) : State :=
  match Config.upset s.now with
  | some u => if s.eng.scrubDone then strike (cycle s) u else cycle s
  | none => cycle s

end Sys2Proof.Machine
end

