-- ==== Sys2Proof/Machine/Startup.lean ====
section
/-! DEFINITION. Reset and start-up (R400 to R404, R424 to R427, R430, R436, R442), faults of storage and cores (R408 to R413),
the end of an orderly stop (R416, R417), and test access (R420, R421, R437). -/

namespace Sys2Proof.Machine

/-! ## Writes that a reset or the end of a stop cuts off (R401, R417) -/

/-- Whether the 64-byte unit of an address is to hold its new value: left open for each unit. -/
def unitNew (s : State) (a : Nat) : Bool := Config.freeBit ((2 ^ 64 + s.free) * 2 ^ 64 + a / 64)

/-- The bytes that scalar stores of a thread replaced, newest first. -/
def storesOld (x : Thread) : List (Nat × Byte) := ((x.stores.reverse).map (fun q => addrBytes q.pa q.old)).flatten

/-- The bytes of Pier writes whose units have not been acknowledged. -/
def pierOld (s : State) (who : PortWho) (todo : List Nat) (old : List (Nat × Byte)) : List (Nat × Byte) :=
  old.filter (fun b => todo.any (fun u => decide (u / 64 = b.1 / 64)) ||
    s.pier.port.any (fun r => r.write && r.who == who && decide (r.addr / 64 = b.1 / 64)))

/-- The bytes of a write over CXL whose units have not completed. -/
def cxlOld (s : State) (j : CxlJob) : List (Nat × Byte) :=
  j.old.filter (fun b => j.todo.any (fun u => decide (u / 64 = b.1 / 64)) ||
    s.abut.cxl.any (fun r => r.write && r.job == j.k && decide (r.unit / 64 = b.1 / 64)))

/-- Every byte replaced by a write that has not been acknowledged: at the Pier, over CXL, of multicast data, and of threads, in the array or
saved. -/
def unackedOld (s : State) : List (Nat × Byte) :=
  (s.pier.jobs.map (fun j => pierOld s (.job j.k) j.todo j.old)).flatten ++
    (s.pier.cmds.map (fun c => pierOld s (.cmd c.k) c.writes c.old)).flatten ++
    (s.abut.cxlJobs.map (cxlOld s)).flatten ++
    (s.mc.recv.map (fun r => (r.old.map (·.2)).flatten)).flatten ++
    (allThreads.map (fun t => storesOld (getThr s t))).flatten ++
    ((List.range 16).map (fun l => ((getRt s l).frames.map (fun f => storesOld f.thr)).flatten)).flatten

/-- Every byte that a stream's write in flight carries. -/
def streamNew (s : State) : List (Nat × Byte) :=
  ((List.range 32).map (fun c => let x := getStr s c
    if stIsRing x then [] else ((x.xfers.map (fun t => (t.bursts.filter inFlight).map (fun b => addrBytes b.pa b.data))).flatten).flatten)).flatten

/-- Leave every unacknowledged write's units at their old or their new value, as `new` says of an address. -/
def settleWrites (s : State) (new : Nat → Bool) : State :=
  memWrite s ((unackedOld s).filter (fun b => !new b.1) ++ (streamNew s).filter (fun b => new b.1))

/-- Leave every unacknowledged write's units at their old or their new value, whichever the hardware's: each unit is left open. -/
def abandonWrites (s : State) : State := { settleWrites s (unitNew s) with free := s.free + 1 }

/-- Whether a fabric request of the span is a write whose acknowledgement no thread or stream waits for: a status word, result, record or
image at another endpoint. -/
def farWriteOut (e : Nat × ReqFor) : Bool :=
  match e.2 with
  | .result _ | .other => decide (e.1 / 65536 = 1)
  | _ => false

/-- The writes that have not been acknowledged (R417): of threads, streams and multicast data, of status words, results and records at other
endpoints, over CXL, those that the fabric brought to the Pier, and the units of update commands (log entry 28). -/
def unackedWrites (s : State) : Nat :=
  let frames := sumL ((List.range 16).map (fun l => sumL ((getRt s l).frames.map (fun f => f.thr.stores.length))))
  let bursts := sumL ((List.range 32).map (fun c => let x := getStr s c
    if stIsRing x then 0 else sumL (x.xfers.map (fun t => (t.bursts.filter inFlight).length))))
  sumL (allThreads.map (fun t => (getThr s t).stores.length)) + frames + bursts +
    sumL (s.mc.recv.map (fun r => r.arrived.length)) + (s.net.out.filter farWriteOut).length + (s.abut.cxlJobs.filter cxlWrites).length +
    (s.pier.jobs.filter (fun j => j.old != [] && j.req.isSome)).length +
    sumL (s.pier.cmds.map (fun c => c.writes.length + (s.pier.port.filter (fun r => r.write && r.who == .cmd c.k)).length))

/-! ## Resets (R401, R424, R425, R442) -/

/-- The reset of the span and the Girder die: nothing survives but the fuses, the straps and what lies outside the part. -/
def resetSpan (s : State) : State :=
  let s := abandonWrites s
  { State.reset with
    pending := s.pending, free := s.free, now := s.now, nextUid := s.nextUid, mem := s.mem, memBad := s.memBad, memGone := s.memGone
    pier := s.pier
    pins := s.pins
    hw := s.hw.filter (fun h => h.part != .span)
    tap := { s.tap with opened := false }
    fuse := { words := s.fuse.words, serialPier := s.fuse.serialPier, serialAbut := s.fuse.serialAbut, jepPier := s.fuse.jepPier
              jepAbut := s.fuse.jepAbut, lockPier := s.fuse.lockPier, lockAbut := s.fuse.lockAbut }
    eng := { straps := s.eng.straps, resetAt := s.now, held := s.eng.held.filter (fun h => h.1 != .span)
             mgmt := s.eng.mgmt.filter (fun j => j.part != .span) }
    mc := { pruned := s.mc.pruned, wait := s.mc.wait, told := s.mc.told }
    mods := s.mods.filter (fun e => decide (64 ≤ e.1))
    loop := s.loop.filter (fun e => decide (16 ≤ e.1))
    abut := { s.abut with port := s.abut.port.filter (fun e => decide (e.1 ≠ 16 ∧ e.1 ≠ 17)) }
    net := { tx := s.net.tx.filter (fun p => epOf p.src != 1), txPort := s.net.txPort, rx := s.net.rx
             out := s.net.out.filter (fun e => e.1 / 65536 != 1), tags := s.net.tags.filter (fun e => e.1 != 1) } }

/-- The reset of the Pier. -/
def resetPier (s : State) : State :=
  let s := abandonWrites s
  { s with pier := {}
           beat := { s.beat with sent := s.beat.sent.filter (fun m => m.1 != .pier) }
           eng := { s.eng with held := s.eng.held.filter (fun h => h.1 != .pier), mgmt := s.eng.mgmt.filter (fun j => j.part != .pier) }
           hw := s.hw.filter (fun h => h.part != .pier)
           mods := s.mods.filter (fun e => decide (e.1 < 64 ∨ 128 ≤ e.1))
           loop := s.loop.filter (fun e => decide (e.1 < 16 ∨ 32 ≤ e.1))
           abut := { s.abut with port := s.abut.port.filter (fun e => e.1 != 18) }
           net := { s.net with tx := s.net.tx.filter (fun p => epOf p.src != 2)
                               out := s.net.out.filter (fun e => e.1 / 65536 != 2)
                               tags := s.net.tags.filter (fun e => e.1 != 2) } }

/-- The reset of the Abutment: its router, its queues and its tables. -/
def resetAbut (s : State) : State :=
  let s := abandonWrites s
  { s with abut := { port := s.abut.port.filter (fun e => decide (16 ≤ e.1)) }
           beat := { s.beat with sent := s.beat.sent.filter (fun m => m.1 != .abut) }
           eng := { s.eng with held := s.eng.held.filter (fun h => h.1 != .abut), mgmt := s.eng.mgmt.filter (fun j => j.part != .abut) }
           hw := s.hw.filter (fun h => h.part != .abut)
           mods := s.mods.filter (fun e => decide (e.1 < 128))
           loop := s.loop.filter (fun e => decide (e.1 < 32))
           mc := { s.mc with wait := [], pruned := [], told := [] }
           net := { s.net with tx := s.net.tx.filter (fun p => epOf p.src != 0), txPort := [], rx := []
                               out := s.net.out.filter (fun e => e.1 / 65536 != 0)
                               tags := s.net.tags.filter (fun e => e.1 != 0) } }

/-- A part that loses its state while the span runs takes the span's link to it down, and the engine set stops in order with
PIER_LINK_LOST or ABUT_LINK_LOST (R425, R442). -/
def partLost (s : State) (k : Nat) (reason : Byte) : State :=
  if ¬ s.pins.rstSpan ∨ s.eng.phase = 0 then s
  else startStopOpen (setPState (setPort s k (downPort (getPort s k))) k .down) reason

/-- Reset a part: the other parts' links to it go down. -/
def resetPart (s : State) : Part → State
  | .span => portDown (portDown (resetSpan s) 0) 18
  | .pier => partLost (resetPier s) 17 3
  | .abut => partLost (resetAbut s) 16 4

/-- The engine-set reset of R401: all three parts, whose RST_N stays high. -/
def engineReset (s : State) : State := resetSpan (resetAbut (resetPier s))

def setRst (p : Pins) (level : Bool) : Part → Pins
  | .span => { p with rstSpan := level }
  | .pier => { p with rstPier := level }
  | .abut => { p with rstAbut := level }
def setRails (p : Pins) (ok : Bool) : Part → Pins
  | .span => { p with railsSpan := ok }
  | .pier => { p with railsPier := ok }
  | .abut => { p with railsAbut := ok }

/-- The pins as RST_N of a part falls: THERMTRIP_N is high again (R438), and the controller that is reset with the Pier drives STACK_FATAL low
(log entry 80). -/
def fallPins (p : Pins) (part : Part) : Pins :=
  let p := setRst p false part
  match part with
  | .span => { p with thermtripN := true }
  | .pier => { p with stackFatal := false }
  | .abut => p

/-- RST_N_FALL (R401, R425, R438). -/
def execRstNFall (part : Part) (s : State) : Result :=
  .next (if ¬ rstOf s.pins part then s
    else let s := resetPart s part; { s with pins := fallPins s.pins part })

/-- RST_N_RISE (R401, R402, R426): the straps are sampled with the span's, and phase CLOCK starts. The rails are then within
tolerance (R442). -/
def execRstNRise (part : Part) (straps : BitVec 10) (s : State) : Result :=
  .next (if rstOf s.pins part then s
    else
      let s := { s with pins := setRails (setRst s.pins true part) true part }
      match part with
      | .span => { s with eng := { s.eng with straps := straps, phase := 1 } }
      | _ => s)

/-- A write of ENGINE_RESET (R401, R457). -/
def engineResetWrite (s : State) (v : Word) : State := if bits v 15 0 = 0xF1A0 then engineReset s else s

/-- ENGINE_RESET. -/
def execEngineReset (v : BitVec 64) (s : State) : Result := .next (if s.eng.fuseDone then engineResetWrite s v else s)

/-- RESET_PHASE_END (R401): phase CLOCK follows a reset by ENGINE_RESET. -/
def execResetPhaseEnd (s : State) : Result :=
  .next (if s.eng.phase = 0 ∧ s.pins.rstSpan ∧ s.pins.railsSpan then { s with eng := { s.eng with phase := 1 } } else s)

/-- CLOCK_PHASE_END (R402); a failed start-up holds its phase (R403). -/
def execClockPhaseEnd (s : State) : Result :=
  .next (if s.eng.phase = 1 ∧ ¬ s.eng.startFail then { s with eng := { s.eng with phase := 2 } } else s)

/-- RAIL_OUT_OF_TOLERANCE (R442): with RST_N high the part loses its state; its partners see link loss. -/
def execRailOutOfTolerance (part : Part) (s : State) : Result :=
  let s1 := if rstOf s.pins part then resetPart s part else s
  .next { s1 with pins := setRails s1.pins false part }

/-! ## FUSE (R436, R99) -/

/-- A word of a part's fuse array. -/
def fuseWord (s : State) (part : Part) (w : Nat) : Half := Tab.get 0 s.fuse.words (2048 * partNo part + w)

/-- Whether a part's TEST_LOCK is blown (R421, R436). -/
def testLock (s : State) (part : Part) : Bool := (fuseWord s part 0x70).getLsbD 0 || (fuseWord s part 0x71).getLsbD 0

/-- A part's serial number. -/
def fuseSerial (s : State) (part : Part) : Word := fuseWord s part 2 ++ fuseWord s part 1

/-- A table of n fuse words from a word of the span's array, cut to the bits a register has. -/
def fuseTab (s : State) (w n : Nat) (mask : BitVec 16) : Tab (BitVec 16) :=
  (List.range n).foldl (fun t k => Tab.set 0 t k ((fuseWord s .span (w + k)).setWidth 16 &&& mask)) []

/-- The fuse load: the fuse shadow, and the thermal limits where they are blown. -/
def fuseLoad (s : State) : State :=
  let cols := fuseTab s 0x10 64 0xD03F
  let therm := fuseWord s .span 0x80
  { s with
    fuse := { s.fuse with
      serialSpan := fuseSerial s .span, serialPier := fuseSerial s .pier, serialAbut := fuseSerial s .abut
      jepSpan := (fuseWord s .span 0).setWidth 11, jepPier := (fuseWord s .pier 0).setWidth 11
      jepAbut := (fuseWord s .abut 0).setWidth 11
      lockSpan := testLock s .span, lockPier := testLock s .pier, lockAbut := testLock s .abut
      colRepair := cols, rowRepair := fuseTab s 0x50 8 0x81FF, spareBank := fuseTab s 0x60 6 0x80FF
      trim := (List.range 128).foldl (fun t k => Tab.set 0 t k (fuseWord s .span (0x100 + k))) []
      activeGroups := ((List.range 64).filter (fun g => !(Tab.get 0 cols g).getLsbD 15)).length }
    mon := if therm.getLsbD 31 then { s.mon with tempTrip := fld therm 10 10, tempHot := fld therm 0 10 } else s.mon
    eng := { s.eng with fuseDone := true, phase := 3 }
    beat := { s.beat with lastBeat := s.now } }

/-! ## BIST (R403) -/

/-- Count a repair beyond the fuses. -/
def newRepair (s : State) : State :=
  { s with eng := { s.eng with newRepairs := if s.eng.newRepairs = 0xFF then 0xFF else s.eng.newRepairs + 1 } }

/-- Put a group out of use. -/
def disableGroup (s : State) (g : Nat) : State :=
  let w := Tab.get 0 s.fuse.colRepair g
  if w.getLsbD 15 then s
  else { s with fuse := { s.fuse with colRepair := Tab.set 0 s.fuse.colRepair g (w ||| 0x8000)
                                      activeGroups := s.fuse.activeGroups - 1 } }

/-- Apply a self-test finding as a repair with RUNTIME = 0; what no repair is left for sets its START_STATUS bit. -/
def applyFinding (s : State) (f : Finding) : State :=
  let bank := fun (k b : Nat) (out : EngineUnit → EngineUnit) =>
    if spared s k b then s
    else match takeSpare s k b with
      | some s' => newRepair s'
      | none => { s with eng := out s.eng }
  match f with
  | .column g c =>
    let w := Tab.get 0 s.fuse.colRepair g.val
    if w.getLsbD 15 ∨ (w.getLsbD 12 ∧ fld w 0 6 = c) then s
    else if ¬ w.getLsbD 12 ∧ ¬ w.getLsbD 14 then
      newRepair { s with fuse := { s.fuse with
        colRepair := Tab.set 0 s.fuse.colRepair g.val ((w &&& 0xC000) ||| 0x1000 ||| c.setWidth 16) } }
    else newRepair (disableGroup s g.val)
  | .spareColumn g =>
    let w := Tab.get 0 s.fuse.colRepair g.val
    let s := { s with fuse := { s.fuse with colRepair := Tab.set 0 s.fuse.colRepair g.val (w ||| 0x4000) } }
    if w.getLsbD 12 ∧ ¬ w.getLsbD 15 then newRepair (disableGroup s g.val) else s
  | .row r =>
    let used := usedRows s
    if 263 < r.toNat ∨ used.any (fun w => bits w 8 0 == r.toNat) then s
    else if used.length < 8 then newRepair (putRows s (used ++ [0x8000 ||| r.setWidth 16]))
    else { s with eng := { s.eng with rowsExhausted := true } }
  | .girderBank b => bank 0 b.val (fun e => { e with girderSparesOut := true })
  | .westBank b => bank 2 b.val (fun e => { e with storeSparesOut := true })
  | .northBank b => bank 4 b.val (fun e => { e with storeSparesOut := true })
  | .core c => { s with eng := { s.eng with coresOk := s.eng.coresOk &&& ~~~((1 : BitVec 4) <<< c.val) } }
  | .pier => { s with eng := { s.eng with pierFail := true } }

/-- Whether start-up fails (R403). -/
def startupBad (s : State) : Bool :=
  let e := s.eng
  e.startFail || e.rowsExhausted || e.girderSparesOut || e.storeSparesOut || e.pierFail || e.coresOk == 0 ||
    decide (s.fuse.activeGroups = 0)

/-- BIST_DONE (R402, R403): the findings become repairs; start-up fails with the phase held, or SCRUB starts. -/
def execBistDone (fd : List Finding) (s : State) : Result :=
  .next (if s.eng.phase ≠ 3 then s
    else
      let s := fd.foldl applyFinding s
      if startupBad s then { s with eng := { s.eng with startFail := true } } else { s with eng := { s.eng with phase := 4 } })

/-! ## SCRUB (R402, R465) -/

/-- What the scrub leaves: the Girder store and both operand stores zero, every cache, TLB, predictor and descriptor entry
invalid, the counters 0 and the lease table at reset, every Girder segment free. -/
def scrubbed (s : State) : State :=
  { s with gir := { s.gir with ent := [], slots := [], segFree := 0xFFFFFFFFFFFFFFFF, scrubQ := [] }
           store := {}, core := [], xlate := [], dcache := [], ftab := [], cnt := [], lease := {} }

/-- SCRUB_DONE. -/
def execScrubDone (s : State) : Result :=
  .next (if s.eng.phase ≠ 4 ∨ s.eng.startFail then s
    else
      let s := scrubbed s
      readyCheck { s with eng := { s.eng with scrubDone := true, phase := if s.eng.linksDone then 6 else 5 } })

/-- PIER_FAIL (R403, R430): the Pier's stack did not become ready in time. READY is not reached before it is (R402), so that a later one is of
a Pier that was reset on its own: it fails no start-up. -/
def execPierFail (s : State) : Result :=
  .next (if s.eng.phase = 0 ∨ s.pier.readySeen then s
    else { s with eng := { s.eng with pierFail := true, startFail := s.eng.startFail || decide (s.eng.phase ≠ 7) } })

/-! ## CORE_MISMATCH (R411) -/

/-- The threads of a core that are not FREE, by class and then by number; a KILLed one ends where it is (R206). -/
def coreThreads (s : State) (c : Nat) : List ThreadId :=
  let held := allThreads.filter (fun t => decide (t.core.val = c) && (getThr s t).st ≠ .free && !(getThr s t).killed)
  ((List.range 3).map (fun k => held.filter (fun t => leaseClass s (getThr s t).lease == k))).flatten

/-- Settle what a core offers: a thread's instructions that have not crossed have not retired, and it runs again from the first of them after
the move (R411); those whose thread is gone, or has executed others since, cross with the values read at their issue (R198, log entry 67). -/
def withdrawCore (s : State) (c : Nat) : State :=
  (allThreads.filter (fun t => decide (t.core.val = c))).foldl takeBack s

/-- Read a thread's frame out of a core that leaves service. -/
def displace (s : State) (t : ThreadId) : State :=
  let l := (getThr s t).lease
  let s := saveThread s l t
  setRt s l { getRt s l with frames := (getRt s l).frames.map (fun f => if f.home = t ∧ ¬ f.written then { f with displaced := true } else f) }

/-- Restore the frames of RESIDENT leases into FREE threads, in class order. -/
def restoreAll (s : State) : State :=
  (((List.range 3).map (fun k => (List.range 16).filter (fun l => leaseClass s l == k))).flatten).foldl (fun s l =>
    if lstate s l = .resident ∧ ¬ (getRt s l).saving then restoreFrames l 64 s else s) s

/-- CORE_MISMATCH: the core leaves service, its frames go to FREE threads of the others, and the rest wait. -/
def execCoreMismatch (c : Fin 4) (s : State) : Result :=
  .next (if ¬ inService s ∨ ¬ s.eng.coresOk.getLsbD c.val then s
    else
      let ok := s.eng.coresOk &&& ~~~((1 : BitVec 4) <<< c.val)
      let s := { s with eng := { s.eng with coresOk := ok } }
      let s := engineReport s 0x65 (BitVec.ofNat 64 c.val) (ok.setWidth 64)
      let s := withdrawCore s c.val
      let s := (coreThreads s c.val).foldl displace s
      let s := restoreAll s
      if ok = 0 then startStopOpen s 7 else s)

/-! ## The end of a stop (R417) -/

/-- Whether a fabric request of the span is a write. -/
def isWriteReq (s : State) (e : Nat × ReqFor) : Bool :=
  match e.2 with
  | .store _ => true
  | .burst c _ _ => !stIsRing (getStr s c)
  | _ => farWriteOut e

/-- Give up every write that has not been acknowledged: its units have been left at their old or new values, and nobody waits for it any more.
The controller still owes its responses (R270). -/
def giveUpWrites (s : State) : State :=
  let s := { s with net := { s.net with out := s.net.out.filter (fun e => !isWriteReq s e) } }
  let s := allThreads.foldl (fun s t => setThr s t { getThr s t with stores := [] }) s
  let s := (List.range 16).foldl (fun s l =>
    setRt s l { getRt s l with frames := (getRt s l).frames.map (fun f => { f with thr := { f.thr with stores := [] } }) }) s
  let s := (List.range 32).foldl (fun s c =>
    let x := getStr s c
    if stIsRing x then s else setStr s c { x with xfers := x.xfers.map refetch }) s
  let s := orphan s (fun _ => true)
  { s with pier := { s.pier with jobs := [], cmds := [] }
           mc := { s.mc with recv := s.mc.recv.map (fun r => { r with arrived := [], old := [] }) }
           abut := { s.abut with cxlJobs := s.abut.cxlJobs.filter (fun j => !cxlWrites j)
                                 cxl := s.abut.cxl.filter (fun r => !r.write) } }

/-- STOP_DEADLINE: writes not acknowledged are abandoned and counted, and the engine set is STOPPED. `kept` are the 64-byte units that hold
their old values; the others hold their new ones. -/
def execStopDeadline (kept : List Nat) (s : State) : Result :=
  .next (if s.eng.mode ≠ 2 then s
    else
      let n := unackedWrites s
      let s := giveUpWrites (settleWrites s (fun a => !kept.contains (a / 64)))
      { s with eng := { s.eng with mode := 3, abandoned := BitVec.ofNat 16 (min 0xFFFF n) } })

/-! ## Test access (R420 to R422, R437) -/

/-- Whether the analogue test bus pins ATB0 and ATB1 are connected to the monitors: only in TEST; they are high-impedance otherwise (R437). -/
def atbConnected (s : State) : Bool := decide (s.eng.mode = 4)

/-- Load a TAP's instruction register. -/
def setIr (s : State) (part : Part) (code : Byte) : State :=
  { s with tap := match part with
      | .span => { s.tap with irSpan := code }
      | .pier => { s.tap with irPier := code }
      | .abut => { s.tap with irAbut := code } }

/-- The IDCODE of a part (R420). -/
def idcode (s : State) (part : Part) : Half :=
  let pn : BitVec 16 := match part with | .span => 0xF1A0 | .pier => 0xF1A2 | .abut => 0xF1A3
  let jep : BitVec 11 := match part with | .span => s.fuse.jepSpan | .pier => s.fuse.jepPier | .abut => s.fuse.jepAbut
  (0x2 : BitVec 4) ++ pn ++ jep ++ (1 : BitVec 1)

/-- The identity register of the Girder die's wrapper, once its path is open (R420): only its part-number field is stated. -/
def girderIdentity (s : State) : State :=
  { s with free := s.free + 1
           tap := { s.tap with drGirder := setFld ((Config.freeWord s.free).setWidth 32) 12 (0xF1A1 : BitVec 16) } }

/-- What the instructions that the span's port holds reach at an open path (R420). -/
def openPaths (s : State) : State := if s.tap.opened ∧ s.tap.irSpan = 0x10 then girderIdentity s else s

/-- A private instruction (R421): bypass where TEST_LOCK is blown, else the engine set stops without reports and the zero-fill
starts. -/
def privateTap (s : State) (part : Part) (code : Byte) : State :=
  if testLock s part then setIr s part 0xFF
  else if s.eng.mode = 4 then openPaths (setIr s part code)
  else
    let s := faultStop (setIr s part code)
    { s with eng := { s.eng with mode := 4, testFill := true } }

def execExtest (part : Part) (s : State) : Result := .next (setIr s part 0x00)
/-- IDCODE: the identity code is in the part's data register. -/
def execIdcode (part : Part) (s : State) : Result :=
  let s := setIr s part 0x01
  let d := idcode s part
  .next { s with tap := match part with
    | .span => { s.tap with drSpan := d }
    | .pier => { s.tap with drPier := d }
    | .abut => { s.tap with drAbut := d } }
def execSamplePreload (part : Part) (s : State) : Result := .next (setIr s part 0x02)
def execWrapper (part : Part) (s : State) : Result := .next (privateTap s part 0x10)
def execIjtag (part : Part) (s : State) : Result := .next (privateTap s part 0x11)
def execBypass (part : Part) (s : State) : Result := .next (setIr s part 0xFF)
/-- TRST_N: Test-Logic-Reset selects IDCODE; nothing else changes. -/
def execTrstN (part : Part) (s : State) : Result := .next (setIr s part 0x01)

/-- Everything that holds lease data, at its reset value (R421). -/
def leaseDataCleared (s : State) : State :=
  let s := orphan s (fun _ => true)
  let bare := fun (x : Port) => { x with replay := [], txq := [], txb := [], came := [], frame := none, early := [], rx := [] }
  { scrubbed s with
    thr := [], rrCore := 0, instrs := [], str := [], strSpares := 2, lastCtx := [], gather := []
    arr := {}, drn := none, vec := none, rs := [], chn := [], chnFree := 512, chnCred := []
    mc := { s.mc with mseq := [], sends := [], recv := [], wait := [], told := [] }
    repQ := []
    perf := { s.perf with val := [], ctl := [], reload := [], dumpQ := [] }
    gir := { segFree := 0xFFFFFFFFFFFFFFFF }
    pier := { s.pier with cmds := [], jobs := [], tiles := [], dups := [], lines := [], groups := [], repQ := [] }
    abut := { s.abut with port := (List.range 19).foldl (fun t k => Tab.set {} t k (bare (Tab.get {} s.abut.port k))) s.abut.port
                          dedup := [], cxl := [], cxlJobs := [], repQ := [] }
    net := { s.net with tx := [], txPort := [], rx := [], out := [], whose := [], got := [] } }

/-- TEST_ZERO_FILL_DONE: writes still under way are given up as at the end of a stop (R417), the stores and the lease data are clear, and
only then do the test paths open. -/
def execTestZeroFillDone (s : State) : Result :=
  .next (if s.eng.mode = 4 ∧ s.eng.testFill then
      let s := leaseDataCleared (giveUpWrites (abandonWrites s))
      openPaths { s with eng := { s.eng with testFill := false }, tap := { s.tap with opened := true } }
    else s)

/-- FUSE_SHADOW_WRITE (R99, R420, R421): in TEST, the IEEE 1687 network that the span's port selects with IJTAG writes the repair
registers, unless its TEST_LOCK is blown. -/
def execFuseShadowWrite (a : BitVec 32) (v : BitVec 64) (s : State) : Result :=
  let n := a.toNat
  let w : BitVec 16 := v.setWidth 16
  let q := s.fuse
  .next (if s.eng.mode ≠ 4 ∨ ¬ s.tap.opened ∨ s.tap.irSpan ≠ 0x11 ∨ testLock s .span ∨ n % 8 ≠ 0 then s
    else if 0x28000 ≤ n ∧ n < 0x28200 then
      { s with fuse := { q with colRepair := Tab.set 0 q.colRepair ((n - 0x28000) / 8) (w &&& 0xF03F) } }
    else if 0x28200 ≤ n ∧ n < 0x28240 then
      { s with fuse := { q with rowRepair := Tab.set 0 q.rowRepair ((n - 0x28200) / 8) (w &&& 0xC1FF) } }
    else if n = 0x28240 then
      if 1 ≤ bits v 23 16 ∧ bits v 23 16 ≤ 64 then { s with fuse := { q with activeGroups := bits v 23 16 } } else s
    else if 0x28248 ≤ n ∧ n < 0x28278 then
      { s with fuse := { q with spareBank := Tab.set 0 q.spareBank ((n - 0x28248) / 8) (w &&& 0x80FF) } }
    else s)

end Sys2Proof.Machine
end

