-- ==== Sys2Proof/Machine/Regs.lean ====
section
/-! DEFINITION. The register map (R448 to R472): what every register reads, what a host write does, management requests plain
and directed (R335, R449 to R451), invalidations (R189, R374, R458) and loop-backs (R419, R468). -/

namespace Sys2Proof.Machine

/-! ## Reads -/

/-- A word from fields: bit position and value. -/
def packWord (fs : List (Nat × Nat)) : Word := BitVec.ofNat 64 (sumL (fs.map (fun f => f.2 * 2 ^ f.1)))

/-- A commit register (R452). -/
def commitRead (g : CommitReg) : Word :=
  packWord [(19, g.pending.toNat), (18, g.shadowLocked.toNat), (17, g.refused.toNat), (0, g.taken.toNat)]

/-- STATE codes of LEASE_CTL (R353). -/
def lstateCode : LState → Nat
  | .empty => 0 | .loading => 1 | .resident => 2 | .parked => 3 | .suspended => 4 | .unloading => 5 | .releasing => 6

/-- LEASE_CTL (R353). -/
def leaseCtlRead (s : State) (l : Nat) : Word :=
  let c := getCtl s l
  packWord [(12, lstateCode c.st), (11, c.busy.toNat), (10, c.refused.toNat), (9, c.parkWindow.toNat), (8, c.parkExpress.toNat)]

/-- A word of a thread's window (R462): the whole frame of a HALTED thread, else STATE, WAIT_REASON and WAIT_ARG alone. -/
def threadRead (s : State) (t : ThreadId) (off : Nat) : Word :=
  let x := getThr s t
  if off = 0x1F8 then packWord [(7, x.lease), (4, tstateCode x.st), (3, x.refused.toNat)]
  else if 0x110 ≤ off then 0
  else if x.st = .halted then (frameWords x t).getD (off / 8) 0
  else if off = 0x100 then packWord [(20, tstateCode x.st), (16, reasonCode x.reason)]
  else if off = 0x108 then x.arg
  else 0

/-- A register of a counter's view (R463). -/
def counterRead (s : State) (n off : Nat) : Word :=
  let c := getCnt s n
  match off with
  | 0x00 => c.p
  | 0x08 => c.c
  | 0x10 => packWord [(34, c.capRefused.toNat), (33, c.ovf.toNat), (0, c.cap.toNat)]
  | _ => 0

/-- A register of a stream's view (R464). -/
def streamRead (s : State) (c off : Nat) : Word :=
  let x := getStr s c
  if off < 0x40 then
    if x.st = .unarmed then 0
    else
      let w := x.desc.getD (off / 8) 0
      if off = 0x20 then setFld w 0 (BitVec.ofNat 32 x.rows) else w
  else match off with
    | 0x40 => BitVec.ofNat 64 x.next
    | 0x48 => x.faultAddr
    | 0x50 => x.faultXfer
    | 0x58 => packWord [(8, x.rearm.isSome.toNat), (0, sstateCode x.st)]
    | 0x60 => packWord [(1, x.notHalted.toNat)]
    | _ => 0

/-- SEGMAP of a slot (R465). -/
def segmapRead (v : Slot) : Word :=
  packWord ((List.range 8).map (fun n => (8 * n, match v.segs[n]? with | some k => 64 + k | none => 0)))

/-- PEEK_STATUS (R466). -/
def peekStatus (g : GirderUnit) : Word :=
  packWord [(3, g.peekNotRes.toNat), (2, g.peekDenied.toNat), (1, g.peekDone.toNat), (0, g.peekBusy.toNat)]

/-- THROTTLE_CTL (R397). -/
def throttleRead (s : State) : Word :=
  let m := s.mon
  packWord [(54, m.tempTrip.toNat), (44, m.tempHot.toNat), (38, m.hyst.toNat), (30, m.droopHold.toNat), (26, m.droopStep.toNat),
    (16, m.hostFloor.toNat), (12, m.thermal.toNat), (8, m.droopLvl.toNat), (4, throttleLevel s)]

/-- MODSTAT (R467). -/
def modstat (x : Module) : Word :=
  packWord [(19, x.rate.toNat), (18, x.up.toNat), (17, x.out.toNat), (16, x.reversed.toNat), (8, x.failed.toNat),
    (0, x.repaired.toNat)]

/-- A loop-back slot of a part (R468). -/
def getLoop (s : State) (part : Part) (n : Nat) : Loopback := Tab.get {} s.loop (16 * partNo part + n)
def setLoop (s : State) (part : Part) (n : Nat) (x : Loopback) : State :=
  { s with loop := Tab.set {} s.loop (16 * partNo part + n) x }
def loopCtlRead (x : Loopback) : Word :=
  packWord [(16, x.index.toNat), (8, x.path.toNat), (1, x.refused.toNat), (0, x.run.toNat)]

/-- PART (R456). -/
def partNumber : Part → Word
  | .span => 0xF1A0
  | .pier => 0xF1A2
  | .abut => 0xF1A3
def serialOf (s : State) : Part → Word
  | .span => s.fuse.serialSpan
  | .pier => s.fuse.serialPier
  | .abut => s.fuse.serialAbut

/-- The registers that all three parts hold (R456, R457, R459, R467, R468); none elsewhere. -/
def commonRead (s : State) (part : Part) (a : Nat) : Option Word :=
  match a with
  | 0x00 => some 0x01010200
  | 0x08 => some (partNumber part)
  | 0x10 => some (serialOf s part)
  | 0x40 => some (match part with
      | .span => s.eng.faultLost.setWidth 64 | .pier => s.pier.faultLost.setWidth 64 | .abut => s.abut.faultLost.setWidth 64)
  | 0x1000 => some (match part with
      | .span => s.beat.count | .pier => s.pier.beatCount | .abut => s.abut.beatCount)
  | _ =>
    let mods := match part with | .span => 8 | .pier => 7 | .abut => 15
    if 0x34000 ≤ a ∧ a < 0x34000 + 8 * mods then some (modstat (getMod s part ((a - 0x34000) / 8)))
    else if 0x36000 ≤ a ∧ a < 0x36080 then some (loopCtlRead (getLoop s part ((a - 0x36000) / 8)))
    else if 0x36080 ≤ a ∧ a < 0x36100 then
      let x := getLoop s part ((a - 0x36080) / 8)
      some (packWord [(32, x.errors.toNat), (0, x.units.toNat)])
    else none

/-- Registers of the span at single addresses (R455). -/
def spanOne (s : State) (a : Nat) : Word :=
  match a with
  | 0x18 => s.eng.straps.setWidth 64
  | 0x28 => packWord [(16, s.eng.abandoned.toNat), (8, s.eng.stopReason.toNat), (0, s.eng.mode.toNat)]
  | 0x30 => startStatus s
  | 0x38 => s.eng.eventDest.setWidth 64
  | 0x48 => packWord [(31, s.eng.icInvBusy.toNat), (0, s.eng.icInvLease.toNat)]
  | 0x50 => packWord [(31, s.eng.xlInvBusy.toNat), (0, s.eng.xlInvLease.toNat)]
  | 0x1008 => s.beat.load
  | 0x1010 => s.beat.nominal.setWidth 64
  | 0x1018 => packWord [(1, s.beat.loadPending.toNat), (0, s.beat.freeRun.toNat)]
  | 0x1020 => s.beat.meterPeriod.setWidth 64
  | 0x1028 => s.beat.meterLost.setWidth 64
  | 0x2880 => commitRead s.lease.gen
  | 0x3300 => commitRead s.map.gen
  | 0x24200 => s.gir.segFree
  | 0x24208 => s.gir.scrubQ.foldl (fun w k => w ||| ((1 : Word) <<< k)) 0
  | 0x24300 => s.gir.peekAddr
  | 0x24308 => s.gir.peekData
  | 0x24310 => peekStatus s.gir
  | 0x28240 => arrayGeom s
  | 0x30180 => s.perf.dumpCfg
  | 0x30188 => s.perf.dumpPeriod.setWidth 64
  | 0x321C0 => throttleRead s
  | _ => 0

/-- Arrays of the span's space: first address, end, and the register of an offset. -/
def spanArrays (s : State) : List (Nat × Nat × (Nat → Word)) :=
  [(0x2000, 0x2800, fun o => Tab.get 0 s.lease.shadow (o / 8)),
   (0x102000, 0x102800, fun o => Tab.get 0 s.lease.active (o / 8)),
   (0x2800, 0x2880, fun o => leaseCtlRead s (o / 8)),
   (0x3000, 0x3300, fun o => Tab.get 0 s.map.shadow (o / 8)),
   (0x103000, 0x103300, fun o => Tab.get 0 s.map.active (o / 8)),
   (0x10000, 0x18000, fun o => threadRead s (thrOf (o / 0x200)) (o % 0x200)),
   (0x20000, 0x21800, fun o => counterRead s (o / 0x20) (o % 0x20)),
   (0x22000, 0x23000, fun o => streamRead s (o / 0x80) (o % 0x80)),
   (0x24000, 0x24100, fun o => (slotStat (getSlot s (o / 8))).setWidth 64),
   (0x24100, 0x24200, fun o => segmapRead (getSlot s (o / 8))),
   (0x24400, 0x24800, fun o => (getSlot s (o / 0x20)).poisonRows.extractLsb' (64 * (o % 0x20 / 8)) 64),
   (0x28000, 0x28200, fun o => (Tab.get 0 s.fuse.colRepair (o / 8)).setWidth 64),
   (0x28200, 0x28240, fun o => (Tab.get 0 s.fuse.rowRepair (o / 8)).setWidth 64),
   (0x28248, 0x28278, fun o => (Tab.get 0 s.fuse.spareBank (o / 8)).setWidth 64),
   (0x30000, 0x30080, fun o => Tab.get 0 s.perf.val (o / 8)),
   (0x30080, 0x30100, fun o => (Tab.get 0 s.perf.ctl (o / 8)).setWidth 64),
   (0x30100, 0x30180, fun o => Tab.get 0 s.perf.reload (o / 8)),
   (0x32000, 0x32100, fun o => let x := Tab.get {} s.mon.temp (o / 8)
      packWord [(31, x.valid.toNat), (30, x.hotSeen.toNat), (0, x.code.toNat)]),
   (0x32100, 0x32180, fun o => let x := Tab.get {} s.mon.droop (o / 8)
      packWord [(8, x.trips.toNat), (0, x.thresh.toNat)]),
   (0x32180, 0x321C0, fun o => (Tab.get 0 s.mon.ro (o / 8)).setWidth 64)]

/-- PORT_CTL, PORT_PARTNER and PORT_FEATURES (R471). -/
def portCtlRead (x : Port) : Word := packWord [(32, x.replayTimeout.toNat), (0, pstateCode x.st)]
def portPartner (x : Port) : Word :=
  if x.st = .up then packWord [(32, x.partnerId.toNat), (8, x.partnerAddr.toNat), (0, x.version.toNat)] else 0

/-- Registers of the Pier (R469). -/
def pierOne (s : State) (a : Nat) : Word :=
  let q := s.pier
  match a with
  | 0x40000 => packWord [(0, q.override.toNat)]
  | 0x40008 => q.groupBase
  | 0x40010 => packWord [(31, q.reloadBusy.toNat), (30, q.reloadRefused.toNat), (0, q.reloadGroup.toNat)]
  | 0x40018 => q.pcmap
  | 0x40020 => packWord [(31, q.flushBusy.toNat), (0, q.flushDomain.toNat)]
  | _ => 0

/-- Registers of the Abutment at single addresses (R470). -/
def abutOne (s : State) (a : Nat) : Word :=
  let q := s.abut
  match a with
  | 0x40000 => q.fabShadow.setWidth 64
  | 0x140000 => q.fabActive.setWidth 64
  | 0x40008 => commitRead q.gen
  | 0x45000 => q.etype.setWidth 64
  | 0x45008 => q.linkCfg.setWidth 64
  | 0x45010 => q.mac.setWidth 64
  | 0x45018 => q.cxlTimeout.setWidth 64
  | _ => 0

/-- Arrays of the Abutment's space. -/
def abutArrays (s : State) : List (Nat × Nat × (Nat → Word)) :=
  let q := s.abut
  [(0x41000, 0x41800, fun o => Tab.get 0 q.routeShadow (o / 8)),
   (0x141000, 0x141800, fun o => Tab.get 0 q.routeActive (o / 8)),
   (0x42000, 0x44000, fun o => Tab.get 0 q.mcShadow (o / 8)),
   (0x142000, 0x144000, fun o => Tab.get 0 q.mcActive (o / 8)),
   (0x44000, 0x44080, fun o => portCtlRead (getPort s (o / 8))),
   (0x44080, 0x44100, fun o => portPartner (getPort s (o / 8))),
   (0x44100, 0x44180, fun o => let x := getPort s (o / 8); if x.st = .up then x.features.setWidth 64 else 0),
   (0x45040, 0x45080, fun o => (Tab.get 0 q.neigh (o / 8)).setWidth 64),
   (0x45080, 0x450C0, fun o => (Tab.get 0 q.vlan (o / 8)).setWidth 64)]

/-- The register of an address among arrays, else a single one. -/
def fromArrays (as : List (Nat × Nat × (Nat → Word))) (a : Nat) (one : Word) : Word :=
  match as.find? (fun e => decide (e.1 ≤ a ∧ a < e.2.1)) with
  | some e => e.2.2 (a - e.1)
  | none => one

/-- What a register reads (R448): 0 where no map lists the address. -/
def readReg (s : State) (part : Part) (a : Nat) : Word :=
  match commonRead s part a with
  | some w => w
  | none => match part with
    | .span => fromArrays (spanArrays s) a (spanOne s a)
    | .pier => pierOne s a
    | .abut => fromArrays (abutArrays s) a (abutOne s a)

/-! ## Loop-backs (R419, R468) -/

/-- Whether a lease is RESIDENT. -/
def anyResident (s : State) : Bool := (List.range 16).any (fun l => lstate s l = .resident)

/-- Whether a port is in a port set of a valid route entry. -/
def portRouted (s : State) (p : Nat) : Bool :=
  s.abut.routeActive.any (fun e => e.2.getLsbD 63 && e.2.getLsbD p)

/-- Modules of a part (R423, R431). -/
def moduleCount : Part → Nat
  | .span => 8
  | .pier => 7
  | .abut => 15

/-- Whether the module at the far end of a link within the engine set is out of the striping too: the one at the same place among the
link's modules (log entry 65). -/
def farModuleOut (s : State) (part : Part) (m : Nat) : Bool :=
  match modPort s part m with
  | none => true
  | some k =>
    let far := match k with | 0 => some 16 | 16 => some 0 | 17 => some 18 | 18 => some 17 | _ => none
    match far, (getPort s k).mods.findIdx? (fun n => n == m) with
    | some q, some j => ((getPort s q).mods[j]?).all (fun n => (getMod s (keyPart q) n).out)
    | _, _ => true

/-- Whether a loop-back of a path and index may start on a part: the path is the part's, the index in range, and the path out
of service (R419). -/
def loopFree (s : State) (part : Part) (path index : Nat) : Bool :=
  match path, part with
  | 1, .span => index == 0 && s.arr.run.isNone && !anyResident s
  | 2, .span => index == 0 && !anyResident s
  | 3, _ | 4, _ => decide (index < moduleCount part) && (getMod s part index).out
  | 5, _ => decide (index < moduleCount part) && (getMod s part index).out && farModuleOut s part index
  | 6, .pier => index == 0 && !anyResident s
  | 7, .abut => decide (index < 14) && !portRouted s index
  | 8, .abut => decide (index < 8) && !portRouted s (lanePort s index)
  | _, _ => false

/-- Whether another slot of the part runs the same path and index. -/
def loopTwice (s : State) (part : Part) (n path index : Nat) : Bool :=
  (List.range 16).any (fun k => let x := getLoop s part k
    decide (k ≠ n) && x.run && decide (x.path.toNat = path ∧ x.index.toNat = index))

/-- What the end of a loop-back starts (R419): a router port or an Ethernet link trains again, and the streamer or the Pier's port takes up
what waits. A module trains on its own: it stands out of the striping until MODULE_RETRAIN_DONE (R345). -/
def loopEnds (s : State) (part : Part) (x : Loopback) : State :=
  if ¬ x.run then s
  else match x.path.toNat, part with
    | 7, .abut => retrainPort s x.index.toNat
    | 8, .abut => retrainPort s (lanePort s x.index.toNat)
    | 2, .span => streamPoll s
    | 6, .pier => pumpPier s
    | _, _ => s

/-- A write of LOOPBACK_CTL (R468). -/
def loopWrite (s : State) (part : Part) (n : Nat) (v : Word) : State :=
  let x := getLoop s part n
  let x := if v.getLsbD 1 then { x with refused := false } else x
  let path := bits v 11 8
  let index := bits v 23 16
  if v.getLsbD 0 then
    if loopFree s part path index ∧ ¬ loopTwice s part n path index then
      setLoop s part n { x with path := BitVec.ofNat 4 path, index := BitVec.ofNat 8 index, run := true, errors := 0, units := 0 }
    else setLoop s part n { x with refused := true, run := false }
  else loopEnds (setLoop s part n { x with path := BitVec.ofNat 4 path, index := BitVec.ofNat 8 index, run := false }) part x

/-- LOOPBACK_START and LOOPBACK_END: the write of a slot. -/
def execLoopbackStart (part : Part) (n : Fin 16) (v : BitVec 64) (s : State) : Result :=
  .next (if partWrites s part then loopWrite s part n.val v else s)
def execLoopbackEnd (part : Part) (n : Fin 16) (v : BitVec 64) (s : State) : Result :=
  .next (if partWrites s part then loopWrite s part n.val v else s)

/-! ## Invalidations (R189, R374, R458) -/

/-- A write of KS_ICACHE_INV: ignored while BUSY. -/
def icInvWrite (s : State) (v : Word) : State :=
  if s.eng.icInvBusy then s else { s with eng := { s.eng with icInvBusy := true, icInvLease := fld v 0 4 } }

/-- KS_ICACHE_INV. -/
def execKsIcacheInv (v : BitVec 64) (s : State) : Result := .next (if hostWrites s then icInvWrite s v else s)

/-- ICACHE_INV_DONE: no instruction cache holds a line of the lease. -/
def execIcacheInvDone (s : State) : Result :=
  .next (if s.eng.icInvBusy then
      let l := s.eng.icInvLease.toNat
      let s := (List.range 4).foldl (fun s c =>
        setCore s c { getCore s c with icache := (getCore s c).icache.filter (fun ln => ln.lease != l) }) s
      { s with eng := { s.eng with icInvBusy := false } }
    else s)

/-- A write of XLATE_INV: ignored while BUSY. -/
def xlInvWrite (s : State) (v : Word) : State :=
  if s.eng.xlInvBusy then s else { s with eng := { s.eng with xlInvBusy := true, xlInvLease := fld v 0 4 } }

/-- XLATE_INV. -/
def execXlateInv (v : BitVec 64) (s : State) : Result := .next (if hostWrites s then xlInvWrite s v else s)

/-- Whether an access of a lease that was translated earlier is still to complete: a burst, a load or store, a status or
result write, a read or write of another endpoint's memory, or a multicast write. -/
def accessesOut (s : State) (l : Nat) : Bool :=
  burstsOut s l || allThreads.any (fun t => let x := getThr s t
    decide (x.lease = l) && x.st ≠ .free && !(x.loads.isEmpty && x.stores.isEmpty)) ||
  (getRt s l).frames.any (fun f => !(f.thr.loads.isEmpty && f.thr.stores.isEmpty)) ||
  s.instrs.any (fun i => decide (i.lease = l) && i.statusPa.isSome) || s.vec.any (fun r => r.lease == l) || farOut s l ||
  s.mc.recv.any (fun r => decide (r.lease = l) && r.arrived != [])

/-- XLATE_INV_DONE: no translation of the lease is held anywhere, and no access under an old one is left. -/
def execXlateInvDone (s : State) : Result :=
  let l := s.eng.xlInvLease.toNat
  .next (if s.eng.xlInvBusy ∧ ¬ accessesOut s l then
      let s := (List.range 4).foldl (fun s c =>
        let k := getCore s c
        setCore s c { k with itlb := k.itlb.filter (fun e => e.lease != l), dtlb := k.dtlb.filter (fun e => e.lease != l) }) s
      { s with xlate := s.xlate.filter (fun e => e.lease != l), eng := { s.eng with xlInvBusy := false } }
    else s)

/-! ## Writes of the shadow sets (R351, R452 to R454, R460) -/

/-- The bits that word w of a lease entry has (R351). -/
def leaseMask : Nat → Word
  | 0 => 0x00FFFFFF00FFFFFF
  | 1 => 0x1FFFFFFFFFFFFFF8
  | 2 => 0xFFFFFFFFFFFFF000
  | 3 => 0xFFFFFFFFFFFFF000
  | 11 => 0xFFFFFFC000FFFFFF
  | 14 => 0xFFF0000000000000
  | _ => 0xFFFFFFFFFFFFFFFF

/-- The value that a write gives a lease entry's word: of a position that is not EMPTY, LEGACY, CNT_BASE and CNT_COUNT are locked, and the
write of them is ignored (R9, R351). -/
def lockedFields (s : State) (k : Nat) (v : Word) : Word :=
  let m : Word := if k % 16 = 1 ∧ lstate s (k / 16) ≠ .empty then 0x04FFFF0000000000 else 0
  (v &&& ~~~m) ||| (Tab.get 0 s.lease.shadow k &&& m)

/-- A write of a lease entry's shadow; it marks the position as written. -/
def leaseShadow (s : State) (k : Nat) (v : Word) : State :=
  let q := s.lease
  if q.gen.pending then { s with lease := { q with gen := { q.gen with shadowLocked := true } } }
  else { s with lease := { q with shadow := Tab.set 0 q.shadow k (lockedFields s k v &&& leaseMask (k % 16))
                                  written := q.written ||| ((1 : BitVec 16) <<< (k / 16)) } }

/-- A write of a map window's shadow (R460); the fourth place of a window holds no register. -/
def mapShadow (s : State) (k : Nat) (v : Word) : State :=
  let q := s.map
  let mask : Word := match k % 4 with | 0 | 1 => 0xFFFFFFFFC0000000 | 2 => 0x8000000000FFFFFF | _ => 0
  if k % 4 = 3 then s
  else if q.gen.pending then { s with map := { q with gen := { q.gen with shadowLocked := true } } }
  else { s with map := { q with shadow := Tab.set 0 q.shadow k (v &&& mask) } }

/-- A write of a shadowed register of the router. -/
def routerShadow (s : State) (f : AbutUnit → AbutUnit) : State :=
  let q := s.abut
  { s with abut := if q.gen.pending then { q with gen := { q.gen with shadowLocked := true } } else f q }

/-! ## Writes of single registers (R457, R387, R395 to R397, R472) -/

/-- ENGINE_EVENT_DEST (R457): the span takes it and tells its Pier and its Abutment. -/
def eventDestWrite (s : State) (v : Word) : State :=
  let d : BitVec 24 := fld v 0 24
  readyCheck { s with eng := { s.eng with eventDest := d }, pier := { s.pier with eventDest := d }
                      abut := { s.abut with eventDest := d } }

/-- ENGINE_EVENT_DEST: applied from the fuse load on (R451). -/
def execEngineEventDest (v : BitVec 64) (s : State) : Result := .next (if s.eng.fuseDone then eventDestWrite s v else s)

/-- PERF_VAL: the write takes effect, and what the hardware has counted in the same cycle is added after it (R9). -/
def perfValWrite (s : State) (n : Nat) (v : Word) : State :=
  let k := hwNow s .span (0x30000 + 8 * n)
  perfAdd { setHw s .span (0x30000 + 8 * n) 0 with perf := { s.perf with val := Tab.set 0 s.perf.val n v } } n k srcNone

/-- PERF_CTL (R387): OVF and SAMPLE_MISS are W1C. -/
def perfCtlWrite (s : State) (n : Nat) (v : Word) : State :=
  let h : Half := v.setWidth 32
  let c : Half := (w1c s .span (0x30080 + 8 * n) v).setWidth 32
  let old := Tab.get 0 s.perf.ctl n
  { s with perf := { s.perf with ctl := Tab.set 0 s.perf.ctl n ((h &&& 0x03F01FFF) ||| (old &&& 0x0C000000 &&& ~~~c)) } }

/-- THROTTLE_CTL (R397): TEMP_TRIP only before the first beat; a DROOP_HOLD of 0 takes 1. -/
def throttleWrite (s : State) (v : Word) : State :=
  let m := s.mon
  let hold : Byte := fld v 30 8
  relevel { s with mon := { m with tempTrip := if m.tripLocked then m.tempTrip else fld v 54 10, tempHot := fld v 44 10
                                   hyst := fld v 38 6, droopHold := if hold = 0 then 1 else hold, droopStep := fld v 26 4
                                   hostFloor := fld v 16 4 } } (throttleLevel s)

/-- TEMP (R396): HOT_SEEN is W1C. -/
def tempWrite (s : State) (n : Nat) (v : Word) : State :=
  let x := Tab.get {} s.mon.temp n
  if (w1c s .span (0x32000 + 8 * n) v).getLsbD 30 then { s with mon := { s.mon with temp := Tab.set {} s.mon.temp n { x with hotSeen := false } } }
  else s

/-- DROOP (R396): THRESH of at least 8; bit 31 clears TRIPS but for those of the same cycle (R9). -/
def droopWrite (s : State) (n : Nat) (v : Word) : State :=
  let x := Tab.get {} s.mon.droop n
  let t : Byte := fld v 0 8
  let x := { x with thresh := if t.toNat < 8 then 8 else t, trips := if v.getLsbD 31 then BitVec.ofNat 16 (hwNow s .span (0x32100 + 8 * n)) else x.trips }
  { s with mon := { s.mon with droop := Tab.set {} s.mon.droop n x } }

/-- FAULT_LOST of a part (R457): what the hardware has counted in the same cycle is added after the write (R9). -/
def faultLostWrite (s : State) (part : Part) (v : Word) : State :=
  let h : Half := satAdd32 (v.setWidth 32) (hwNow s part 0x40)
  match part with
  | .span => { s with eng := { s.eng with faultLost := h } }
  | .pier => { s with pier := { s.pier with faultLost := h } }
  | .abut => { s with abut := { s.abut with faultLost := h } }

/-- Single registers of the span that take writes. -/
def spanWriteOne (s : State) (a : Nat) (v : Word) : State :=
  match a with
  | 0x20 => engineResetWrite s v
  | 0x38 => eventDestWrite s v
  | 0x48 => icInvWrite s v
  | 0x50 => xlInvWrite s v
  | 0x1008 => beatLoadWrite s v
  | 0x1010 => nominalWrite s v
  | 0x1020 => meterPeriodWrite s v
  | 0x2880 => leaseGenWrite s v
  | 0x3300 => mapGenWrite s v
  | 0x24300 => peekWrite s v
  | 0x30180 => { s with perf := { s.perf with dumpCfg := (v &&& ~~~0xFF) ||| (s.perf.dumpCfg &&& 0xFF) } }
  | 0x30188 => dumpPeriodWrite s v
  | 0x321C0 => throttleWrite s v
  | _ => s

/-- A write of a counter's view (R463). -/
def counterWrite (s : State) (n off : Nat) (v : Word) : State :=
  match off with
  | 0x00 => cntPcWrite s n false v
  | 0x08 => cntPcWrite s n true v
  | 0x10 => cntCfgWrite s n v
  | _ => cntSignalWrite s n v

/-- A write in a thread's window (R462). -/
def threadWrite (s : State) (t : ThreadId) (off : Nat) (v : Word) : State :=
  if off = 0x1F8 then threadCtlWrite s t v else if off < 0x110 then frameWrite s t off v else s

/-- Arrays of the span's space that take writes. -/
def spanRegWrites (s : State) (v : Word) : List (Nat × Nat × (Nat → State)) :=
  [(0x2000, 0x2800, fun o => leaseShadow s (o / 8) v),
   (0x2800, 0x2880, fun o => leaseCtlWrite s (o / 8) v),
   (0x3000, 0x3300, fun o => mapShadow s (o / 8) v),
   (0x10000, 0x18000, fun o => threadWrite s (thrOf (o / 0x200)) (o % 0x200) v),
   (0x20000, 0x21800, fun o => counterWrite s (o / 0x20) (o % 0x20) v),
   (0x22000, 0x23000, fun o => if o % 0x80 = 0x60 then streamPoll (streamCtlWrite s (o / 0x80) v) else s),
   (0x30000, 0x30080, fun o => perfValWrite s (o / 8) v),
   (0x30080, 0x30100, fun o => perfCtlWrite s (o / 8) v),
   (0x30100, 0x30180, fun o => { s with perf := { s.perf with reload := Tab.set 0 s.perf.reload (o / 8) v } }),
   (0x32000, 0x32100, fun o => tempWrite s (o / 8) v),
   (0x32100, 0x32180, fun o => droopWrite s (o / 8) v)]

/-- Registers of the Pier that take writes (R469). -/
def pierWriteOne (s : State) (a : Nat) (v : Word) : State :=
  match a with
  | 0x40000 => { s with pier := { s.pier with override := v.getLsbD 0 } }
  | 0x40008 => { s with pier := { s.pier with groupBase := v &&& ~~~0xFFF } }
  | 0x40010 => reloadWrite s v
  | 0x40018 => pcmapWrite s v
  | 0x40020 => flushWrite s v
  | _ => s

/-- Registers of the Abutment that take writes (R470 to R472). -/
def abutWriteOne (s : State) (a : Nat) (v : Word) : State :=
  match a with
  | 0x40000 => routerShadow s (fun q => { q with fabShadow := v.setWidth 24 &&& 0xFFFFF0 })
  | 0x40008 => routerGenWrite s v
  | 0x45000 => { s with abut := { s.abut with etype := v.setWidth 16 } }
  | 0x45008 => linkcfgWrite s v
  | 0x45010 => { s with abut := { s.abut with mac := v.setWidth 48 } }
  | 0x45018 => { s with abut := { s.abut with cxlTimeout := if v.setWidth 8 = (0 : Byte) then 1 else v.setWidth 8 } }
  | _ => s

/-- Arrays of the Abutment's space that take writes. -/
def abutWrites (s : State) (v : Word) : List (Nat × Nat × (Nat → State)) :=
  [(0x41000, 0x41800, fun o => routerShadow s (fun q =>
      { q with routeShadow := Tab.set 0 q.routeShadow (o / 8) (v &&& 0xFFFFFFFFFF80FFFF) })),
   (0x42000, 0x44000, fun o => routerShadow s (fun q =>
      { q with mcShadow := Tab.set 0 q.mcShadow (o / 8) (v &&& 0xFFFFFC00FFFFFFFF) })),
   (0x44000, 0x44080, fun o => portCtlWrite s (o / 8) v),
   (0x45040, 0x45080, fun o => { s with abut := { s.abut with neigh := Tab.set 0 s.abut.neigh (o / 8) (v.setWidth 48) } }),
   (0x45080, 0x450C0, fun o => { s with abut := { s.abut with vlan := Tab.set 0 s.abut.vlan (o / 8) (v.setWidth 17) } })]

/-- The write of an address among arrays, else of a single register. -/
def intoArrays (as : List (Nat × Nat × (Nat → State))) (a : Nat) (one : State) : State :=
  match as.find? (fun e => decide (e.1 ≤ a ∧ a < e.2.1)) with
  | some e => e.2.2 (a - e.1)
  | none => one

/-- A host write of a register by its access code (R9, R448); an address that no map lists ignores it. -/
def writeReg (s : State) (part : Part) (a : Nat) (v : Word) : State :=
  if a = 0x40 then faultLostWrite s part v
  else if 0x36000 ≤ a ∧ a < 0x36080 then loopWrite s part ((a - 0x36000) / 8) v
  else match part with
    | .span => intoArrays (spanRegWrites s v) a (spanWriteOne s a v)
    | .pier => pierWriteOne s a v
    | .abut => intoArrays (abutWrites s v) a (abutWriteOne s a v)

/-- Whether a write of a register is applied now (R451): before SCRUB ends the span takes ENGINE_RESET and ENGINE_EVENT_DEST
alone. -/
def writeReady (s : State) (part : Part) (a : Nat) : Bool :=
  partWrites s part || (s.eng.fuseDone && decide (a = 0x20 ∨ a = 0x38))

/-- REGISTER_WRITE. -/
def execRegisterWrite (part : Part) (a : BitVec 32) (v : BitVec 64) (s : State) : Result :=
  .next (if a.toNat % 8 = 0 ∧ writeReady s part a.toNat then writeReg s part a.toNat v else s)

/-! ## Management requests (R449 to R451) -/

/-- ADDR and COUNT of a request. -/
def mgAddr (pk : Packet) : Nat := bits (payloadWord pk 0) 31 0
def mgCount (pk : Packet) : Nat := bits (payloadWord pk 0) 37 32 + 1
def mgIsWrite (pk : Packet) : Bool := pk.typ == 0x12

/-- Whether a request is malformed. -/
def mgBad (pk : Packet) : Bool :=
  decide (mgAddr pk % 8 ≠ 0 ∨ bits (payloadWord pk 0) 63 38 ≠ 0 ∨
    pk.len.toNat ≠ (if mgIsWrite pk then 8 + 8 * mgCount pk else 8) ∨ pk.payload.length ≠ pk.len.toNat)

/-- The addresses that a request covers. -/
def mgAddrs (pk : Packet) : List Nat := (List.range (mgCount pk)).map (fun k => mgAddr pk + 8 * k)

/-- The status of a request: denied, then malformed, then not ready (log entry 37). -/
def mgStatus (s : State) (part : Part) (pk : Packet) (directed : Bool) : Nat :=
  if ¬ directed ∧ epOf pk.src < 8 then 1
  else if mgBad pk then 3
  else if mgIsWrite pk ∧ ¬ (mgAddrs pk).all (writeReady s part) then 2
  else 0

/-- Answer a DIRECTED request along its return route with an enclosed packet, and enter the answer in the table of R323. -/
def directedAnswer (s : State) (pk inner : Packet) : State :=
  let r := directedReply s pk inner
  remember (sendReply s r) 0 pk.src pk.tag r

/-- Answer what a DIRECTED packet encloses. -/
def directedSay (s : State) (pk : Packet) (typ aux ep : Nat) (payload : List Byte) : State :=
  let q := parsePacket (pk.payload.drop 16)
  directedAnswer s pk (mkPacket typ q.src (ownAddr s ep) q.cls.toNat q.tag (BitVec.ofNat 16 aux) payload)

/-- The request itself: of a DIRECTED packet, the one that it encloses. -/
def mgBody (j : MgJob) : Packet := if j.directed then parsePacket (j.pk.payload.drop 16) else j.pk

/-- Answer a request that has been served, or that cannot be: the values read, or zeros. -/
def mgAnswer (s : State) (j : MgJob) : State :=
  let pay := if mgIsWrite (mgBody j) then [] else
    wordBytes (if j.status = 0 then j.vals else List.replicate (mgCount (mgBody j)) 0)
  if j.directed then directedSay s j.pk 0x13 j.status (partEp j.part) pay
  else respond s j.pk (ownAddr s (partEp j.part)) 0x13 (BitVec.ofNat 16 j.status) pay

/-- A request as it starts: its accesses in ascending address order (R450), none where its status keeps it from being applied. -/
def mgJob (s : State) (part : Part) (pk : Packet) (directed : Bool) : MgJob :=
  let j : MgJob := ⟨part, pk, directed, [], [], 0⟩
  let q := mgBody j
  let st := mgStatus s part q directed
  { j with status := st, todo := if st ≠ 0 then [] else (List.range (mgCount q)).map (fun k => (mgAddr q + 8 * k, payloadWord q (k + 1))) }

/-- Put a request in the place of the first of its part that is being served. -/
def mgReplace (j : MgJob) : List MgJob → List MgJob
  | [] => []
  | x :: t => if x.part = j.part then j :: t else x :: mgReplace j t

/-- Take out the first request of a part that is being served. -/
def mgDrop (part : Part) : List MgJob → List MgJob
  | [] => []
  | x :: t => if x.part = part then t else x :: mgDrop part t

/-- Whether an access writes the key to ENGINE_RESET: none that follows it is made, and the answer is lost with the queues (R401, R450). -/
def mgResets (j : MgJob) (a : Nat) (v : Word) : Bool :=
  decide (j.part = .span ∧ a = 0x20 ∧ bits v 15 0 = 0xF1A0) && mgIsWrite (mgBody j)

/-- One cycle of a part's management (R450): the first request makes its next access, and is answered after its last. -/
def mgStep (s : State) (part : Part) : State :=
  match s.eng.mgmt.find? (fun j => j.part == part) with
  | none => s
  | some j =>
    let dropped := { s with eng := { s.eng with mgmt := mgDrop part s.eng.mgmt } }
    match j.todo with
    | [] => mgAnswer dropped j
    | (a, v) :: t =>
      let k : MgJob := { j with todo := t, vals := if mgIsWrite (mgBody j) then j.vals else j.vals ++ [readReg s part a] }
      let after := fun (s : State) => if mgIsWrite (mgBody j) then writeReg s part a v else s
      if mgResets j a v then after dropped
      else if t = [] then mgAnswer (after dropped) k
      else after { s with eng := { s.eng with mgmt := mgReplace k s.eng.mgmt } }

/-- Take up a request: where none is before it on its part, its first access is made in the cycle in which it arrives (log entry 103). -/
def mgServe (s : State) (part : Part) (pk : Packet) (directed : Bool) : State :=
  let s1 := { s with eng := { s.eng with mgmt := s.eng.mgmt ++ [mgJob s part pk directed] } }
  if s.eng.mgmt.any (fun j => j.part == part) then s1 else mgStep s1 part

/-- Serve a plain request. A failed engine set answers only reads on its host port (R403). -/
def mgPlain (s : State) (part : Part) (pk : Packet) : State :=
  if s.eng.startFail ∧ (mgIsWrite pk ∨ ¬ isOwn s pk.src) then s else mgServe s part pk false

/-- A plain request reaches its part: discarded while the engine set is unaddressed (R315), held before the fuse load (R451). A part in reset
takes none (R425). -/
def mgArrive (s : State) (part : Part) (pk : Packet) : State :=
  if ¬ partRuns s part then s
  else if ¬ addressed s then fabDiscard (takeRx s pk)
  else if ¬ isOwn s pk.dest ∨ epOf pk.dest ≠ partEp part then s
  else
    let s := takeRx s pk
    match answerAgain s pk with
    | some s' => s'
    | none => if s.eng.fuseDone then mgPlain s part pk
        else { s with eng := { s.eng with held := s.eng.held ++ [(part, pk)] } }

/-- MGMT_READ. -/
def execMgmtRead (part : Part) (pk : Packet) (s : State) : Result := .next (if pk.typ = 0x11 then mgArrive s part pk else s)
/-- MGMT_WRITE. -/
def execMgmtWrite (part : Part) (pk : Packet) (s : State) : Result := .next (if pk.typ = 0x12 then mgArrive s part pk else s)

/-! ## Directed packets (R335, R315) -/

/-- The part that an enclosed request names by its endpoint. -/
def directedPart (pk : Packet) : Option Part :=
  match epOf pk.dest with
  | 0 => some .abut
  | 1 => some .span
  | 2 => some .pier
  | _ => none

/-- The stored answer of a DIRECTED request that was sent again (R323). -/
def directedHit (s : State) (pk : Packet) : Option Packet := dedupHit s { pk with dest := ownAddr s 0 }

/-- Execute the request a DIRECTED packet encloses: at the Abutment, or over the span link, which must be UP, at a part that is out of reset
(R315, R425, R451). -/
def directedServe (s : State) (pk : Packet) : State :=
  let q := parsePacket (pk.payload.drop 16)
  if q.typ ≠ 0x11 ∧ q.typ ≠ 0x12 then s
  else match directedPart q with
    | none => directedSay s pk 0x10 5 0 (headerBytes q)
    | some part =>
      if part ≠ .abut ∧ (¬ portUp s 0 ∨ ¬ partRuns s part) then directedSay s pk 0x10 2 0 (headerBytes q)
      else mgServe s part pk true

/-- DIRECTED: one hop is consumed and the arrival port recorded; with no hop left the enclosed request is executed, or held before the fuse
load. A failed engine set takes them by its host port alone (R403); an Abutment in reset or a port under a loop-back takes none (R419, R425). -/
def execDirected (p : Fin 16) (pk : Packet) (s : State) : Result :=
  .next (if ¬ partRuns s .abut ∨ portLooped s p.val then s
    else if pk.typ ≠ 0x15 ∨ ¬ (p = 1 ∨ portUp s p.val) ∨ (s.eng.startFail ∧ p ≠ 1) then s
    else if badHeader pk then fabDiscard (takeRx s pk)
    else
      let s := takeRx s pk
      let pk : Packet := { pk with payload := directedBytes (payloadWord pk 0) (pushHop (payloadWord pk 1) p.val) (pk.payload.drop 16) }
      if bits (payloadWord pk 0) 51 48 ≠ 0 then sendHop s p.val pk
      else match directedHit s pk with
        | some r => sendReply s r
        | none => if s.eng.fuseDone then directedServe s pk
          else { s with eng := { s.eng with held := s.eng.held ++ [(.abut, pk)] } })

/-! ## The end of phase FUSE (R402, R451) -/

/-- Answer a request that was held. -/
def serveHeld (s : State) (h : Part × Packet) : State := if h.2.typ = 0x15 then directedServe s h.2 else mgPlain s h.1 h.2

/-- FUSE_LOAD_DONE: the fuse shadow is loaded, BIST starts, and held requests are answered in arrival order. A failed start-up holds its
phase (R403). -/
def execFuseLoadDone (s : State) : Result :=
  .next (if s.eng.phase ≠ 2 ∨ s.eng.startFail then s
    else
      let s := fuseLoad s
      s.eng.held.foldl serveHeld { s with eng := { s.eng with held := [] } })

/-! ## The tick -/

/-- A tick of ACLK: the cycle, and one access of each part's management (log entries 2, 66, 103). -/
def tick (s : State) : State := [Part.span, .pier, .abut].foldl mgStep (struckCycle s)

end Sys2Proof.Machine
end

