-- ==== Sys2Proof/Machine/Scalar.lean ====
section
/-! DEFINITION. The scalar instructions: immediate, memory, branch and jump, ALU and system groups (R194 to R197). -/

namespace Sys2Proof.Machine

/-- 1 or 0. -/
def flag64 (b : Bool) : Word := if b then 1 else 0

/-! ## Immediate group (R194) -/

def execAddk (t : ThreadId) (rd ra : BitVec 5) (imm : BitVec 16) (s : State) : Result :=
  .next (aluI s t 0x01 true rd ra imm (fun a => a + imm.signExtend 64))
def execAndk (t : ThreadId) (rd ra : BitVec 5) (imm : BitVec 16) (s : State) : Result :=
  .next (aluI s t 0x02 true rd ra imm (fun a => a &&& imm.setWidth 64))
def execOrk (t : ThreadId) (rd ra : BitVec 5) (imm : BitVec 16) (s : State) : Result :=
  .next (aluI s t 0x03 true rd ra imm (fun a => a ||| imm.setWidth 64))
def execXork (t : ThreadId) (rd ra : BitVec 5) (imm : BitVec 16) (s : State) : Result :=
  .next (aluI s t 0x04 true rd ra imm (fun a => a ^^^ imm.setWidth 64))
def execCmpkLt (t : ThreadId) (rd ra : BitVec 5) (imm : BitVec 16) (s : State) : Result :=
  .next (aluI s t 0x05 true rd ra imm (fun a => flag64 (a.slt (imm.signExtend 64))))
def execCmpkLtu (t : ThreadId) (rd ra : BitVec 5) (imm : BitVec 16) (s : State) : Result :=
  .next (aluI s t 0x06 true rd ra imm (fun a => flag64 (a.ult (imm.signExtend 64))))
/-- IMM16[15:6] is reserved in the immediate shifts. -/
def shiftOk (imm : BitVec 16) : Bool := decide (bits imm 15 6 = 0)
def execShlk (t : ThreadId) (rd ra : BitVec 5) (imm : BitVec 16) (s : State) : Result :=
  .next (aluI s t 0x07 (shiftOk imm) rd ra imm (fun a => a <<< bits imm 5 0))
def execShrk (t : ThreadId) (rd ra : BitVec 5) (imm : BitVec 16) (s : State) : Result :=
  .next (aluI s t 0x08 (shiftOk imm) rd ra imm (fun a => a >>> bits imm 5 0))
def execSark (t : ThreadId) (rd ra : BitVec 5) (imm : BitVec 16) (s : State) : Result :=
  .next (aluI s t 0x09 (shiftOk imm) rd ra imm (fun a => a.sshiftRight (bits imm 5 0)))
/-- `KLANE`: the RA field names a lane; RD keeps its other lanes. -/
def execKlane (t : ThreadId) (rd ra : BitVec 5) (imm : BitVec 16) (s : State) : Result :=
  .next (alu s t (wI 0x0A rd ra imm) (bits ra 4 2 = 0) [rd] rd (fun x => setFld (rdReg x rd) (16 * bits ra 1 0) imm))
/-- `ADRW`: RA is reserved. -/
def execAdrw (t : ThreadId) (rd ra : BitVec 5) (imm : BitVec 16) (s : State) : Result :=
  .next (alu s t (wI 0x0B rd ra imm) (ra = 0) [] rd (fun x => x.pc + imm.signExtend 64 * 4))

/-! ## Memory group (R190, R194) -/

def execLdS8 (t : ThreadId) (rd ra : BitVec 5) (imm : BitVec 16) (s : State) : Result :=
  .next (doLoad s t 0x10 rd ra imm 1 true)
def execLdS16 (t : ThreadId) (rd ra : BitVec 5) (imm : BitVec 16) (s : State) : Result :=
  .next (doLoad s t 0x11 rd ra imm 2 true)
def execLdS32 (t : ThreadId) (rd ra : BitVec 5) (imm : BitVec 16) (s : State) : Result :=
  .next (doLoad s t 0x12 rd ra imm 4 true)
def execLdD (t : ThreadId) (rd ra : BitVec 5) (imm : BitVec 16) (s : State) : Result :=
  .next (doLoad s t 0x13 rd ra imm 8 false)
def execLdU8 (t : ThreadId) (rd ra : BitVec 5) (imm : BitVec 16) (s : State) : Result :=
  .next (doLoad s t 0x14 rd ra imm 1 false)
def execLdU16 (t : ThreadId) (rd ra : BitVec 5) (imm : BitVec 16) (s : State) : Result :=
  .next (doLoad s t 0x15 rd ra imm 2 false)
def execLdU32 (t : ThreadId) (rd ra : BitVec 5) (imm : BitVec 16) (s : State) : Result :=
  .next (doLoad s t 0x16 rd ra imm 4 false)
def execSt8 (t : ThreadId) (rs ra : BitVec 5) (imm : BitVec 16) (s : State) : Result :=
  .next (doStore s t 0x18 rs ra imm 1)
def execSt16 (t : ThreadId) (rs ra : BitVec 5) (imm : BitVec 16) (s : State) : Result :=
  .next (doStore s t 0x19 rs ra imm 2)
def execSt32 (t : ThreadId) (rs ra : BitVec 5) (imm : BitVec 16) (s : State) : Result :=
  .next (doStore s t 0x1A rs ra imm 4)
def execStD (t : ThreadId) (rs ra : BitVec 5) (imm : BitVec 16) (s : State) : Result :=
  .next (doStore s t 0x1B rs ra imm 8)

/-! ## Branches, jumps, calls and returns (R187, R194) -/

def execBrEq (t : ThreadId) (ra rb : BitVec 5) (off : BitVec 16) (s : State) : Result :=
  .next (branch s t 0x20 ra rb off (fun a b => decide (a = b)))
def execBrNe (t : ThreadId) (ra rb : BitVec 5) (off : BitVec 16) (s : State) : Result :=
  .next (branch s t 0x21 ra rb off (fun a b => decide (a ≠ b)))
def execBrLt (t : ThreadId) (ra rb : BitVec 5) (off : BitVec 16) (s : State) : Result :=
  .next (branch s t 0x22 ra rb off (fun a b => a.slt b))
def execBrGe (t : ThreadId) (ra rb : BitVec 5) (off : BitVec 16) (s : State) : Result :=
  .next (branch s t 0x23 ra rb off (fun a b => !a.slt b))
def execBrLtu (t : ThreadId) (ra rb : BitVec 5) (off : BitVec 16) (s : State) : Result :=
  .next (branch s t 0x24 ra rb off (fun a b => a.ult b))
def execBrGeu (t : ThreadId) (ra rb : BitVec 5) (off : BitVec 16) (s : State) : Result :=
  .next (branch s t 0x25 ra rb off (fun a b => !a.ult b))
def execJmp (t : ThreadId) (off : BitVec 26) (s : State) : Result :=
  .next (issueReg s t (wJ 0x26 off) true [] (fun s x => retire s t x (x.pc + off.signExtend 64 * 4)))
/-- `JMPR`: an unaligned target is an alignment fault with the target and 4 (R204); the return stack is not touched. -/
def execJmpr (t : ThreadId) (rd ra : BitVec 5) (imm : BitVec 16) (s : State) : Result :=
  let w := wI 0x27 rd ra imm
  .next (issueReg s t w true [ra] (fun s x =>
    let target := rdReg x ra + imm.signExtend 64
    if target.toNat % 4 ≠ 0 then preciseFault s t 0x04 target 4 w
    else retire (train s t x true target w) t (wrReg x rd (x.pc + 4)) target))
def execCall (t : ThreadId) (off : BitVec 26) (s : State) : Result :=
  .next (issueReg s t (wJ 0x28 off) true [] (fun s x =>
    retire s t (pushRas (wrReg x 31 (x.pc + 4)) (x.pc + 4)) (x.pc + off.signExtend 64 * 4)))
/-- `CALLR`: RD is reserved. -/
def execCallr (t : ThreadId) (rd ra : BitVec 5) (imm : BitVec 16) (s : State) : Result :=
  let w := wI 0x29 rd ra imm
  .next (issueReg s t w (rd = 0) [ra] (fun s x =>
    let target := rdReg x ra + imm.signExtend 64
    if target.toNat % 4 ≠ 0 then preciseFault s t 0x04 target 4 w
    else retire (train s t x true target w) t (pushRas (wrReg x 31 (x.pc + 4)) (x.pc + 4)) target))
/-- `RET`: RD, RA and IMM16 are reserved; the popped entry only predicts (R187). -/
def execRet (t : ThreadId) (rd ra : BitVec 5) (imm : BitVec 16) (s : State) : Result :=
  let w := wI 0x2A rd ra imm
  .next (issueReg s t w (rd = 0 ∧ ra = 0 ∧ imm = 0) [31] (fun s x =>
    let target := rdReg x 31
    if target.toNat % 4 ≠ 0 then preciseFault s t 0x04 target 4 w
    else
      let s := match x.ras with
        | p :: _ => if p = target then s else event s 0x061 1 (srcThread x t w)
        | [] => s
      retire s t { x with ras := x.ras.drop 1 } target))

/-! ## ALU group (R195) -/

def execAdd (t : ThreadId) (rd ra rb rsv : BitVec 5) (s : State) : Result :=
  .next (aluRR s t 0x00 rd ra rb rsv (fun a b => a + b))
def execSub (t : ThreadId) (rd ra rb rsv : BitVec 5) (s : State) : Result :=
  .next (aluRR s t 0x01 rd ra rb rsv (fun a b => a - b))
def execAnd (t : ThreadId) (rd ra rb rsv : BitVec 5) (s : State) : Result :=
  .next (aluRR s t 0x02 rd ra rb rsv (fun a b => a &&& b))
def execOr (t : ThreadId) (rd ra rb rsv : BitVec 5) (s : State) : Result :=
  .next (aluRR s t 0x03 rd ra rb rsv (fun a b => a ||| b))
def execXor (t : ThreadId) (rd ra rb rsv : BitVec 5) (s : State) : Result :=
  .next (aluRR s t 0x04 rd ra rb rsv (fun a b => a ^^^ b))
def execShl (t : ThreadId) (rd ra rb rsv : BitVec 5) (s : State) : Result :=
  .next (aluRR s t 0x05 rd ra rb rsv (fun a b => a <<< bits b 5 0))
def execShr (t : ThreadId) (rd ra rb rsv : BitVec 5) (s : State) : Result :=
  .next (aluRR s t 0x06 rd ra rb rsv (fun a b => a >>> bits b 5 0))
def execSar (t : ThreadId) (rd ra rb rsv : BitVec 5) (s : State) : Result :=
  .next (aluRR s t 0x07 rd ra rb rsv (fun a b => a.sshiftRight (bits b 5 0)))
def execCmpLt (t : ThreadId) (rd ra rb rsv : BitVec 5) (s : State) : Result :=
  .next (aluRR s t 0x08 rd ra rb rsv (fun a b => flag64 (a.slt b)))
def execCmpLtu (t : ThreadId) (rd ra rb rsv : BitVec 5) (s : State) : Result :=
  .next (aluRR s t 0x09 rd ra rb rsv (fun a b => flag64 (a.ult b)))
def execMulLo (t : ThreadId) (rd ra rb rsv : BitVec 5) (s : State) : Result :=
  .next (aluRR s t 0x0A rd ra rb rsv (fun a b => a * b))
def execMulHs (t : ThreadId) (rd ra rb rsv : BitVec 5) (s : State) : Result :=
  .next (aluRR s t 0x0B rd ra rb rsv (fun a b => BitVec.ofInt 64 (a.toInt * b.toInt / 2 ^ 64)))
def execMulHu (t : ThreadId) (rd ra rb rsv : BitVec 5) (s : State) : Result :=
  .next (aluRR s t 0x0C rd ra rb rsv (fun a b => BitVec.ofNat 64 (a.toNat * b.toNat / 2 ^ 64)))
def execMin (t : ThreadId) (rd ra rb rsv : BitVec 5) (s : State) : Result :=
  .next (aluRR s t 0x0D rd ra rb rsv (fun a b => if a.slt b then a else b))
def execMax (t : ThreadId) (rd ra rb rsv : BitVec 5) (s : State) : Result :=
  .next (aluRR s t 0x0E rd ra rb rsv (fun a b => if a.slt b then b else a))
def execMinu (t : ThreadId) (rd ra rb rsv : BitVec 5) (s : State) : Result :=
  .next (aluRR s t 0x0F rd ra rb rsv (fun a b => if a.ult b then a else b))
def execMaxu (t : ThreadId) (rd ra rb rsv : BitVec 5) (s : State) : Result :=
  .next (aluRR s t 0x10 rd ra rb rsv (fun a b => if a.ult b then b else a))

/-- The number of 1 bits. -/
def popCount (a : Word) : Nat := (List.range 64).foldl (fun n k => if a.getLsbD k then n + 1 else n) 0
/-- Leading zeros, 64 for 0. -/
def leadZeros (a : Word) : Nat := if a = 0 then 64 else 63 - Nat.log2 a.toNat
/-- Trailing zeros, 64 for 0. -/
def trailZeros (a : Word) : Nat := ((List.range 64).find? (fun k => a.getLsbD k)).getD 64

def execPopc (t : ThreadId) (rd ra rb rsv : BitVec 5) (s : State) : Result :=
  .next (aluR s t 0x11 rd ra rb rsv (fun a => BitVec.ofNat 64 (popCount a)))
def execClz (t : ThreadId) (rd ra rb rsv : BitVec 5) (s : State) : Result :=
  .next (aluR s t 0x12 rd ra rb rsv (fun a => BitVec.ofNat 64 (leadZeros a)))
def execCtz (t : ThreadId) (rd ra rb rsv : BitVec 5) (s : State) : Result :=
  .next (aluR s t 0x13 rd ra rb rsv (fun a => BitVec.ofNat 64 (trailZeros a)))

/-! ## System group (R191, R196, R197) -/

/-- `FENCE`: the thread continues at once where nothing is outstanding, else it waits in FENCE at the instruction. -/
def execFence (t : ThreadId) (rd ra : BitVec 5) (imm8 : BitVec 8) (s : State) : Result :=
  .next (issueReg s t (wS 0x00 rd ra imm8) (rd = 0 ∧ ra = 0 ∧ imm8 = 0) [] (fun s x =>
    if x.loads.isEmpty ∧ x.stores.isEmpty then retire s t x (x.pc + 4) else setThr s t (waiting x .fence)))

/-- `YIELD`: the thread waits in YIELD until YIELD_END. -/
def execYield (t : ThreadId) (rd ra : BitVec 5) (imm8 : BitVec 8) (s : State) : Result :=
  .next (issueReg s t (wS 0x01 rd ra imm8) (rd = 0 ∧ ra = 0 ∧ imm8 = 0) [] (fun s x => setThr s t (waiting x .yield)))

/-- `EXIT`: FREE once every store is acknowledged; loads outstanding are discarded. Issued span instructions that have not
crossed stay offered (R198). -/
def execExit (t : ThreadId) (rd ra : BitVec 5) (imm8 : BitVec 8) (s : State) : Result :=
  .next (
    let x := getThr s t
    let k := getCore s t.core.val
    let bare := setCore s t.core.val { k with offers := k.offers.filter (fun o => o.th != t) }
    if ¬ canIssue bare t ∨ ¬ fetched s t 0 (wS 0x02 rd ra imm8) then s
    else if ¬ (rd = 0 ∧ ra = 0 ∧ imm8 = 0) then preciseFault s t 0x01 0 0 (wS 0x02 rd ra imm8)
    else
      let s := event s 0x060 1 (srcThread x t (wS 0x02 rd ra imm8))
      if x.stores.isEmpty then setThr s t (freed x)
      else setThr s t (waiting { x with loads := [] } .fence (after := .leave)))

/-- `TRAP`: cause TRAP with IMM8[6:0] and `g1`; IMM8[7] halts the thread at the instruction. -/
def execTrap (t : ThreadId) (rd ra : BitVec 5) (imm8 : BitVec 8) (s : State) : Result :=
  let w := wS 0x03 rd ra imm8
  .next (issueReg s t w (rd = 0 ∧ ra = 0) [1] (fun s x =>
    let d0 : Word := (imm8.extractLsb' 0 7).setWidth 64
    if imm8.getLsbD 7 then
      leaseReport (setThr s t (halted x 0x09 false .trap)) x.lease 0x09 (some t) false true x.pc w d0 (rdReg x 1)
    else retire (leaseReport s x.lease 0x09 (some t) false false x.pc w d0 (rdReg x 1)) t x (x.pc + 4)))

/-- A status register (R197); none for an index that is not listed. -/
def statusReg (s : State) (t : ThreadId) (l : Nat) (idx : BitVec 8) : Option Word :=
  match idx.toNat with
  | 0x00 => some (BitVec.ofNat 64 (thrKey t))
  | 0x01 => some (BitVec.ofNat 64 ((if legacy s l then 64 else 0) + 16 * leaseClass s l + l))
  | 0x02 => some (BitVec.ofNat 64 (2 * (s.now - s.eng.resetAt)))
  | 0x03 => some s.beat.count
  | 0x08 => some (arrayGeom s)
  | n => if 0x10 ≤ n ∧ n < 0x20 then some (Tab.get 0 s.perf.val (n - 0x10)) else none

/-- Whether a lease may read a performance counter (R394). -/
def perfReadable (s : State) (l n : Nat) : Bool :=
  let ctl := Tab.get 0 s.perf.ctl n
  perfUser s l && ctl.getLsbD 24 && decide (bits ctl 23 20 = l)

/-- `SRR`: an unlisted index is illegal; an unpermitted counter is a privilege fault (R394). -/
def execSrr (t : ThreadId) (rd ra : BitVec 5) (imm8 : BitVec 8) (s : State) : Result :=
  let w := wS 0x04 rd ra imm8
  let l := (getThr s t).lease
  .next (issueReg s t w (ra = 0 ∧ (statusReg s t l imm8).isSome) [] (fun s x =>
    let n := imm8.toNat - 0x10
    if 0x10 ≤ imm8.toNat ∧ ¬ perfReadable s l n then preciseFault s t 0x02 (BitVec.ofNat 64 (0x10 + n)) 5 w
    else retire s t (wrReg x rd ((statusReg s t l imm8).getD 0)) (x.pc + 4)))

/-- `BEATW`: the thread waits in BEAT until the beat count reaches RA. -/
def execBeatw (t : ThreadId) (rd ra : BitVec 5) (imm8 : BitVec 8) (s : State) : Result :=
  .next (issueReg s t (wS 0x05 rd ra imm8) (rd = 0 ∧ imm8 = 0) [ra] (fun s x =>
    if (rdReg x ra).toNat ≤ s.beat.count.toNat then retire s t x (x.pc + 4)
    else setThr s t (waiting x .beat (rdReg x ra))))

end Sys2Proof.Machine
end

