-- ==== Sys2Proof/Machine/Dispatch.lean ====
section
/-! DEFINITION. One arm per command: the call of its meaning. -/

namespace Sys2Proof.Machine

def exec (i : Instr) (s : State) : Host.Outcome State Fault Refusal :=
  match i with
  | .addk t rd ra imm => Sys2Proof.Machine.execAddk t rd ra imm s
  | .andk t rd ra imm => Sys2Proof.Machine.execAndk t rd ra imm s
  | .ork t rd ra imm => Sys2Proof.Machine.execOrk t rd ra imm s
  | .xork t rd ra imm => Sys2Proof.Machine.execXork t rd ra imm s
  | .cmpkLt t rd ra imm => Sys2Proof.Machine.execCmpkLt t rd ra imm s
  | .cmpkLtu t rd ra imm => Sys2Proof.Machine.execCmpkLtu t rd ra imm s
  | .shlk t rd ra imm => Sys2Proof.Machine.execShlk t rd ra imm s
  | .shrk t rd ra imm => Sys2Proof.Machine.execShrk t rd ra imm s
  | .sark t rd ra imm => Sys2Proof.Machine.execSark t rd ra imm s
  | .klane t rd ra imm => Sys2Proof.Machine.execKlane t rd ra imm s
  | .adrw t rd ra imm => Sys2Proof.Machine.execAdrw t rd ra imm s
  | .ldS8 t rd ra imm => Sys2Proof.Machine.execLdS8 t rd ra imm s
  | .ldS16 t rd ra imm => Sys2Proof.Machine.execLdS16 t rd ra imm s
  | .ldS32 t rd ra imm => Sys2Proof.Machine.execLdS32 t rd ra imm s
  | .ldD t rd ra imm => Sys2Proof.Machine.execLdD t rd ra imm s
  | .ldU8 t rd ra imm => Sys2Proof.Machine.execLdU8 t rd ra imm s
  | .ldU16 t rd ra imm => Sys2Proof.Machine.execLdU16 t rd ra imm s
  | .ldU32 t rd ra imm => Sys2Proof.Machine.execLdU32 t rd ra imm s
  | .st8 t rs ra imm => Sys2Proof.Machine.execSt8 t rs ra imm s
  | .st16 t rs ra imm => Sys2Proof.Machine.execSt16 t rs ra imm s
  | .st32 t rs ra imm => Sys2Proof.Machine.execSt32 t rs ra imm s
  | .stD t rs ra imm => Sys2Proof.Machine.execStD t rs ra imm s
  | .brEq t ra rb off => Sys2Proof.Machine.execBrEq t ra rb off s
  | .brNe t ra rb off => Sys2Proof.Machine.execBrNe t ra rb off s
  | .brLt t ra rb off => Sys2Proof.Machine.execBrLt t ra rb off s
  | .brGe t ra rb off => Sys2Proof.Machine.execBrGe t ra rb off s
  | .brLtu t ra rb off => Sys2Proof.Machine.execBrLtu t ra rb off s
  | .brGeu t ra rb off => Sys2Proof.Machine.execBrGeu t ra rb off s
  | .jmp t off => Sys2Proof.Machine.execJmp t off s
  | .jmpr t rd ra imm => Sys2Proof.Machine.execJmpr t rd ra imm s
  | .call t off => Sys2Proof.Machine.execCall t off s
  | .callr t rd ra imm => Sys2Proof.Machine.execCallr t rd ra imm s
  | .ret t rd ra imm => Sys2Proof.Machine.execRet t rd ra imm s
  | .add t rd ra rb rsv => Sys2Proof.Machine.execAdd t rd ra rb rsv s
  | .sub t rd ra rb rsv => Sys2Proof.Machine.execSub t rd ra rb rsv s
  | .and t rd ra rb rsv => Sys2Proof.Machine.execAnd t rd ra rb rsv s
  | .or t rd ra rb rsv => Sys2Proof.Machine.execOr t rd ra rb rsv s
  | .xor t rd ra rb rsv => Sys2Proof.Machine.execXor t rd ra rb rsv s
  | .shl t rd ra rb rsv => Sys2Proof.Machine.execShl t rd ra rb rsv s
  | .shr t rd ra rb rsv => Sys2Proof.Machine.execShr t rd ra rb rsv s
  | .sar t rd ra rb rsv => Sys2Proof.Machine.execSar t rd ra rb rsv s
  | .cmpLt t rd ra rb rsv => Sys2Proof.Machine.execCmpLt t rd ra rb rsv s
  | .cmpLtu t rd ra rb rsv => Sys2Proof.Machine.execCmpLtu t rd ra rb rsv s
  | .mulLo t rd ra rb rsv => Sys2Proof.Machine.execMulLo t rd ra rb rsv s
  | .mulHs t rd ra rb rsv => Sys2Proof.Machine.execMulHs t rd ra rb rsv s
  | .mulHu t rd ra rb rsv => Sys2Proof.Machine.execMulHu t rd ra rb rsv s
  | .min t rd ra rb rsv => Sys2Proof.Machine.execMin t rd ra rb rsv s
  | .max t rd ra rb rsv => Sys2Proof.Machine.execMax t rd ra rb rsv s
  | .minu t rd ra rb rsv => Sys2Proof.Machine.execMinu t rd ra rb rsv s
  | .maxu t rd ra rb rsv => Sys2Proof.Machine.execMaxu t rd ra rb rsv s
  | .popc t rd ra rb rsv => Sys2Proof.Machine.execPopc t rd ra rb rsv s
  | .clz t rd ra rb rsv => Sys2Proof.Machine.execClz t rd ra rb rsv s
  | .ctz t rd ra rb rsv => Sys2Proof.Machine.execCtz t rd ra rb rsv s
  | .fence t rd ra imm8 => Sys2Proof.Machine.execFence t rd ra imm8 s
  | .yield t rd ra imm8 => Sys2Proof.Machine.execYield t rd ra imm8 s
  | .exit t rd ra imm8 => Sys2Proof.Machine.execExit t rd ra imm8 s
  | .trap t rd ra imm8 => Sys2Proof.Machine.execTrap t rd ra imm8 s
  | .srr t rd ra imm8 => Sys2Proof.Machine.execSrr t rd ra imm8 s
  | .beatw t rd ra imm8 => Sys2Proof.Machine.execBeatw t rd ra imm8 s
  | .passFwd t len f => Sys2Proof.Machine.execPassFwd t len f s
  | .passDx t len f => Sys2Proof.Machine.execPassDx t len f s
  | .passDw t len f => Sys2Proof.Machine.execPassDw t len f s
  | .passPair t len f w1 => Sys2Proof.Machine.execPassPair t len f w1 s
  | .slotOpen t len f w1 => Sys2Proof.Machine.execSlotOpen t len f w1 s
  | .slotClose t len f => Sys2Proof.Machine.execSlotClose t len f s
  | .slotSpill t len f w1 => Sys2Proof.Machine.execSlotSpill t len f w1 s
  | .slotFill t len f w1 => Sys2Proof.Machine.execSlotFill t len f w1 s
  | .slotStat t len f => Sys2Proof.Machine.execSlotStat t len f s
  | .drain t len f => Sys2Proof.Machine.execDrain t len f s
  | .streamArm t len f => Sys2Proof.Machine.execStreamArm t len f s
  | .streamRearm t len f => Sys2Proof.Machine.execStreamRearm t len f s
  | .streamRearmRows t len f => Sys2Proof.Machine.execStreamRearmRows t len f s
  | .streamResume t len f => Sys2Proof.Machine.execStreamResume t len f s
  | .streamQuiesce t len f => Sys2Proof.Machine.execStreamQuiesce t len f s
  | .rowsetCommit t len f w1 => Sys2Proof.Machine.execRowsetCommit t len f w1 s
  | .rotLoadMatrix t len f w1 => Sys2Proof.Machine.execRotLoadMatrix t len f w1 s
  | .rotLoadSmooth t len f w1 => Sys2Proof.Machine.execRotLoadSmooth t len f w1 s
  | .scaleUpdate t len f w1 => Sys2Proof.Machine.execScaleUpdate t len f w1 s
  | .vecAdd t len f w1 => Sys2Proof.Machine.execVecAdd t len f w1 s
  | .vecMul t len f w1 => Sys2Proof.Machine.execVecMul t len f w1 s
  | .vecFma t len f w1 => Sys2Proof.Machine.execVecFma t len f w1 s
  | .vecAxpb t len f w1 => Sys2Proof.Machine.execVecAxpb t len f w1 s
  | .vecRsum t len f w1 => Sys2Proof.Machine.execVecRsum t len f w1 s
  | .vecCsum t len f w1 => Sys2Proof.Machine.execVecCsum t len f w1 s
  | .vecRssq t len f w1 => Sys2Proof.Machine.execVecRssq t len f w1 s
  | .vecRsqrt t len f w1 => Sys2Proof.Machine.execVecRsqrt t len f w1 s
  | .vecArgmax t len f w1 => Sys2Proof.Machine.execVecArgmax t len f w1 s
  | .vecArgmin t len f w1 => Sys2Proof.Machine.execVecArgmin t len f w1 s
  | .chainSend t len f w1 w2 => Sys2Proof.Machine.execChainSend t len f w1 w2 s
  | .chainRecv t len f w1 w2 => Sys2Proof.Machine.execChainRecv t len f w1 w2 s
  | .mcSend t len f w1 => Sys2Proof.Machine.execMcSend t len f w1 s
  | .updIssue t len f w1 => Sys2Proof.Machine.execUpdIssue t len f w1 s
  | .cntSig t len f => Sys2Proof.Machine.execCntSig t len f s
  | .cntTake t len f => Sys2Proof.Machine.execCntTake t len f s
  | .cntWait t len f => Sys2Proof.Machine.execCntWait t len f s
  | .cntWtake t len f => Sys2Proof.Machine.execCntWtake t len f s
  | .cntRdp t len f => Sys2Proof.Machine.execCntRdp t len f s
  | .cntRdc t len f => Sys2Proof.Machine.execCntRdc t len f s
  | .cntCap t len f => Sys2Proof.Machine.execCntCap t len f s
  | .instructionCrossing => Sys2Proof.Machine.execInstructionCrossing s
  | .queueEntryFree t => Sys2Proof.Machine.execQueueEntryFree t s
  | .counterWaitEnd n => Sys2Proof.Machine.execCounterWaitEnd n s
  | .yieldEnd t => Sys2Proof.Machine.execYieldEnd t s
  | .loadReturn t => Sys2Proof.Machine.execLoadReturn t s
  | .storeAck t => Sys2Proof.Machine.execStoreAck t s
  | .icacheLineArrive t => Sys2Proof.Machine.execIcacheLineArrive t s
  | .taskPlacement => Sys2Proof.Machine.execTaskPlacement s
  | .descriptorArrive u => Sys2Proof.Machine.execDescriptorArrive u s
  | .passStart u => Sys2Proof.Machine.execPassStart u s
  | .elementPeriod dry back => Sys2Proof.Machine.execElementPeriod dry back s
  | .intervalEnd d errs => Sys2Proof.Machine.execIntervalEnd d errs s
  | .passResume l => Sys2Proof.Machine.execPassResume l s
  | .passComplete => Sys2Proof.Machine.execPassComplete s
  | .pairHalfComplete dw => Sys2Proof.Machine.execPairHalfComplete dw s
  | .arrayRampDown => Sys2Proof.Machine.execArrayRampDown s
  | .passAbandon => Sys2Proof.Machine.execPassAbandon s
  | .slotOpenStart u => Sys2Proof.Machine.execSlotOpenStart u s
  | .slotCloseStart u => Sys2Proof.Machine.execSlotCloseStart u s
  | .girderMoverStart x => Sys2Proof.Machine.execGirderMoverStart x s
  | .moverResume => Sys2Proof.Machine.execMoverResume s
  | .spillComplete => Sys2Proof.Machine.execSpillComplete s
  | .fillComplete => Sys2Proof.Machine.execFillComplete s
  | .scrubSegmentDone => Sys2Proof.Machine.execScrubSegmentDone s
  | .drainStart u => Sys2Proof.Machine.execDrainStart u s
  | .drainComplete => Sys2Proof.Machine.execDrainComplete s
  | .peekAddr v => Sys2Proof.Machine.execPeekAddr v s
  | .peekDone => Sys2Proof.Machine.execPeekDone s
  | .streamDescArrive u => Sys2Proof.Machine.execStreamDescArrive u s
  | .gateTake x => Sys2Proof.Machine.execGateTake x s
  | .burstIssue => Sys2Proof.Machine.execBurstIssue s
  | .burstComplete x n b => Sys2Proof.Machine.execBurstComplete x n b s
  | .transferSignal x => Sys2Proof.Machine.execTransferSignal x s
  | .rearmTake x => Sys2Proof.Machine.execRearmTake x s
  | .streamCtlResume x v => Sys2Proof.Machine.execStreamCtlResume x v s
  | .streamContextUe x => Sys2Proof.Machine.execStreamContextUe x s
  | .vecStart u => Sys2Proof.Machine.execVecStart u s
  | .vecComplete => Sys2Proof.Machine.execVecComplete s
  | .rotLoadStart u => Sys2Proof.Machine.execRotLoadStart u s
  | .rotLoadComplete => Sys2Proof.Machine.execRotLoadComplete s
  | .scaleUpdateStart u => Sys2Proof.Machine.execScaleUpdateStart u s
  | .scaleUpdateComplete => Sys2Proof.Machine.execScaleUpdateComplete s
  | .rowsetCommitStart u => Sys2Proof.Machine.execRowsetCommitStart u s
  | .rowsetCommitComplete u => Sys2Proof.Machine.execRowsetCommitComplete u s
  | .chainStart u => Sys2Proof.Machine.execChainStart u s
  | .chainChunkSend u => Sys2Proof.Machine.execChainChunkSend u s
  | .chainChunk p => Sys2Proof.Machine.execChainChunk p s
  | .chainCredit p => Sys2Proof.Machine.execChainCredit p s
  | .chainTimeout u => Sys2Proof.Machine.execChainTimeout u s
  | .update c => Sys2Proof.Machine.execUpdate c s
  | .stepEnd c => Sys2Proof.Machine.execStepEnd c s
  | .pierChunkStage p => Sys2Proof.Machine.execPierChunkStage p s
  | .updateBegin k => Sys2Proof.Machine.execUpdateBegin k s
  | .updateComplete k => Sys2Proof.Machine.execUpdateComplete k s
  | .stepEndComplete k => Sys2Proof.Machine.execStepEndComplete k s
  | .pierReadBurst b => Sys2Proof.Machine.execPierReadBurst b s
  | .pierWrite a data mask => Sys2Proof.Machine.execPierWrite a data mask s
  | .pierReadResponse lane tag err => Sys2Proof.Machine.execPierReadResponse lane tag err s
  | .pierWriteAck lane tag => Sys2Proof.Machine.execPierWriteAck lane tag s
  | .pierGroupReload v => Sys2Proof.Machine.execPierGroupReload v s
  | .groupReloadDone => Sys2Proof.Machine.execGroupReloadDone s
  | .repcacheFlush v => Sys2Proof.Machine.execRepcacheFlush v s
  | .repcacheFlushDone => Sys2Proof.Machine.execRepcacheFlushDone s
  | .pierPcmap v => Sys2Proof.Machine.execPierPcmap v s
  | .stackReady level => Sys2Proof.Machine.execStackReady level s
  | .stackFatal => Sys2Proof.Machine.execStackFatal s
  | .stackNoResponse => Sys2Proof.Machine.execStackNoResponse s
  | .flitReceive p m fl => Sys2Proof.Machine.execFlitReceive p m fl s
  | .moduleRetrainDone part m r => Sys2Proof.Machine.execModuleRetrainDone part m r s
  | .kaTxReadyFall part m => Sys2Proof.Machine.execKaTxReadyFall part m s
  | .flitReplayTimeout p => Sys2Proof.Machine.execFlitReplayTimeout p s
  | .portLinkDown p => Sys2Proof.Machine.execPortLinkDown p s
  | .signalDetectLoss lane => Sys2Proof.Machine.execSignalDetectLoss lane s
  | .trainingStart p => Sys2Proof.Machine.execTrainingStart p s
  | .trainingDone p ms => Sys2Proof.Machine.execTrainingDone p ms s
  | .trainingRetry p => Sys2Proof.Machine.execTrainingRetry p s
  | .ident p pk => Sys2Proof.Machine.execIdent p pk s
  | .identResend p => Sys2Proof.Machine.execIdentResend p s
  | .portRetrain p v => Sys2Proof.Machine.execPortRetrain p v s
  | .routerForward p pk => Sys2Proof.Machine.execRouterForward p pk s
  | .dedupExpiry => Sys2Proof.Machine.execDedupExpiry s
  | .write pk => Sys2Proof.Machine.execWrite pk s
  | .writeAck pk => Sys2Proof.Machine.execWriteAck pk s
  | .read pk => Sys2Proof.Machine.execRead pk s
  | .readResp pk => Sys2Proof.Machine.execReadResp pk s
  | .signal pk => Sys2Proof.Machine.execSignal pk s
  | .signalAck pk => Sys2Proof.Machine.execSignalAck pk s
  | .event pk => Sys2Proof.Machine.execEvent pk s
  | .eventAck pk => Sys2Proof.Machine.execEventAck pk s
  | .updResp pk => Sys2Proof.Machine.execUpdResp pk s
  | .mcData p pk => Sys2Proof.Machine.execMcData p pk s
  | .mcDataWritten l g mseq off => Sys2Proof.Machine.execMcDataWritten l g mseq off s
  | .mcAck p pk => Sys2Proof.Machine.execMcAck p pk s
  | .mcPrune g p => Sys2Proof.Machine.execMcPrune g p s
  | .missed p pk => Sys2Proof.Machine.execMissed p pk s
  | .unreachable pk => Sys2Proof.Machine.execUnreachable pk s
  | .mgmtRead part pk => Sys2Proof.Machine.execMgmtRead part pk s
  | .mgmtWrite part pk => Sys2Proof.Machine.execMgmtWrite part pk s
  | .mgmtResp pk => Sys2Proof.Machine.execMgmtResp pk s
  | .directed p pk => Sys2Proof.Machine.execDirected p pk s
  | .ethFrame p fr => Sys2Proof.Machine.execEthFrame p fr s
  | .cxlResponse tag completion poison => Sys2Proof.Machine.execCxlResponse tag completion poison s
  | .cxlTimeout tag => Sys2Proof.Machine.execCxlTimeout tag s
  | .ethLinkcfg v => Sys2Proof.Machine.execEthLinkcfg v s
  | .reportDequeue part => Sys2Proof.Machine.execReportDequeue part s
  | .engineEventDest v => Sys2Proof.Machine.execEngineEventDest v s
  | .load l => Sys2Proof.Machine.execLoad l s
  | .loadAfterScrub l => Sys2Proof.Machine.execLoadAfterScrub l s
  | .suspend l => Sys2Proof.Machine.execSuspend l s
  | .resume l => Sys2Proof.Machine.execResume l s
  | .unload l => Sys2Proof.Machine.execUnload l s
  | .unloadProceed l => Sys2Proof.Machine.execUnloadProceed l s
  | .release l => Sys2Proof.Machine.execRelease l s
  | .releaseTeardown l => Sys2Proof.Machine.execReleaseTeardown l s
  | .releaseComplete l => Sys2Proof.Machine.execReleaseComplete l s
  | .saveBufferWrite c => Sys2Proof.Machine.execSaveBufferWrite c s
  | .park l window => Sys2Proof.Machine.execPark l window s
  | .saveSequence l => Sys2Proof.Machine.execSaveSequence l s
  | .parkRestore l => Sys2Proof.Machine.execParkRestore l s
  | .leaseGeneration v => Sys2Proof.Machine.execLeaseGeneration v s
  | .leaseCommitTake => Sys2Proof.Machine.execLeaseCommitTake s
  | .mapGeneration v => Sys2Proof.Machine.execMapGeneration v s
  | .memmapCommitTake => Sys2Proof.Machine.execMemmapCommitTake s
  | .routerGeneration v => Sys2Proof.Machine.execRouterGeneration v s
  | .routerCommitTake => Sys2Proof.Machine.execRouterCommitTake s
  | .beatEdge => Sys2Proof.Machine.execBeatEdge s
  | .beatLost => Sys2Proof.Machine.execBeatLost s
  | .beatGenerated => Sys2Proof.Machine.execBeatGenerated s
  | .beatSideband part low => Sys2Proof.Machine.execBeatSideband part low s
  | .beatLoad v => Sys2Proof.Machine.execBeatLoad v s
  | .beatNominal v => Sys2Proof.Machine.execBeatNominal v s
  | .meterPeriod v => Sys2Proof.Machine.execMeterPeriod v s
  | .perfDumpPeriod v => Sys2Proof.Machine.execPerfDumpPeriod v s
  | .perfWrap n inc src => Sys2Proof.Machine.execPerfWrap n inc src s
  | .tempReading codes => Sys2Proof.Machine.execTempReading codes s
  | .droopTrip m => Sys2Proof.Machine.execDroopTrip m s
  | .droopHoldExpire => Sys2Proof.Machine.execDroopHoldExpire s
  | .rstNFall part => Sys2Proof.Machine.execRstNFall part s
  | .rstNRise part straps => Sys2Proof.Machine.execRstNRise part straps s
  | .engineReset v => Sys2Proof.Machine.execEngineReset v s
  | .resetPhaseEnd => Sys2Proof.Machine.execResetPhaseEnd s
  | .clockPhaseEnd => Sys2Proof.Machine.execClockPhaseEnd s
  | .fuseLoadDone => Sys2Proof.Machine.execFuseLoadDone s
  | .bistDone fd => Sys2Proof.Machine.execBistDone fd s
  | .scrubDone => Sys2Proof.Machine.execScrubDone s
  | .railOutOfTolerance part => Sys2Proof.Machine.execRailOutOfTolerance part s
  | .girderBankFail b => Sys2Proof.Machine.execGirderBankFail b s
  | .girderSpareReady => Sys2Proof.Machine.execGirderSpareReady s
  | .storeBankFail north b pages => Sys2Proof.Machine.execStoreBankFail north b pages s
  | .storeSpareReady north => Sys2Proof.Machine.execStoreSpareReady north s
  | .storeWordUe north page => Sys2Proof.Machine.execStoreWordUe north page s
  | .coreMismatch c => Sys2Proof.Machine.execCoreMismatch c s
  | .stopDeadline kept => Sys2Proof.Machine.execStopDeadline kept s
  | .extest part => Sys2Proof.Machine.execExtest part s
  | .idcode part => Sys2Proof.Machine.execIdcode part s
  | .samplePreload part => Sys2Proof.Machine.execSamplePreload part s
  | .wrapper part => Sys2Proof.Machine.execWrapper part s
  | .ijtag part => Sys2Proof.Machine.execIjtag part s
  | .bypass part => Sys2Proof.Machine.execBypass part s
  | .trstN part => Sys2Proof.Machine.execTrstN part s
  | .loopbackStart part n v => Sys2Proof.Machine.execLoopbackStart part n v s
  | .loopbackEnd part n v => Sys2Proof.Machine.execLoopbackEnd part n v s
  | .ksIcacheInv v => Sys2Proof.Machine.execKsIcacheInv v s
  | .icacheInvDone => Sys2Proof.Machine.execIcacheInvDone s
  | .xlateInv v => Sys2Proof.Machine.execXlateInv v s
  | .xlateInvDone => Sys2Proof.Machine.execXlateInvDone s
  | .threadResume t => Sys2Proof.Machine.execThreadResume t s
  | .threadSkip t => Sys2Proof.Machine.execThreadSkip t s
  | .threadRestart t => Sys2Proof.Machine.execThreadRestart t s
  | .threadKill t => Sys2Proof.Machine.execThreadKill t s
  | .threadFrameWrite t off v => Sys2Proof.Machine.execThreadFrameWrite t off v s
  | .cntSignal n v => Sys2Proof.Machine.execCntSignal n v s
  | .cntCfg n v => Sys2Proof.Machine.execCntCfg n v s
  | .cntPcWrite n half v => Sys2Proof.Machine.execCntPcWrite n half v s
  | .registerWrite part a v => Sys2Proof.Machine.execRegisterWrite part a v s
  | .pierFail => Sys2Proof.Machine.execPierFail s
  | .repeatCacheBankFail ways => Sys2Proof.Machine.execRepeatCacheBankFail ways s
  | .girderLost => Sys2Proof.Machine.execGirderLost s
  | .fuseShadowWrite a v => Sys2Proof.Machine.execFuseShadowWrite a v s
  | .testZeroFillDone => Sys2Proof.Machine.execTestZeroFillDone s

end Sys2Proof.Machine
end

