-- ==== Sys2Proof/Safety.lean ====
section
/-! DEFINITION. The terms in which the statements speak: the canonical form of memory, the bound on a counter, when a
thread can issue, and what a command leaves as it was. -/

namespace Sys2Proof.Machine

/-- Device memory in its canonical form: addresses strictly rising, and no byte listed that reads as 0 anyway. -/
def Memory.wf (m : Tab Byte) : Bool := Tab.wf 0 m

/-- The bound of R249 on one counter: 0 ≤ P − C ≤ CAPACITY. -/
def Counter.bounded (c : Counter) : Bool := decide (c.c.toNat ≤ c.p.toNat ∧ c.p.toNat - c.c.toNat ≤ c.cap.toNat)

/-- Every counter of the span keeps the bound of R249. -/
def CountersBounded (s : State) : Prop := ∀ n, (getCnt s n).bounded = true

/-- A thread may issue an instruction with these source registers: nothing holds it back (`canIssue`), no source waits for a
load, and no source is uncorrectable. -/
def Issues (s : State) (t : ThreadId) (srcs : List (BitVec 5)) : Bool :=
  canIssue s t && !needsLoad (getThr s t) srcs && srcs.all (fun r => !isUe (getThr s t) r)

/-- A thread may issue an instruction word with these source registers: the word is the one it has fetched (R189, R193). -/
def IssuesWord (s : State) (t : ThreadId) (w : Half) (srcs : List (BitVec 5)) : Bool := fetched s t 0 w && Issues s t srcs

/-- What forming reports and counting events may change: the report queue and its numbers, the counted losses, the
performance counters, and the note that a register write of the same cycle meets them (R9). -/
def ReportsOnly (s u : State) : Prop :=
  { u with perf := s.perf, repQ := s.repQ, engSeq := s.engSeq, hw := s.hw
           lease := { u.lease with rt := s.lease.rt }, eng := { u.eng with faultLost := s.eng.faultLost } } = s ∧
    ∀ l, { getRt u l with repSeq := (getRt s l).repSeq } = getRt s l

/-- Beside reports and counts, only requests of the span for memory that other endpoints own have been formed (R348): they wait for
an address or in the queues of the span's two links; and answers to such requests have been taken. Where no address belongs to
another endpoint, none has been formed. -/
def RequestsOnly (s u : State) : Prop :=
  ReportsOnly s { u with net := s.net, abut := { u.abut with port := s.abut.port } } ∧
    (∀ k, k ≠ 16 → k ≠ 17 → getPort u k = getPort s k) ∧
    (∀ k, { getPort u k with txq := (getPort s k).txq } = getPort s k) ∧ u.net.rx = s.net.rx ∧
    ((∀ a, isFar s a = false) → { u.net with got := s.net.got } = s.net ∧ u.abut = s.abut)

/-- Nothing but threads, cores' caches and predictors, reports, event counts and requests for memory that other endpoints own differs:
every register of the register map, the counters, the slots, the stores, the streams, device memory and the queue are as they were. -/
def QuietBut (s u : State) : Prop :=
  RequestsOnly s { u with thr := s.thr, core := s.core, free := s.free }

/-- No thread but one differs. -/
def OtherThreads (s u : State) (t : ThreadId) : Prop := ∀ k, k ≠ t → getThr u k = getThr s k

/-- A thread has written one register and continues at an address; its other registers are as they were, `g0` reads 0
(R182), and nothing else of the machine differs. -/
def Retired (s u : State) (t : ThreadId) (rd : BitVec 5) (v pc : Word) : Prop :=
  (getThr u t).pc = pc ∧
    (∀ r, rdReg (getThr u t) r = if r = rd ∧ r ≠ 0 then v else rdReg (getThr s t) r) ∧
    OtherThreads s u t ∧ QuietBut s u

/-- A thread has stored a run of bytes: beside what `QuietBut` allows, only device memory, the poison of the units written and
the repeat cache's lines differ. -/
def StoreBut (s u : State) : Prop :=
  QuietBut s { u with mem := s.mem, memBad := s.memBad, pier := { u.pier with lines := s.pier.lines } }

/-- A thread stands in a wait (R184) at the instruction it was at, its registers as they were. -/
def WaitsAt (s u : State) (t : ThreadId) (r : WaitReason) : Prop :=
  (getThr u t).st = .waiting ∧ (getThr u t).reason = r ∧ (getThr u t).pc = (getThr s t).pc ∧
    (getThr u t).g = (getThr s t).g ∧ OtherThreads s u t ∧ QuietBut s u

/-- A thread has halted on a precise fault (R201): PC at the instruction, no register changed, nothing else of the machine
differs but the report. -/
def FaultsAt (s u : State) (t : ThreadId) (cause : Byte) : Prop :=
  getThr u t = halted (getThr s t) cause false .precise ∧ OtherThreads s u t ∧ QuietBut s u

/-- The fields of a CNT instruction: RD, RA or the immediate amount, and the counter; the amount is in register RA or in the instruction (R210, R245). -/
def cntFields (rd ra : BitVec 5) (imm : Bool) (n : BitVec 8) : BitVec 20 := rd ++ ra ++ BitVec.ofBool imm ++ (0 : BitVec 1) ++ n

/-- No stream instruction waits in the span, so that the streamers have none to take. -/
def StreamsIdle (s : State) : Bool := s.instrs.all (fun j => decide (queueOf j.op ≠ 2))

/-- No stream instruction but one waits in the span. -/
def StreamsIdleBut (s : State) (u : Nat) : Bool := s.instrs.all (fun j => decide (j.u = u ∨ queueOf j.op ≠ 2))

/-- A unit's signal reaches a counter: a lease that is not being released holds it (R255, R263). -/
def hears (s : State) (n : Nat) : Bool := (cntOwner s n).any (fun l => decide (lstate s l ≠ .releasing))

/-- A span instruction has completed (R214): it has left the span, its counter has been signalled once and no other counter
has changed, the DONE bit of its status word stands at the address taken at its arm, and the rest of memory is `m`. -/
def Completed (s u : State) (i : SpanI) (m : Tab Byte) : Prop :=
  getInstr u i.u = none ∧
    (∀ n, (∀ c, sigCounter i = some n → hears s n = true → sigCnt (getCnt s n) 1 = some c → getCnt u n = c) ∧
      (sigCounter i ≠ some n → getCnt u n = getCnt s n)) ∧
    (i.statusPa = none → ∀ k, memByte u k = Tab.get 0 m k) ∧
    (∀ a, i.statusPa = some a → (memByte u a).getLsbD 0 = true ∧ ∀ k, k < a ∨ a + 8 ≤ k → memByte u k = Tab.get 0 m k)

/-- Nothing of an instruction waits for another endpoint's acknowledgement: no write of its results is out, and the place of its status
word belongs to the own stack (R214, R258). -/
def OwnWrites (s : State) (i : SpanI) : Prop :=
  writesOut s i.u = false ∧ ∀ a, i.statusPa = some a → ∀ k < 8, isFar s (a + k) = false

/-- A span instruction has failed in its unit (R202, R214): it has left the span, no counter has changed, its live thread is HALTED, and,
where the report queue has room, a report tells the cause with its details. -/
def FailsWith (s v : State) (i : SpanI) (cause : Byte) (d0 d1 : Word) : Prop :=
  getInstr v i.u = none ∧ v.cnt = s.cnt ∧
    (∀ t, instThread s i.lease i.inst = some t → (getThr s t).killed = false → (getThr v t).st = .halted) ∧
    (s.repQ.length < 16 → ∃ r rest, v.repQ = s.repQ ++ r :: rest ∧ r.cause = cause ∧ r.lease = i.lease ∧ r.imprecise = true ∧
      r.pc = i.pc ∧ r.instr = i.w0 ∧ r.detail0 = d0 ∧ r.detail1 = d1)

/-- A span instruction runs in its unit. -/
def RunsNow (u : State) (n : Nat) : Prop := (getInstr u n).any (fun j => decide (j.stage = .running)) = true

/-- No multicast message is being sent, and no instruction but one waits for the links. -/
def LinksIdleBut (s : State) (u : Nat) : Bool :=
  s.mc.sends.isEmpty && s.instrs.all (fun j => decide (j.u = u ∨ (j.op ≠ .mcSend ∧ j.op ≠ .updIssue)))

/-- No multicast message is being sent, and no instruction waits for the links. -/
def LinksIdle (s : State) : Bool := s.mc.sends.isEmpty && s.instrs.all (fun j => decide (j.op ≠ .mcSend ∧ j.op ≠ .updIssue))

/-- An endpoint has answered a request: a response with the request's TAG and CLASS, its SRC and DEST exchanged, is formed
and kept for a resent duplicate (R322, R323). -/
def Answered (s v : State) (p : Packet) (src : BitVec 24) (typ : Nat) (aux : BitVec 16) (payload : List Byte) : Prop :=
  ∃ d ∈ v.abut.dedup, d.src = p.src ∧ d.tag = p.tag ∧ d.made = s.now ∧
    d.resp = mkPacket typ p.src src p.cls.toNat p.tag aux payload

/-- The places of the register map in a part's space, first byte and end (R455 to R472). -/
def mapPlaces : Part → List (Nat × Nat)
  | .span => [(0x00, 0x58), (0x1000, 0x1030), (0x2000, 0x2888), (0x3000, 0x3308), (0x10000, 0x18000), (0x20000, 0x21800),
      (0x22000, 0x23000), (0x24000, 0x24210), (0x24300, 0x24318), (0x24400, 0x24800), (0x28000, 0x28278), (0x30000, 0x30190),
      (0x32000, 0x321C8), (0x34000, 0x34040), (0x36000, 0x36100), (0x102000, 0x102800), (0x103000, 0x103300)]
  | .pier => [(0x00, 0x18), (0x40, 0x48), (0x1000, 0x1008), (0x34000, 0x34038), (0x36000, 0x36100), (0x40000, 0x40028)]
  | .abut => [(0x00, 0x18), (0x40, 0x48), (0x1000, 0x1008), (0x34000, 0x34078), (0x36000, 0x36100), (0x40000, 0x40010),
      (0x41000, 0x41800), (0x42000, 0x44000), (0x44000, 0x44180), (0x45000, 0x45020), (0x45040, 0x450C0), (0x140000, 0x140008),
      (0x141000, 0x141800), (0x142000, 0x144000)]

/-- Whether no map of a part's registers lists an address (R448). -/
def unlisted (part : Part) (a : Nat) : Bool := (mapPlaces part).all (fun r => decide (a < r.1 ∨ r.2 ≤ a))

/-- Every command and job at the Pier, and every CXL job at the Abutment, has a number below the next one to be given. -/
def NumbersFresh (s : State) : Prop :=
  (∀ x ∈ s.pier.cmds, x.k < s.pier.nextCmd) ∧ (∀ j ∈ s.pier.jobs, j.k < s.pier.nextCmd) ∧
    ∀ j ∈ s.abut.cxlJobs, j.k < s.abut.nextJob

end Sys2Proof.Machine
end

