-- ==== Sys2Proof/WellFormed.lean ====
section
/-! DEFINITION. Which commands are well formed: the ranges of the operands that the types leave open, and the lengths that
must agree inside a packet, a flit and a frame. The meanings are total and do not rest on these checks. -/

namespace Sys2Proof

/-- A packet holds LEN bytes of payload (R320). -/
def Packet.wf (p : Packet) : Bool := decide (p.payload.length = p.len.toNat)

/-- A flit carries 504 bytes of packet stream (R316). -/
def Flit.wf (f : Flit) : Bool := decide (f.data.length = 504)

/-- Every flit of a frame is a flit (R346). -/
def EthFrame.wf (fr : EthFrame) : Bool := fr.flits.all Flit.wf

/-- A burst has 1 to 512 bytes and crosses no 512-byte boundary (R159). -/
def ReadBurst.wf (b : ReadBurst) : Bool := decide (1 ≤ b.len ∧ b.addr.toNat % 512 + b.len ≤ 512)

/-- A finding names a physical row: 256 and eight spares (R403, R97). -/
def Finding.wf : Finding → Bool
  | .row r => decide (r.toNat < 264)
  | .column .. | .spareColumn _ | .girderBank _ | .westBank _ | .northBank _ | .core _ | .pier => true

/-- Sensors 0 to 31, each read once (R396). -/
def codesWf (cs : List (Nat × BitVec 10 × Bool)) : Bool :=
  cs.all (fun c => decide (c.1 < 32)) && decide ((cs.map (·.1)).Nodup)

/-- Modules 0 to 15, each trained once (R327, R471). -/
def modulesWf (ms : List (Nat × TrainResult)) : Bool :=
  ms.all (fun m => decide (m.1 < 16)) && decide ((ms.map (·.1)).Nodup)

/-- The check of a command. -/
def Instr.wf : Instr → Bool
  | .addk .. => true
  | .andk .. => true
  | .ork .. => true
  | .xork .. => true
  | .cmpkLt .. => true
  | .cmpkLtu .. => true
  | .shlk .. => true
  | .shrk .. => true
  | .sark .. => true
  | .klane .. => true
  | .adrw .. => true
  | .ldS8 .. => true
  | .ldS16 .. => true
  | .ldS32 .. => true
  | .ldD .. => true
  | .ldU8 .. => true
  | .ldU16 .. => true
  | .ldU32 .. => true
  | .st8 .. => true
  | .st16 .. => true
  | .st32 .. => true
  | .stD .. => true
  | .brEq .. => true
  | .brNe .. => true
  | .brLt .. => true
  | .brGe .. => true
  | .brLtu .. => true
  | .brGeu .. => true
  | .jmp .. => true
  | .jmpr .. => true
  | .call .. => true
  | .callr .. => true
  | .ret .. => true
  | .add .. => true
  | .sub .. => true
  | .and .. => true
  | .or .. => true
  | .xor .. => true
  | .shl .. => true
  | .shr .. => true
  | .sar .. => true
  | .cmpLt .. => true
  | .cmpLtu .. => true
  | .mulLo .. => true
  | .mulHs .. => true
  | .mulHu .. => true
  | .min .. => true
  | .max .. => true
  | .minu .. => true
  | .maxu .. => true
  | .popc .. => true
  | .clz .. => true
  | .ctz .. => true
  | .fence .. => true
  | .yield .. => true
  | .exit .. => true
  | .trap .. => true
  | .srr .. => true
  | .beatw .. => true
  | .passFwd .. => true
  | .passDx .. => true
  | .passDw .. => true
  | .passPair .. => true
  | .slotOpen .. => true
  | .slotClose .. => true
  | .slotSpill .. => true
  | .slotFill .. => true
  | .slotStat .. => true
  | .drain .. => true
  | .streamArm .. => true
  | .streamRearm .. => true
  | .streamRearmRows .. => true
  | .streamResume .. => true
  | .streamQuiesce .. => true
  | .rowsetCommit .. => true
  | .rotLoadMatrix .. => true
  | .rotLoadSmooth .. => true
  | .scaleUpdate .. => true
  | .vecAdd .. => true
  | .vecMul .. => true
  | .vecFma .. => true
  | .vecAxpb .. => true
  | .vecRsum .. => true
  | .vecCsum .. => true
  | .vecRssq .. => true
  | .vecRsqrt .. => true
  | .vecArgmax .. => true
  | .vecArgmin .. => true
  | .chainSend .. => true
  | .chainRecv .. => true
  | .mcSend .. => true
  | .updIssue .. => true
  | .cntSig .. => true
  | .cntTake .. => true
  | .cntWait .. => true
  | .cntWtake .. => true
  | .cntRdp .. => true
  | .cntRdc .. => true
  | .cntCap .. => true
  | .instructionCrossing => true
  | .queueEntryFree .. => true
  | .counterWaitEnd .. => true
  | .yieldEnd .. => true
  | .loadReturn .. => true
  | .storeAck .. => true
  | .icacheLineArrive .. => true
  | .taskPlacement => true
  | .descriptorArrive .. => true
  | .passStart .. => true
  | .elementPeriod .. => true
  | .intervalEnd _ errs => decide (errs.Nodup)
  | .passResume .. => true
  | .passComplete => true
  | .pairHalfComplete .. => true
  | .arrayRampDown => true
  | .passAbandon => true
  | .slotOpenStart .. => true
  | .slotCloseStart .. => true
  | .girderMoverStart .. => true
  | .moverResume => true
  | .spillComplete => true
  | .fillComplete => true
  | .scrubSegmentDone => true
  | .drainStart .. => true
  | .drainComplete => true
  | .peekAddr .. => true
  | .peekDone => true
  | .streamDescArrive .. => true
  | .gateTake .. => true
  | .burstIssue => true
  | .burstComplete .. => true
  | .transferSignal .. => true
  | .rearmTake .. => true
  | .streamCtlResume .. => true
  | .streamContextUe .. => true
  | .vecStart .. => true
  | .vecComplete => true
  | .rotLoadStart .. => true
  | .rotLoadComplete => true
  | .scaleUpdateStart .. => true
  | .scaleUpdateComplete => true
  | .rowsetCommitStart .. => true
  | .rowsetCommitComplete .. => true
  | .chainStart .. => true
  | .chainChunkSend .. => true
  | .chainChunk p => p.wf
  | .chainCredit p => p.wf
  | .chainTimeout .. => true
  | .update .. => true
  | .stepEnd .. => true
  | .pierChunkStage p => p.wf
  | .updateBegin .. => true
  | .updateComplete .. => true
  | .stepEndComplete .. => true
  | .pierReadBurst b => b.wf
  | .pierWrite a data mask => decide (data.length = mask.length ∧ 1 ≤ data.length ∧ a.toNat % 512 + data.length ≤ 512)
  | .pierReadResponse .. => true
  | .pierWriteAck .. => true
  | .pierGroupReload .. => true
  | .groupReloadDone => true
  | .repcacheFlush .. => true
  | .repcacheFlushDone => true
  | .pierPcmap .. => true
  | .stackReady .. => true
  | .stackFatal => true
  | .stackNoResponse => true
  | .flitReceive _ m fl => decide (m < 16) && fl.wf
  | .moduleRetrainDone _ m _ => decide (m < 16)
  | .kaTxReadyFall _ m => decide (m < 16)
  | .flitReplayTimeout .. => true
  | .portLinkDown .. => true
  | .signalDetectLoss .. => true
  | .trainingStart .. => true
  | .trainingDone _ ms => modulesWf ms
  | .trainingRetry .. => true
  | .ident _ pk => pk.wf
  | .identResend .. => true
  | .portRetrain .. => true
  | .routerForward _ pk => pk.wf
  | .dedupExpiry => true
  | .write pk => pk.wf
  | .writeAck pk => pk.wf
  | .read pk => pk.wf
  | .readResp pk => pk.wf
  | .signal pk => pk.wf
  | .signalAck pk => pk.wf
  | .event pk => pk.wf
  | .eventAck pk => pk.wf
  | .updResp pk => pk.wf
  | .mcData _ pk => pk.wf
  | .mcDataWritten .. => true
  | .mcAck _ pk => pk.wf
  | .mcPrune .. => true
  | .missed _ pk => pk.wf
  | .unreachable pk => pk.wf
  | .mgmtRead _ pk => pk.wf
  | .mgmtWrite _ pk => pk.wf
  | .mgmtResp pk => pk.wf
  | .directed _ pk => pk.wf
  | .ethFrame _ fr => fr.wf
  | .cxlResponse .. => true
  | .cxlTimeout .. => true
  | .ethLinkcfg .. => true
  | .reportDequeue .. => true
  | .engineEventDest .. => true
  | .load .. => true
  | .loadAfterScrub .. => true
  | .suspend .. => true
  | .resume .. => true
  | .unload .. => true
  | .unloadProceed .. => true
  | .release .. => true
  | .releaseTeardown .. => true
  | .releaseComplete .. => true
  | .saveBufferWrite .. => true
  | .park .. => true
  | .saveSequence .. => true
  | .parkRestore .. => true
  | .leaseGeneration .. => true
  | .leaseCommitTake => true
  | .mapGeneration .. => true
  | .memmapCommitTake => true
  | .routerGeneration .. => true
  | .routerCommitTake => true
  | .beatEdge => true
  | .beatLost => true
  | .beatGenerated => true
  | .beatSideband .. => true
  | .beatLoad .. => true
  | .beatNominal .. => true
  | .meterPeriod .. => true
  | .perfDumpPeriod .. => true
  | .perfWrap _ inc _ => decide (1 ≤ inc ∧ inc ≤ 2 ^ 25)
  | .tempReading codes => codesWf codes
  | .droopTrip .. => true
  | .droopHoldExpire => true
  | .rstNFall .. => true
  | .rstNRise .. => true
  | .engineReset .. => true
  | .resetPhaseEnd => true
  | .clockPhaseEnd => true
  | .fuseLoadDone => true
  | .bistDone fd => fd.all Finding.wf
  | .scrubDone => true
  | .railOutOfTolerance .. => true
  | .girderBankFail .. => true
  | .girderSpareReady => true
  | .storeBankFail north b pages => decide (b < (if north then 64 else 256)) && pages.all (fun p => decide (p < (if north then 8192 else 4096)))
  | .storeSpareReady .. => true
  | .storeWordUe north page => decide (page < (if north then 8192 else 4096))
  | .coreMismatch .. => true
  | .stopDeadline kept => decide (kept.Nodup) && kept.all (fun u => decide (u < 2 ^ 58))
  | .extest .. => true
  | .idcode .. => true
  | .samplePreload .. => true
  | .wrapper .. => true
  | .ijtag .. => true
  | .bypass .. => true
  | .trstN .. => true
  | .loopbackStart .. => true
  | .loopbackEnd .. => true
  | .ksIcacheInv .. => true
  | .icacheInvDone => true
  | .xlateInv .. => true
  | .xlateInvDone => true
  | .threadResume .. => true
  | .threadSkip .. => true
  | .threadRestart .. => true
  | .threadKill .. => true
  | .threadFrameWrite .. => true
  | .cntSignal .. => true
  | .cntCfg .. => true
  | .cntPcWrite .. => true
  | .registerWrite .. => true
  | .pierFail => true
  | .repeatCacheBankFail ways => ways.all (fun w => decide (w.1 < 8192 ∧ w.2 < 16))
  | .girderLost => true
  | .fuseShadowWrite .. => true
  | .testZeroFillDone => true

/-- The packets that a command carries. -/
def Instr.packets : Instr → List Packet
  | .addk .. => []
  | .andk .. => []
  | .ork .. => []
  | .xork .. => []
  | .cmpkLt .. => []
  | .cmpkLtu .. => []
  | .shlk .. => []
  | .shrk .. => []
  | .sark .. => []
  | .klane .. => []
  | .adrw .. => []
  | .ldS8 .. => []
  | .ldS16 .. => []
  | .ldS32 .. => []
  | .ldD .. => []
  | .ldU8 .. => []
  | .ldU16 .. => []
  | .ldU32 .. => []
  | .st8 .. => []
  | .st16 .. => []
  | .st32 .. => []
  | .stD .. => []
  | .brEq .. => []
  | .brNe .. => []
  | .brLt .. => []
  | .brGe .. => []
  | .brLtu .. => []
  | .brGeu .. => []
  | .jmp .. => []
  | .jmpr .. => []
  | .call .. => []
  | .callr .. => []
  | .ret .. => []
  | .add .. => []
  | .sub .. => []
  | .and .. => []
  | .or .. => []
  | .xor .. => []
  | .shl .. => []
  | .shr .. => []
  | .sar .. => []
  | .cmpLt .. => []
  | .cmpLtu .. => []
  | .mulLo .. => []
  | .mulHs .. => []
  | .mulHu .. => []
  | .min .. => []
  | .max .. => []
  | .minu .. => []
  | .maxu .. => []
  | .popc .. => []
  | .clz .. => []
  | .ctz .. => []
  | .fence .. => []
  | .yield .. => []
  | .exit .. => []
  | .trap .. => []
  | .srr .. => []
  | .beatw .. => []
  | .passFwd .. => []
  | .passDx .. => []
  | .passDw .. => []
  | .passPair .. => []
  | .slotOpen .. => []
  | .slotClose .. => []
  | .slotSpill .. => []
  | .slotFill .. => []
  | .slotStat .. => []
  | .drain .. => []
  | .streamArm .. => []
  | .streamRearm .. => []
  | .streamRearmRows .. => []
  | .streamResume .. => []
  | .streamQuiesce .. => []
  | .rowsetCommit .. => []
  | .rotLoadMatrix .. => []
  | .rotLoadSmooth .. => []
  | .scaleUpdate .. => []
  | .vecAdd .. => []
  | .vecMul .. => []
  | .vecFma .. => []
  | .vecAxpb .. => []
  | .vecRsum .. => []
  | .vecCsum .. => []
  | .vecRssq .. => []
  | .vecRsqrt .. => []
  | .vecArgmax .. => []
  | .vecArgmin .. => []
  | .chainSend .. => []
  | .chainRecv .. => []
  | .mcSend .. => []
  | .updIssue .. => []
  | .cntSig .. => []
  | .cntTake .. => []
  | .cntWait .. => []
  | .cntWtake .. => []
  | .cntRdp .. => []
  | .cntRdc .. => []
  | .cntCap .. => []
  | .instructionCrossing => []
  | .queueEntryFree .. => []
  | .counterWaitEnd .. => []
  | .yieldEnd .. => []
  | .loadReturn .. => []
  | .storeAck .. => []
  | .icacheLineArrive .. => []
  | .taskPlacement => []
  | .descriptorArrive .. => []
  | .passStart .. => []
  | .elementPeriod .. => []
  | .intervalEnd .. => []
  | .passResume .. => []
  | .passComplete => []
  | .pairHalfComplete .. => []
  | .arrayRampDown => []
  | .passAbandon => []
  | .slotOpenStart .. => []
  | .slotCloseStart .. => []
  | .girderMoverStart .. => []
  | .moverResume => []
  | .spillComplete => []
  | .fillComplete => []
  | .scrubSegmentDone => []
  | .drainStart .. => []
  | .drainComplete => []
  | .peekAddr .. => []
  | .peekDone => []
  | .streamDescArrive .. => []
  | .gateTake .. => []
  | .burstIssue => []
  | .burstComplete .. => []
  | .transferSignal .. => []
  | .rearmTake .. => []
  | .streamCtlResume .. => []
  | .streamContextUe .. => []
  | .vecStart .. => []
  | .vecComplete => []
  | .rotLoadStart .. => []
  | .rotLoadComplete => []
  | .scaleUpdateStart .. => []
  | .scaleUpdateComplete => []
  | .rowsetCommitStart .. => []
  | .rowsetCommitComplete .. => []
  | .chainStart .. => []
  | .chainChunkSend .. => []
  | .chainChunk p => [p]
  | .chainCredit p => [p]
  | .chainTimeout .. => []
  | .update .. => []
  | .stepEnd .. => []
  | .pierChunkStage p => [p]
  | .updateBegin .. => []
  | .updateComplete .. => []
  | .stepEndComplete .. => []
  | .pierReadBurst .. => []
  | .pierWrite .. => []
  | .pierReadResponse .. => []
  | .pierWriteAck .. => []
  | .pierGroupReload .. => []
  | .groupReloadDone => []
  | .repcacheFlush .. => []
  | .repcacheFlushDone => []
  | .pierPcmap .. => []
  | .stackReady .. => []
  | .stackFatal => []
  | .stackNoResponse => []
  | .flitReceive .. => []
  | .moduleRetrainDone .. => []
  | .kaTxReadyFall .. => []
  | .flitReplayTimeout .. => []
  | .portLinkDown .. => []
  | .signalDetectLoss .. => []
  | .trainingStart .. => []
  | .trainingDone .. => []
  | .trainingRetry .. => []
  | .ident _ pk => [pk]
  | .identResend .. => []
  | .portRetrain .. => []
  | .routerForward _ pk => [pk]
  | .dedupExpiry => []
  | .write pk => [pk]
  | .writeAck pk => [pk]
  | .read pk => [pk]
  | .readResp pk => [pk]
  | .signal pk => [pk]
  | .signalAck pk => [pk]
  | .event pk => [pk]
  | .eventAck pk => [pk]
  | .updResp pk => [pk]
  | .mcData _ pk => [pk]
  | .mcDataWritten .. => []
  | .mcAck _ pk => [pk]
  | .mcPrune .. => []
  | .missed _ pk => [pk]
  | .unreachable pk => [pk]
  | .mgmtRead _ pk => [pk]
  | .mgmtWrite _ pk => [pk]
  | .mgmtResp pk => [pk]
  | .directed _ pk => [pk]
  | .ethFrame .. => []
  | .cxlResponse .. => []
  | .cxlTimeout .. => []
  | .ethLinkcfg .. => []
  | .reportDequeue .. => []
  | .engineEventDest .. => []
  | .load .. => []
  | .loadAfterScrub .. => []
  | .suspend .. => []
  | .resume .. => []
  | .unload .. => []
  | .unloadProceed .. => []
  | .release .. => []
  | .releaseTeardown .. => []
  | .releaseComplete .. => []
  | .saveBufferWrite .. => []
  | .park .. => []
  | .saveSequence .. => []
  | .parkRestore .. => []
  | .leaseGeneration .. => []
  | .leaseCommitTake => []
  | .mapGeneration .. => []
  | .memmapCommitTake => []
  | .routerGeneration .. => []
  | .routerCommitTake => []
  | .beatEdge => []
  | .beatLost => []
  | .beatGenerated => []
  | .beatSideband .. => []
  | .beatLoad .. => []
  | .beatNominal .. => []
  | .meterPeriod .. => []
  | .perfDumpPeriod .. => []
  | .perfWrap .. => []
  | .tempReading .. => []
  | .droopTrip .. => []
  | .droopHoldExpire => []
  | .rstNFall .. => []
  | .rstNRise .. => []
  | .engineReset .. => []
  | .resetPhaseEnd => []
  | .clockPhaseEnd => []
  | .fuseLoadDone => []
  | .bistDone .. => []
  | .scrubDone => []
  | .railOutOfTolerance .. => []
  | .girderBankFail .. => []
  | .girderSpareReady => []
  | .storeBankFail .. => []
  | .storeSpareReady .. => []
  | .storeWordUe .. => []
  | .coreMismatch .. => []
  | .stopDeadline .. => []
  | .extest .. => []
  | .idcode .. => []
  | .samplePreload .. => []
  | .wrapper .. => []
  | .ijtag .. => []
  | .bypass .. => []
  | .trstN .. => []
  | .loopbackStart .. => []
  | .loopbackEnd .. => []
  | .ksIcacheInv .. => []
  | .icacheInvDone => []
  | .xlateInv .. => []
  | .xlateInvDone => []
  | .threadResume .. => []
  | .threadSkip .. => []
  | .threadRestart .. => []
  | .threadKill .. => []
  | .threadFrameWrite .. => []
  | .cntSignal .. => []
  | .cntCfg .. => []
  | .cntPcWrite .. => []
  | .registerWrite .. => []
  | .pierFail => []
  | .repeatCacheBankFail .. => []
  | .girderLost => []
  | .fuseShadowWrite .. => []
  | .testZeroFillDone => []

end Sys2Proof
end

