-- ==== Sys2Proof/Certificates/Slice0/Obligations.lean ====
section
/-! DEFINITION. The statements for the provers. -/

open Sys2Proof Sys2Proof.Machine

/-- R194: what the immediate group computes, where a thread issues it.
R195: what the ALU group computes, where a thread issues it with its reserved fields 0. -/
def Obligations.ArithmeticResults : Prop :=
  (∀ (s : State) (t : ThreadId) (rd ra : BitVec 5) (imm : BitVec 16),
     let x := getThr s t
     let a := rdReg x ra
     let k : Word := imm.signExtend 64
     let z : Word := imm.setWidth 64
     let gives := fun (srcs : List (BitVec 5)) (op : BitVec 6) (i : Instr) (v : Word) =>
       IssuesWord s t (wI op rd ra imm) srcs = true → ∃ u, exec i s = .next u ∧ Retired s u t rd v (x.pc + 4)
     (gives [ra] 0x01 (.addk t rd ra imm) (a + k) ∧ gives [ra] 0x02 (.andk t rd ra imm) (a &&& z) ∧ gives [ra] 0x03 (.ork t rd ra imm) (a ||| z) ∧
       gives [ra] 0x04 (.xork t rd ra imm) (a ^^^ z) ∧ gives [ra] 0x05 (.cmpkLt t rd ra imm) (if a.toInt < k.toInt then 1 else 0) ∧
       gives [ra] 0x06 (.cmpkLtu t rd ra imm) (if a.toNat < k.toNat then 1 else 0)) ∧
     (imm.toNat < 64 →
       gives [ra] 0x07 (.shlk t rd ra imm) (a <<< imm.toNat) ∧ gives [ra] 0x08 (.shrk t rd ra imm) (a >>> imm.toNat) ∧
       gives [ra] 0x09 (.sark t rd ra imm) (a.sshiftRight imm.toNat)) ∧
     (ra.toNat < 4 →
       gives [rd] 0x0A (.klane t rd ra imm) ((rdReg x rd &&& ~~~((0xFFFF : Word) <<< (16 * ra.toNat))) ||| (z <<< (16 * ra.toNat)))) ∧
     (ra = 0 → gives [] 0x0B (.adrw t rd ra imm) (x.pc + k * 4))) ∧
  (∀ (s : State) (t : ThreadId) (rd ra rb : BitVec 5),
     let x := getThr s t
     let a := rdReg x ra
     let b := rdReg x rb
     let n := b.toNat % 64
     let gives := fun (fn : BitVec 6) (i : Instr) (v : Word) =>
       IssuesWord s t (wA fn rd ra rb 0) [ra, rb] = true → ∃ u, exec i s = .next u ∧ Retired s u t rd v (x.pc + 4)
     let gives1 := fun (fn : BitVec 6) (i : Instr) (v : Word) =>
       IssuesWord s t (wA fn rd ra 0 0) [ra] = true → ∃ u, exec i s = .next u ∧ Retired s u t rd v (x.pc + 4)
     (gives 0x00 (.add t rd ra rb 0) (a + b) ∧ gives 0x01 (.sub t rd ra rb 0) (a - b) ∧ gives 0x02 (.and t rd ra rb 0) (a &&& b) ∧
       gives 0x03 (.or t rd ra rb 0) (a ||| b) ∧ gives 0x04 (.xor t rd ra rb 0) (a ^^^ b) ∧ gives 0x05 (.shl t rd ra rb 0) (a <<< n) ∧
       gives 0x06 (.shr t rd ra rb 0) (a >>> n) ∧ gives 0x07 (.sar t rd ra rb 0) (a.sshiftRight n) ∧
       gives 0x08 (.cmpLt t rd ra rb 0) (if a.toInt < b.toInt then 1 else 0) ∧
       gives 0x09 (.cmpLtu t rd ra rb 0) (if a.toNat < b.toNat then 1 else 0) ∧
       gives 0x0A (.mulLo t rd ra rb 0) (BitVec.ofNat 64 (a.toNat * b.toNat)) ∧
       gives 0x0B (.mulHs t rd ra rb 0) (BitVec.ofInt 64 (a.toInt * b.toInt / 2 ^ 64)) ∧
       gives 0x0C (.mulHu t rd ra rb 0) (BitVec.ofNat 64 (a.toNat * b.toNat / 2 ^ 64)) ∧
       gives 0x0D (.min t rd ra rb 0) (if a.toInt < b.toInt then a else b) ∧
       gives 0x0E (.max t rd ra rb 0) (if a.toInt < b.toInt then b else a) ∧
       gives 0x0F (.minu t rd ra rb 0) (if a.toNat < b.toNat then a else b) ∧
       gives 0x10 (.maxu t rd ra rb 0) (if a.toNat < b.toNat then b else a)) ∧
     (gives1 0x11 (.popc t rd ra 0 0) (BitVec.ofNat 64 ((List.range 64).filter (fun k => a.getLsbD k)).length) ∧
       (∀ k < 64, a.getLsbD k = true → (∀ j < k, a.getLsbD j = false) → gives1 0x13 (.ctz t rd ra 0 0) (BitVec.ofNat 64 k)) ∧
       (∀ k < 64, a.getLsbD (63 - k) = true → (∀ j < k, a.getLsbD (63 - j) = false) →
         gives1 0x12 (.clz t rd ra 0 0) (BitVec.ofNat 64 k)) ∧
       (a = 0 → gives1 0x13 (.ctz t rd ra 0 0) 64 ∧ gives1 0x12 (.clz t rd ra 0 0) 64)))

/-- R11, R193, R201: a reserved field that is not 0 halts the thread at decode with ILLEGAL_INSTR, and the instruction has no
effect.
R11, R209, R217: a span instruction whose length or reserved fields are wrong is illegal at decode. -/
def Obligations.ReservedFieldsAreIllegal : Prop :=
  (∀ (s : State) (t : ThreadId) (rd ra rb rsv : BitVec 5) (imm : BitVec 16) (imm8 : BitVec 8),
     let halts := fun (w : Half) (i : Instr) => fetched s t 0 w = true → ∃ u, exec i s = .next u ∧ FaultsAt s u t 0x01
     let haltsI := fun (op : BitVec 6) (i : Instr) => halts (wI op rd ra imm) i
     let haltsS := fun (sub : BitVec 8) (i : Instr) => halts (wS sub rd ra imm8) i
     canIssue s t = true →
       (rsv ≠ 0 → ∀ c ∈ [(0x00, Instr.add), (0x01, .sub), (0x02, .and), (0x03, .or), (0x04, .xor), (0x05, .shl), (0x06, .shr),
           (0x07, .sar), (0x08, .cmpLt), (0x09, .cmpLtu), (0x0A, .mulLo), (0x0B, .mulHs), (0x0C, .mulHu), (0x0D, .min),
           (0x0E, .max), (0x0F, .minu), (0x10, .maxu), (0x11, .popc), (0x12, .clz), (0x13, .ctz)],
         halts (wA c.1 rd ra rb rsv) (c.2 t rd ra rb rsv)) ∧
       (rb ≠ 0 → ∀ c ∈ [(0x11, Instr.popc), (0x12, .clz), (0x13, .ctz)], halts (wA c.1 rd ra rb rsv) (c.2 t rd ra rb rsv)) ∧
       (64 ≤ imm.toNat → ∀ c ∈ [(0x07, Instr.shlk), (0x08, .shrk), (0x09, .sark)], haltsI c.1 (c.2 t rd ra imm)) ∧
       (4 ≤ ra.toNat → haltsI 0x0A (.klane t rd ra imm)) ∧
       (ra ≠ 0 → haltsI 0x0B (.adrw t rd ra imm) ∧ haltsS 0x04 (.srr t rd ra imm8) ∧ haltsS 0x03 (.trap t rd ra imm8)) ∧
       (rd ≠ 0 → ∀ c ∈ [(0x00, Instr.fence), (0x01, .yield), (0x02, .exit), (0x03, .trap), (0x05, .beatw)],
         haltsS c.1 (c.2 t rd ra imm8)) ∧
       (rd ≠ 0 → haltsI 0x29 (.callr t rd ra imm)) ∧ (rd ≠ 0 ∨ ra ≠ 0 ∨ imm ≠ 0 → haltsI 0x2A (.ret t rd ra imm)) ∧
       (ra ≠ 0 ∨ imm8 ≠ 0 → ∀ c ∈ [(0x00, Instr.fence), (0x01, .yield), (0x02, .exit)], haltsS c.1 (c.2 t rd ra imm8)) ∧
       (imm8 ≠ 0 → haltsS 0x05 (.beatw t rd ra imm8))) ∧
  (∀ (s : State) (t : ThreadId) (len : BitVec 2) (f : BitVec 20) (w1 w2 : BitVec 32),
     let halts := fun (op : BitVec 6) (sub : BitVec 4) (i : Instr) => fetched s t 0 (wX op len sub f) = true →
       ∃ u, exec i s = .next u ∧ FaultsAt s u t 0x01
     let one := [(0x30, 0, Instr.passFwd), (0x30, 1, .passDx), (0x30, 2, .passDw), (0x31, 1, .slotClose), (0x31, 4, .slotStat),
       (0x32, 0, .drain), (0x33, 0, .streamArm), (0x33, 1, .streamRearm), (0x33, 4, .streamRearmRows), (0x33, 2, .streamResume),
       (0x33, 3, .streamQuiesce)]
     let reads := [(0x3B, 4, Instr.cntRdp), (0x3B, 5, .cntRdc)]
     let counts := [(0x3B, 0, Instr.cntSig), (0x3B, 1, .cntTake), (0x3B, 2, .cntWait), (0x3B, 3, .cntWtake), (0x3B, 6, .cntCap)]
     let signals := [(0x31, 2, Instr.slotSpill), (0x31, 3, .slotFill), (0x34, 0, .rowsetCommit), (0x37, 0, .vecAdd), (0x37, 1, .vecMul),
       (0x37, 2, .vecFma), (0x37, 3, .vecAxpb), (0x37, 4, .vecRsum), (0x37, 5, .vecCsum), (0x37, 6, .vecRssq), (0x37, 7, .vecRsqrt),
       (0x37, 8, .vecArgmax), (0x37, 9, .vecArgmin), (0x3A, 0, .updIssue)]
     let two := signals ++ [(0x30, 3, .passPair), (0x31, 0, .slotOpen), (0x35, 0, .rotLoadMatrix), (0x35, 1, .rotLoadSmooth),
       (0x36, 0, .scaleUpdate), (0x39, 0, .mcSend)]
     canIssue s t = true →
       (len ≠ 0 → ∀ c ∈ one ++ reads ++ counts, halts c.1 c.2.1 (c.2.2 t len f)) ∧
       (f.getLsbD 8 = true → ∀ c ∈ reads ++ counts, halts c.1 c.2.1 (c.2.2 t len f)) ∧
       (fld f 15 5 ≠ (0 : BitVec 5) → ∀ c ∈ counts, halts c.1 c.2.1 (c.2.2 t len f)) ∧
       (fetched s t 1 w1 = true →
         (len ≠ 1 → ∀ c ∈ two, halts c.1 c.2.1 (c.2.2 t len f w1)) ∧
         (bits w1 31 8 ≠ 0 → halts 0x30 3 (.passPair t len f w1)) ∧
         (bits w1 12 0 = 0 ∨ bits w1 22 20 = 0 ∨ bits w1 19 16 = 0 → halts 0x31 0 (.slotOpen t len f w1)) ∧
         (bits w1 31 9 ≠ 0 ∨ (w1.getLsbD 8 = false ∧ bits w1 7 0 ≠ 0) → ∀ c ∈ signals, halts c.1 c.2.1 (c.2.2 t len f w1)) ∧
         (fetched s t 2 w2 = true → len ≠ 2 →
           halts 0x38 0 (.chainSend t len f w1 w2) ∧ halts 0x38 1 (.chainRecv t len f w1 w2))))

/-- R190, R194: a load that is aligned, permitted and one of at most four is outstanding, with its destination, width, sign,
address and the bytes as they stand, whether they lie with the own stack or with another endpoint; an earlier load of the
same register no longer writes it. A fifth load waits in LOAD, one whose page's table is still being read waits and issues
again, and an uncorrectable address register halts the thread with REG_UE.
R190, R194: a store that is aligned, permitted and one of at most eight writes its bytes, lowest first, at the translated
address, and no other byte; it is outstanding until it is acknowledged. That its bytes are in device memory from its issue
is the model's choice (log entry 50). A ninth store waits in STORE, and an uncorrectable register halts the thread with
REG_UE.
R190, R201: a misaligned access halts the thread with the alignment cause, and an access whose page is not mapped for it
with the translation cause; neither changes memory or registers. That a page whose bytes lie in no window is barred as an
unmapped one is the model's choice (log entry 51). -/
def Obligations.LoadsAndStores : Prop :=
  (∀ (s : State) (t : ThreadId) (rd ra : BitVec 5) (imm : BitVec 16) (pa : Nat),
     let x := getThr s t
     let va := rdReg x ra + imm.signExtend 64
     let starts := fun (i : Instr) (op : BitVec 6) (n : Nat) (signed : Bool) => fetched s t 0 (wI op rd ra imm) = true →
       (isUe x ra = true → ∃ u, exec i s = .next u ∧ FaultsAt s u t 0x0A) ∧
       (isUe x ra = false → va.toNat % n = 0 → (dataXlate s t (wI op rd ra imm) va n .r).1 = .wait →
         ∃ u, exec i s = .next u ∧ getThr u t = x ∧ OtherThreads s u t ∧ QuietBut s u) ∧
       (isUe x ra = false → va.toNat % n = 0 → (dataXlate s t (wI op rd ra imm) va n .r).1 = .at pa →
         (4 ≤ x.loads.length → ∃ u, exec i s = .next u ∧ WaitsAt s u t .load) ∧
         (x.loads.length < 4 → ∃ u far, exec i s = .next u ∧ far.isSome = isFar s pa ∧ (getThr u t).pc = x.pc + 4 ∧ (getThr u t).g = x.g ∧
           (getThr u t).loads = x.loads.map (fun q => if q.rd = rd then { q with live := false } else q) ++
             [{ rd := rd, bytes := n, signed := signed, va := va, pa := pa
                val := if signed then (BitVec.ofNat (8 * n) (leNat (memBytes s pa n))).signExtend 64
                  else BitVec.ofNat 64 (leNat (memBytes s pa n))
                poison := false, live := true, fixed := false, pc := x.pc, w := wI op rd ra imm, far := far }] ∧
           OtherThreads s u t ∧ QuietBut s u))
     canIssue s t = true → needsLoad x [ra] = false →
       starts (.ldS8 t rd ra imm) 0x10 1 true ∧ starts (.ldS16 t rd ra imm) 0x11 2 true ∧ starts (.ldS32 t rd ra imm) 0x12 4 true ∧
       starts (.ldD t rd ra imm) 0x13 8 false ∧ starts (.ldU8 t rd ra imm) 0x14 1 false ∧ starts (.ldU16 t rd ra imm) 0x15 2 false ∧
       starts (.ldU32 t rd ra imm) 0x16 4 false) ∧
  (∀ (s : State) (t : ThreadId) (rs ra : BitVec 5) (imm : BitVec 16) (pa : Nat),
     let x := getThr s t
     let va := rdReg x ra + imm.signExtend 64
     let writes := fun (i : Instr) (op : BitVec 6) (n : Nat) => fetched s t 0 (wI op rs ra imm) = true →
       (isUe x ra = true → ∃ u, exec i s = .next u ∧ FaultsAt s u t 0x0A) ∧
       (isUe x ra = false → va.toNat % n = 0 → (dataXlate s t (wI op rs ra imm) va n .w).1 = .wait →
         ∃ u, exec i s = .next u ∧ getThr u t = x ∧ OtherThreads s u t ∧ QuietBut s u) ∧
       (isUe x ra = false → va.toNat % n = 0 → (dataXlate s t (wI op rs ra imm) va n .w).1 = .at pa →
         (isUe x rs = true → ∃ u, exec i s = .next u ∧ FaultsAt s u t 0x0A) ∧
         (isUe x rs = false → 8 ≤ x.stores.length → ∃ u, exec i s = .next u ∧ WaitsAt s u t .store) ∧
         (isUe x rs = false → x.stores.length < 8 → ∃ u far, exec i s = .next u ∧ far.isSome = isFar s pa ∧ (getThr u t).pc = x.pc + 4 ∧ (getThr u t).g = x.g ∧
           (getThr u t).stores = x.stores ++ [{ pa := pa, bytes := n, old := memBytes s pa n, far := far, va := va, pc := x.pc, w := wI op rs ra imm }] ∧
           (∀ a, memByte u a = if pa ≤ a ∧ a < pa + n then (rdReg x rs >>> (8 * (a - pa))).setWidth 8 else memByte s a) ∧
           OtherThreads s u t ∧ StoreBut s u))
     canIssue s t = true → needsLoad x [ra, rs] = false →
       writes (.st8 t rs ra imm) 0x18 1 ∧ writes (.st16 t rs ra imm) 0x19 2 ∧ writes (.st32 t rs ra imm) 0x1A 4 ∧ writes (.stD t rs ra imm) 0x1B 8) ∧
  (∀ (s : State) (t : ThreadId) (r ra : BitVec 5) (imm : BitVec 16),
     let x := getThr s t
     let va := rdReg x ra + imm.signExtend 64
     let skewed := fun (i : Instr) (op : BitVec 6) (n : Nat) (srcs : List (BitVec 5)) => IssuesWord s t (wI op r ra imm) srcs = true →
       va.toNat % n ≠ 0 → ∃ u, exec i s = .next u ∧ FaultsAt s u t 0x04
     let barred := fun (i : Instr) (op : BitVec 6) (n : Nat) (k : Access) (srcs : List (BitVec 5)) =>
       IssuesWord s t (wI op r ra imm) srcs = true → va.toNat % n = 0 → (dataXlate s t (wI op r ra imm) va n k).1 = .no →
         ∃ u, exec i s = .next u ∧ FaultsAt s u t 0x06
     skewed (.ldS16 t r ra imm) 0x11 2 [ra] ∧ skewed (.ldS32 t r ra imm) 0x12 4 [ra] ∧ skewed (.ldD t r ra imm) 0x13 8 [ra] ∧
     skewed (.ldU16 t r ra imm) 0x15 2 [ra] ∧ skewed (.ldU32 t r ra imm) 0x16 4 [ra] ∧
     barred (.ldS8 t r ra imm) 0x10 1 .r [ra] ∧ barred (.ldS16 t r ra imm) 0x11 2 .r [ra] ∧
     barred (.ldS32 t r ra imm) 0x12 4 .r [ra] ∧ barred (.ldD t r ra imm) 0x13 8 .r [ra] ∧
     barred (.ldU8 t r ra imm) 0x14 1 .r [ra] ∧ barred (.ldU16 t r ra imm) 0x15 2 .r [ra] ∧
     barred (.ldU32 t r ra imm) 0x16 4 .r [ra] ∧
     skewed (.st16 t r ra imm) 0x19 2 [ra, r] ∧ skewed (.st32 t r ra imm) 0x1A 4 [ra, r] ∧ skewed (.stD t r ra imm) 0x1B 8 [ra, r] ∧
     barred (.st8 t r ra imm) 0x18 1 .w [ra, r] ∧ barred (.st16 t r ra imm) 0x19 2 .w [ra, r] ∧
     barred (.st32 t r ra imm) 0x1A 4 .w [ra, r] ∧ barred (.stD t r ra imm) 0x1B 8 .w [ra, r])

/-- R194: a branch continues at PC + 4 × the offset where its condition holds, else at PC + 4; no register changes.
R194: jumps, calls and returns: where they go, and the link they write; a target that is not a multiple of 4 is an
alignment fault. -/
def Obligations.ControlTransfers : Prop :=
  (∀ (s : State) (t : ThreadId) (ra rb : BitVec 5) (off : BitVec 16),
     let x := getThr s t
     let a := rdReg x ra
     let b := rdReg x rb
     let goes := fun (op : BitVec 6) (i : Instr) (c : Prop) [Decidable c] => IssuesWord s t (wI op ra rb off) [ra, rb] = true →
       ∃ u, exec i s = .next u ∧ Retired s u t 0 0 (if c then x.pc + off.signExtend 64 * 4 else x.pc + 4)
     goes 0x20 (.brEq t ra rb off) (a = b) ∧ goes 0x21 (.brNe t ra rb off) (a ≠ b) ∧
     goes 0x22 (.brLt t ra rb off) (a.toInt < b.toInt) ∧ goes 0x23 (.brGe t ra rb off) (b.toInt ≤ a.toInt) ∧
     goes 0x24 (.brLtu t ra rb off) (a.toNat < b.toNat) ∧ goes 0x25 (.brGeu t ra rb off) (b.toNat ≤ a.toNat)) ∧
  (∀ (s : State) (t : ThreadId) (rd ra : BitVec 5) (imm : BitVec 16) (off : BitVec 26),
     let x := getThr s t
     let far := x.pc + off.signExtend 64 * 4
     let near := rdReg x ra + imm.signExtend 64
     let back := rdReg x 31
     let can := fun (w : Half) (srcs : List (BitVec 5)) => IssuesWord s t w srcs = true
     (can (wJ 0x26 off) [] → ∃ u, exec (.jmp t off) s = .next u ∧ Retired s u t 0 0 far) ∧
     (can (wJ 0x28 off) [] → ∃ u, exec (.call t off) s = .next u ∧ Retired s u t 31 (x.pc + 4) far) ∧
     (can (wI 0x27 rd ra imm) [ra] →
       (near.toNat % 4 = 0 → ∃ u, exec (.jmpr t rd ra imm) s = .next u ∧ Retired s u t rd (x.pc + 4) near) ∧
       (near.toNat % 4 ≠ 0 → ∃ u, exec (.jmpr t rd ra imm) s = .next u ∧ FaultsAt s u t 0x04)) ∧
     (can (wI 0x29 0 ra imm) [ra] →
       (near.toNat % 4 = 0 → ∃ u, exec (.callr t 0 ra imm) s = .next u ∧ Retired s u t 31 (x.pc + 4) near) ∧
       (near.toNat % 4 ≠ 0 → ∃ u, exec (.callr t 0 ra imm) s = .next u ∧ FaultsAt s u t 0x04)) ∧
     (can (wI 0x2A 0 0 0) [31] →
       (back.toNat % 4 = 0 → ∃ u, exec (.ret t 0 0 0) s = .next u ∧ Retired s u t 0 0 back) ∧
       (back.toNat % 4 ≠ 0 → ∃ u, exec (.ret t 0 0 0) s = .next u ∧ FaultsAt s u t 0x04)))

/-- R191, R196, R197: what the system group does, and where it waits. -/
def Obligations.SystemGroupResults : Prop :=
  ∀ (s : State) (t : ThreadId) (rd ra : BitVec 5) (imm8 : BitVec 8),
    let x := getThr s t
    let a := rdReg x ra
    let can := fun (sub : BitVec 8) (r : BitVec 5) (k : BitVec 8) (srcs : List (BitVec 5)) => IssuesWord s t (wS sub 0 r k) srcs = true
    (can 0x00 0 0 [] →
      (x.loads = [] ∧ x.stores = [] → ∃ u, exec (.fence t 0 0 0) s = .next u ∧ Retired s u t 0 0 (x.pc + 4)) ∧
      (x.loads ≠ [] ∨ x.stores ≠ [] → ∃ u, exec (.fence t 0 0 0) s = .next u ∧ WaitsAt s u t .fence)) ∧
    (can 0x01 0 0 [] → ∃ u, exec (.yield t 0 0 0) s = .next u ∧ WaitsAt s u t .yield) ∧
    (can 0x02 0 0 [] →
      (x.stores = [] → ∃ u, exec (.exit t 0 0 0) s = .next u ∧ (getThr u t).st = .free ∧ (getThr u t).g = [] ∧
        OtherThreads s u t ∧ QuietBut s u) ∧
      (x.stores ≠ [] → ∃ u, exec (.exit t 0 0 0) s = .next u ∧ WaitsAt s u t .fence ∧ (getThr u t).after = .leave ∧
        (getThr u t).loads = [])) ∧
    (IssuesWord s t (wS 0x04 rd 0 imm8) [] = true → imm8.toNat < 0x10 → ∀ v, statusReg s t x.lease imm8 = some v →
      ∃ u, exec (.srr t rd 0 imm8) s = .next u ∧ Retired s u t rd v (x.pc + 4)) ∧
    (can 0x03 0 imm8 [1] →
      (imm8.toNat < 128 → ∃ u, exec (.trap t 0 0 imm8) s = .next u ∧ Retired s u t 0 0 (x.pc + 4) ∧
        (s.perf.ctl = [] → s.repQ.length < 16 → ∃ r rest, u.repQ = s.repQ ++ r :: rest ∧ r.cause = 0x09 ∧ r.thread = some t ∧
          r.lease = x.lease ∧ r.pc = x.pc ∧ r.detail0 = imm8.setWidth 64 ∧ r.detail1 = rdReg x 1 ∧ r.halted = false ∧
          r.seq = (getRt s x.lease).repSeq + 1)) ∧
      (128 ≤ imm8.toNat → ∃ u, exec (.trap t 0 0 imm8) s = .next u ∧ getThr u t = halted x 0x09 false .trap ∧
        OtherThreads s u t ∧ QuietBut s u)) ∧
    (can 0x05 ra 0 [ra] →
      (a.toNat ≤ s.beat.count.toNat → ∃ u, exec (.beatw t 0 ra 0) s = .next u ∧ Retired s u t 0 0 (x.pc + 4)) ∧
      (s.beat.count.toNat < a.toNat → ∃ u, exec (.beatw t 0 ra 0) s = .next u ∧ WaitsAt s u t .beat ∧
        (getThr u t).arg = a))

/-- R197: the status registers that every lease reads.
R394: the three conditions under which SRR reads a performance counter, and the fault of any other read. -/
def Obligations.StatusRegisters : Prop :=
  (∀ (s : State) (t : ThreadId) (l : Nat), l < 16 →
     statusReg s t l 0x00 = some (BitVec.ofNat 64 (t.core.val * 16 + t.num.val)) ∧
     (∃ v, statusReg s t l 0x01 = some v ∧ bits v 3 0 = l ∧ bits v 5 4 = leaseClass s l ∧ v.getLsbD 6 = legacy s l ∧
       bits v 63 7 = 0) ∧
     statusReg s t l 0x03 = some s.beat.count ∧
     (s.fuse.activeGroups ≤ 64 → ∃ v, statusReg s t l 0x08 = some v ∧ bits v 23 16 = s.fuse.activeGroups ∧ bits v 8 0 = 256)) ∧
  (∀ (s : State) (t : ThreadId) (rd : BitVec 5) (n : Nat), n < 16 →
     let x := getThr s t
     let l := x.lease
     let ctl := Tab.get 0 s.perf.ctl n
     let i := Instr.srr t rd 0 (BitVec.ofNat 8 (0x10 + n))
     let w := wS 0x04 rd 0 (BitVec.ofNat 8 (0x10 + n))
     let may := perfUser s l = true ∧ ctl.getLsbD 24 = true ∧ bits ctl 23 20 = l
     IssuesWord s t w [] = true → (∀ kc ∈ s.perf.ctl, perfMatches kc.2 0x060 (srcThread x t w) = false) →
       (may → ∃ u, exec i s = .next u ∧ Retired s u t rd (Tab.get 0 s.perf.val n) (x.pc + 4)) ∧
       (¬ may → ∃ u, exec i s = .next u ∧ FaultsAt s u t 0x02 ∧
         (s.repQ.length < 16 → ∃ r, u.repQ = s.repQ ++ [r] ∧ r.cause = 0x02 ∧ r.detail0 = BitVec.ofNat 64 (0x10 + n) ∧
           r.detail1 = 5 ∧ r.halted = true)))

/-- R198, R210: a span instruction that passes the decode checks is offered for its crossing with the values of its operand
registers, and the thread goes on after its words, which are the ones it has fetched (R193, R209).
R227: SLOT.STAT is offered, and its thread waits in LOAD until the crossing. -/
def Obligations.SpanInstructionsOffered : Prop :=
  (∀ (s : State) (t : ThreadId) (f : BitVec 20) (w1 w2 : BitVec 32),
     let x := getThr s t
     let offers := fun (i : Instr) (op : SpanOp) (n : Nat) (w0 v1 v2 : Half) (a b c d : BitVec 5) =>
       IssuesWord s t w0 [a, b, c, d] = true → (1 < n → fetched s t 1 v1 = true) → (2 < n → fetched s t 2 v2 = true) →
         let j : SpanI := { op := op, lease := x.lease, th := t, inst := x.inst, pc := x.pc, w0 := w0, w1 := v1, w2 := v2
                            a := rdReg x a, b := rdReg x b, c := rdReg x c, d := rdReg x d }
         ∃ u, exec i s = .next u ∧ Retired s u t 0 0 (x.pc + BitVec.ofNat 64 (4 * n)) ∧
           (getCore u t.core.val).offers = (getCore s t.core.val).offers ++ [{ j with sure := sureToCross s j }]
     let ra := fRA f
     let rb := fRB f
     let rc := fRC f
     let ao := bits f 2 0 = 0
     let sig := bits w1 31 9 = 0 ∧ sigOk w1 = true
     (ao → rb = 0 →
       offers (.passFwd t 0 f) .passFwd 1 (wX 0x30 0 0 f) 0 0 ra 0 rc 0 ∧
       offers (.passDx t 0 f) .passDx 1 (wX 0x30 0 1 f) 0 0 ra 0 rc 0 ∧
       offers (.passDw t 0 f) .passDw 1 (wX 0x30 0 2 f) 0 0 ra 0 rc 0 ∧
       offers (.drain t 0 f) .drain 1 (wX 0x32 0 0 f) 0 0 ra 0 rc 0) ∧
     (ao → bits w1 31 8 = 0 → offers (.passPair t 1 f w1) .passPair 2 (wX 0x30 1 3 f) w1 0 ra rb rc 0) ∧
     (rb = 0 → rc = 0 → bits w1 15 13 = 0 → bits w1 12 0 ≠ 0 → bits w1 22 20 ≠ 0 → bits w1 19 16 ≠ 0 →
       offers (.slotOpen t 1 f w1) .slotOpen 2 (wX 0x31 1 0 f) w1 0 ra 0 0 0) ∧
     (ra = 0 → rb = 0 → rc = 0 → offers (.slotClose t 0 f) .slotClose 1 (wX 0x31 0 1 f) 0 0 0 0 0 0) ∧
     (ra = 0 → rb = 0 → sig →
       offers (.slotSpill t 1 f w1) .slotSpill 2 (wX 0x31 1 2 f) w1 0 0 0 rc 0 ∧
       offers (.slotFill t 1 f w1) .slotFill 2 (wX 0x31 1 3 f) w1 0 0 0 rc 0) ∧
     (rb = 0 →
       offers (.streamArm t 0 f) .streamArm 1 (wX 0x33 0 0 f) 0 0 ra 0 rc 0 ∧
       offers (.streamRearm t 0 f) .streamRearm 1 (wX 0x33 0 1 f) 0 0 ra 0 rc 0) ∧
     offers (.streamRearmRows t 0 f) .streamRearmRows 1 (wX 0x33 0 4 f) 0 0 ra rb rc 0 ∧
     (ra = 0 → rb = 0 →
       offers (.streamResume t 0 f) .streamResume 1 (wX 0x33 0 2 f) 0 0 0 0 rc 0 ∧
       offers (.streamQuiesce t 0 f) .streamQuiesce 1 (wX 0x33 0 3 f) 0 0 0 0 rc 0) ∧
     (rb = 0 → fLow f = 0 → sig →
       offers (.rowsetCommit t 1 f w1) .rowsetCommit 2 (wX 0x34 1 0 f) w1 0 ra 0 rc 0 ∧
       offers (.updIssue t 1 f w1) .updIssue 2 (wX 0x3A 1 0 f) w1 0 ra 0 rc 0 ∧
       (∀ kc ∈ [((0 : Fin 10), Instr.vecAdd), (1, .vecMul), (2, .vecFma), (3, .vecAxpb), (4, .vecRsum), (5, .vecCsum),
           (6, .vecRssq), (7, .vecRsqrt), (8, .vecArgmax), (9, .vecArgmin)],
         offers (kc.2 t 1 f w1) (.vec kc.1) 2 (wX 0x37 1 (BitVec.ofNat 4 kc.1.val) f) w1 0 ra 0 rc 0)) ∧
     (fLow f = 0 → bits w1 31 12 = 0 → bits w1 9 9 = 0 → sigOk w1 = true →
       offers (.rotLoadMatrix t 1 f w1) .rotMatrix 2 (wX 0x35 1 0 f) w1 0 ra rb rc 0) ∧
     (bits w1 11 9 = 0 → sigOk w1 = true →
       offers (.rotLoadSmooth t 1 f w1) .rotSmooth 2 (wX 0x35 1 1 f) w1 0 ra rb rc (fLow f)) ∧
     (rb = 0 → fLow f = 0 → bits w1 31 24 = 0 → bits w1 15 9 = 0 → sigOk w1 = true →
       offers (.scaleUpdate t 1 f w1) .scaleUpdate 2 (wX 0x36 1 0 f) w1 0 ra 0 rc 0) ∧
     (rb = 0 → fLow f = 0 → chainOk w1 w2 = true →
       offers (.chainSend t 2 f w1 w2) .chainSend 3 (wX 0x38 2 0 f) w1 w2 ra 0 rc 0 ∧
       offers (.chainRecv t 2 f w1 w2) .chainRecv 3 (wX 0x38 2 1 f) w1 w2 ra 0 rc 0) ∧
     (fLow f = 0 → bits w1 15 9 = 0 → sigOk w1 = true →
       offers (.mcSend t 1 f w1) .mcSend 2 (wX 0x39 1 0 f) w1 0 ra rb rc 0)) ∧
  (∀ (s : State) (t : ThreadId) (f : BitVec 20), fRA f = 0 → fRC f = 0 →
     IssuesWord s t (wX 0x31 0 4 f) [] = true →
     ∃ u, exec (.slotStat t 0 f) s = .next u ∧ WaitsAt s u t .load ∧
       ∃ i, (getCore u t.core.val).offers = (getCore s t.core.val).offers ++ [i] ∧ i.op = .slotStat ∧ i.th = t ∧
         i.lease = (getThr s t).lease ∧ i.pc = (getThr s t).pc ∧ i.w0 = wX 0x31 0 4 f)

/-- R249, R250, R252 to R254, R257: what the CNT family does to the named counter, and where it waits. -/
def Obligations.CounterInstructions : Prop :=
  ∀ (s : State) (t : ThreadId) (rd ra : BitVec 5) (imm : Bool) (n : BitVec 8),
    let x := getThr s t
    let c := getCnt s n.toNat
    let a : Word := if imm then ra.setWidth 64 else rdReg x ra
    let f := cntFields 0 ra imm n
    let only := fun (u : State) (c' : Counter) =>
      getCnt u n.toNat = c' ∧ Retired { s with cnt := u.cnt } u t 0 0 (x.pc + 4) ∧ (∀ k, k ≠ n.toNat → getCnt u k = getCnt s k)
    let can := fun (sub : BitVec 4) (g : BitVec 20) => fetched s t 0 (wX 0x3B 0 sub g) = true
    let g := cntFields rd ra imm n
    Issues s t (if imm then [] else [ra]) = true → cntInRange s x.lease n.toNat = true →
      (can 0 f → a ≠ 0 → c.p.toNat + a.toNat < 2 ^ 64 → c.p.toNat + a.toNat - c.c.toNat ≤ c.cap.toNat →
        ∃ u, exec (.cntSig t 0 f) s = .next u ∧ only u { c with p := c.p + a, copyBad := 0 }) ∧
      (a ≠ 0 → a.toNat ≤ c.p.toNat - c.c.toNat →
        (can 1 f → ∃ u, exec (.cntTake t 0 f) s = .next u ∧ only u { c with c := c.c + a, copyBad := 0 }) ∧
        (can 3 f → a.toNat ≤ c.cap.toNat →
          ∃ u, exec (.cntWtake t 0 f) s = .next u ∧ only u { c with c := c.c + a, copyBad := 0 })) ∧
      (can 2 f → a.toNat ≤ c.cap.toNat → a.toNat ≤ c.p.toNat - c.c.toNat →
        ∃ u, exec (.cntWait t 0 f) s = .next u ∧ Retired s u t 0 0 (x.pc + 4)) ∧
      (a.toNat ≤ c.cap.toNat → c.p.toNat - c.c.toNat < a.toNat →
        (can 2 f → ∃ u, exec (.cntWait t 0 f) s = .next u ∧ WaitsAt s u t .counter ∧ (getThr u t).amount = a) ∧
        (can 3 f → ∃ u, exec (.cntWtake t 0 f) s = .next u ∧ WaitsAt s u t .counter ∧ (getThr u t).amount = a ∧
          (getThr u t).after = .take)) ∧
      (can 4 g → ∃ u, exec (.cntRdp t 0 g) s = .next u ∧ Retired s u t rd c.p (x.pc + 4)) ∧
      (can 5 g → ∃ u, exec (.cntRdc t 0 g) s = .next u ∧ Retired s u t rd c.c (x.pc + 4)) ∧
      (can 6 f → capOk s n.toNat a = true → ∃ u, exec (.cntCap t 0 f) s = .next u ∧ only u { c with cap := a.setWidth 32 })

/-- R201, R249, R253, R254, R257, R261: a CNT instruction that would break the counter's bound, take what is not there, wait
for more than CAPACITY, or name a counter outside the lease's range halts its thread and changes no counter. -/
def Obligations.CounterFaults : Prop :=
  ∀ (s : State) (t : ThreadId) (ra : BitVec 5) (imm : Bool) (n : BitVec 8),
    let x := getThr s t
    let c := getCnt s n.toNat
    let a : Word := if imm then ra.setWidth 64 else rdReg x ra
    let f := cntFields 0 ra imm n
    let halts := fun (sub : BitVec 4) (i : Instr) (cause : Byte) => fetched s t 0 (wX 0x3B 0 sub f) = true →
      ∃ u, exec i s = .next u ∧ FaultsAt s u t cause
    Issues s t (if imm then [] else [ra]) = true →
      (cntInRange s x.lease n.toNat = false →
        ∀ k ∈ [(0, Instr.cntSig), (1, .cntTake), (2, .cntWait), (3, .cntWtake), (4, .cntRdp), (5, .cntRdc), (6, .cntCap)],
          halts k.1 (k.2 t 0 f) 0x02) ∧
      (cntInRange s x.lease n.toNat = true →
        (a ≠ 0 → (2 ^ 64 ≤ c.p.toNat + a.toNat ∨ c.cap.toNat < c.p.toNat + a.toNat - c.c.toNat) → halts 0 (.cntSig t 0 f) 0x08) ∧
        (c.p.toNat - c.c.toNat < a.toNat → halts 1 (.cntTake t 0 f) 0x07) ∧
        (c.cap.toNat < a.toNat → halts 2 (.cntWait t 0 f) 0x03 ∧ halts 3 (.cntWtake t 0 f) 0x03) ∧
        (a = 0 ∨ 2 ^ 32 ≤ a.toNat ∨ a.toNat < c.p.toNat - c.c.toNat → halts 6 (.cntCap t 0 f) 0x03))

/-- R249, R250, R255, R263, R267, R463: the debug view of a counter: a signal, CAPACITY and its refusal, and P and C, which
only a counter that no lease holds takes; and a bit that the hardware sets in the cycle of the write stays set (R9). -/
def Obligations.CounterDebugView : Prop :=
  ∀ (s : State) (n : Fin 192) (v : Word), s.eng.scrubDone = true →
    let c := getCnt s n.val
    let quiet := hwNow s .span (0x20010 + 32 * n.val) = 0
    (stopping s = false → v ≠ 0 → c.p.toNat + v.toNat < 2 ^ 64 → c.p.toNat + v.toNat - c.c.toNat ≤ c.cap.toNat →
      ∃ u, exec (.cntSignal n v) s = .next u ∧ u = setCnt s n.val { c with p := c.p + v, copyBad := 0 }) ∧
    (stopping s = false → v ≠ 0 → c.cap.toNat < c.p.toNat + v.toNat - c.c.toNat →
      ∃ u, exec (.cntSignal n v) s = .next u ∧ getCnt u n.val = { c with ovf := true }) ∧
    (quiet → v.getLsbD 33 = true → v.getLsbD 34 = true → fld v 0 32 = c.cap →
      ∃ u, exec (.cntCfg n v) s = .next u ∧ u = setCnt s n.val { c with ovf := false, capRefused := false }) ∧
    (quiet → v.getLsbD 33 = false → v.getLsbD 34 = false → fld v 0 32 ≠ c.cap → capOk s n.val (v &&& 0xFFFFFFFF) = true →
      ∃ u, exec (.cntCfg n v) s = .next u ∧ u = setCnt s n.val { c with cap := fld v 0 32 }) ∧
    (quiet → v.getLsbD 33 = false → v.getLsbD 34 = false → fld v 0 32 ≠ c.cap → capOk s n.val (v &&& 0xFFFFFFFF) = false →
      ∃ u, exec (.cntCfg n v) s = .next u ∧ u = setCnt s n.val { c with capRefused := true }) ∧
    (hwNow s .span (0x20010 + 32 * n.val) = 2 ^ 33 → v.getLsbD 34 = false → fld v 0 32 = c.cap →
      ∃ u, exec (.cntCfg n v) s = .next u ∧ u = setCnt s n.val c) ∧
    (cntOwner s n.val = none → c.c.toNat ≤ v.toNat → v.toNat - c.c.toNat ≤ c.cap.toNat →
      ∃ u, exec (.cntPcWrite n false v) s = .next u ∧ u = setCnt s n.val { c with p := v, copyBad := 0 }) ∧
    (cntOwner s n.val = none → v.toNat ≤ c.p.toNat → c.p.toNat - v.toNat ≤ c.cap.toNat →
      ∃ u, exec (.cntPcWrite n true v) s = .next u ∧ u = setCnt s n.val { c with c := v, copyBad := 0 }) ∧
    (cntOwner s n.val ≠ none → ∀ h, exec (.cntPcWrite n h v) s = .next s)

/-- R198, R199, R211: the instruction that wins the crossing takes the next issue sequence of its lease where its queue has an
entry, returns to its thread where it has none, and halts its thread with the privilege cause where it fails its lease's
checks; SLOT.STAT takes an issue sequence number too, writes the slot's word to its RD, and its thread goes on (R227). -/
def Obligations.CrossingOutcomes : Prop :=
  ∀ (s : State) (c : Nat) (i : SpanI), stopping s = false → arbitrate s = some (c, i) →
    let room := rearmBusy s i = false ∧ queueRoom s (queueOf i.op) i.lease = true
    (crossFault s i = none → i.op ≠ .slotStat → i.sure = true ∨ room →
      ∃ u, exec .instructionCrossing s = .next u ∧ u.nextUid = s.nextUid + 1 ∧ u.rrCore = c ∧
        (getRt u i.lease).seq = (getRt s i.lease).seq + 1 ∧ (getCore u c).offers = (getCore s c).offers.erase i) ∧
    (crossFault s i = none → i.op ≠ .slotStat → i.sure = false → ¬ room → s.mc.sends = [] →
      (∀ j ∈ s.instrs, queueOf j.op ≠ 2 ∧ queueOf j.op ≠ 4) → ∀ t, issuer s i = some t →
      ∃ u, exec .instructionCrossing s = .next u ∧ (getThr u t).st = .waiting ∧ (getThr u t).reason = .queue ∧
        (getThr u t).pc = i.pc ∧ u.nextUid = s.nextUid) ∧
    (crossFault s i = none → i.op = .slotStat → s.mc.sends = [] → (∀ j ∈ s.instrs, queueOf j.op ≠ 2 ∧ queueOf j.op ≠ 4) →
      ∀ t, issuer s i = some t →
      ∃ u, exec .instructionCrossing s = .next u ∧ (getThr u t).pc = i.pc + 4 ∧ u.nextUid = s.nextUid ∧
        (getRt u i.lease).seq = (getRt s i.lease).seq + 1 ∧ (getCore u c).offers = (getCore s c).offers.erase i ∧
        (∀ r, rdReg (getThr u t) r = if r = fld i.w0 10 5 ∧ r ≠ 0 then (slotStat (getSlot s (bits i.w0 4 0))).setWidth 64
          else rdReg (getThr s t) r) ∧ OtherThreads s u t) ∧
    (crossFault s i ≠ none → ∀ t, issuer s i = some t →
      ∃ u, exec .instructionCrossing s = .next u ∧ (getThr u t).st = .halted ∧ (getThr u t).haltCause = 0x02 ∧
        (getThr u t).pc = i.pc ∧ (getThr u t).g = (getThr s t).g ∧ u.nextUid = s.nextUid)

/-- R184, R189 to R191, R196, R198: what ends the waits for a queue entry, a yield, a load, a store and an instruction line. A
load or store of another endpoint's memory has not ended until its packet is answered (R16, R348); a load that came back
poisoned halts its thread with cause 0x60 (R415, R418). Code in another endpoint's memory is asked for first (log entry
49).
R252: the one thread that waits on a counter goes on once its amount is available, with its take where it waits to take;
of two that wait to take more than there is, the first in core-then-thread order goes on and the other stays as it was. -/
def Obligations.WaitsEnd : Prop :=
  (∀ (s : State) (t : ThreadId),
     let x := getThr s t
     (x.st = .waiting → x.reason = .queue → queueFree s x.lease x.amount.toNat = true →
       ∃ u, exec (.queueEntryFree t) s = .next u ∧ (getThr u t).st = .ready ∧ (getThr u t).pc = x.pc ∧
         (getThr u t).g = x.g ∧ OtherThreads s u t ∧ QuietBut s u) ∧
     (x.st = .waiting → x.reason = .yield →
       ∃ u, exec (.yieldEnd t) s = .next u ∧ Retired s u t 0 0 (x.pc + 4) ∧ (getThr u t).reason ≠ .yield) ∧
     (∀ q rest, x.loads = q :: rest → q.far = none → q.live = true → q.fixed = true → loadPoisoned s q = false →
       ∃ u, exec (.loadReturn t) s = .next u ∧ (getThr u t).loads.length = rest.length ∧
         (∀ r, rdReg (getThr u t) r = if r = q.rd ∧ r ≠ 0 then q.val else rdReg x r) ∧ OtherThreads s u t ∧ QuietBut s u) ∧
     (∀ q rest, x.loads = q :: rest → q.far = none → loadPoisoned s q = true →
       ∃ u, exec (.loadReturn t) s = .next u ∧ (getThr u t).st = .halted ∧ (getThr u t).haltCause = 0x60 ∧
         (getThr u t).pc = q.pc ∧ (getThr u t).g = x.g ∧ OtherThreads s u t ∧ QuietBut s u) ∧
     (∀ q rest, x.stores = q :: rest → q.far = none →
       ∃ u, exec (.storeAck t) s = .next u ∧ (getThr u t).stores = rest ∧
         (rest = [] → x.st = .waiting → x.reason = .fence → x.after = .leave → (getThr u t).st = .free) ∧
         OtherThreads s u t ∧ (lstate s x.lease ≠ .suspended → QuietBut s u)) ∧
     (∀ q rest, x.loads = q :: rest → q.far.isSome = true → exec (.loadReturn t) s = .next s) ∧
     (∀ q rest, x.stores = q :: rest → q.far.isSome = true → exec (.storeAck t) s = .next s) ∧
     (∀ line, x.st = .waiting → x.reason = .fetch → missingLine s t = some line →
       let w := if line = x.pc.toNat / 64 then 0 else (cachedWord (getCore s t.core.val) x.lease x.pc).getD 0
       let r := codeXlate s t (BitVec.ofNat 64 (64 * line)) w
       (∀ pa, r.1 = .at pa → inMap r.2 pa 64 = true → farWaits r.2 x.lease pa 64 = false → cutOff r.2 pa 64 = false →
         ∃ u, exec (.icacheLineArrive t) s = .next u ∧ (getThr u t).pc = x.pc ∧ (getThr u t).g = x.g ∧
           icLine (getCore u t.core.val) x.lease line = some ⟨x.lease, line, memBytes s pa 64⟩ ∧ OtherThreads s u t ∧ QuietBut s u) ∧
       (∀ pa, r.1 = .at pa → inMap r.2 pa 64 = true → farWaits r.2 x.lease pa 64 = true →
         ∃ u, exec (.icacheLineArrive t) s = .next u ∧ getThr u t = x ∧ OtherThreads s u t ∧ QuietBut s u) ∧
       (r.1 = .wait → ∃ u, exec (.icacheLineArrive t) s = .next u ∧ getThr u t = x ∧ OtherThreads s u t ∧ QuietBut s u) ∧
       (r.1 = .no → ∃ u, exec (.icacheLineArrive t) s = .next u ∧ FaultsAt s u t 0x05))) ∧
  (∀ (s : State) (t : ThreadId) (n : Fin 192),
     let x := getThr s t
     let c := getCnt s n.val
     let waits := fun (k : ThreadId) => (getThr s k).st = .waiting ∧ (getThr s k).reason = .counter ∧ bits (getThr s k).arg 7 0 = n.val
     waits t → x.amount ≠ 0 → x.amount.toNat ≤ c.p.toNat - c.c.toNat →
       ((∀ k, k ≠ t → ¬ waits k) →
         ∃ u, exec (.counterWaitEnd n) s = .next u ∧ Retired { s with cnt := u.cnt } u t 0 0 (x.pc + 4) ∧
           getCnt u n.val = (if x.after = .take then { c with c := c.c + x.amount, copyBad := 0 } else c) ∧
           (∀ k, k ≠ n.val → getCnt u k = getCnt s k)) ∧
       (∀ k, waits k → thrKey t < thrKey k → x.after = .take → (getThr s k).after = .take →
         c.p.toNat - c.c.toNat < x.amount.toNat + (getThr s k).amount.toNat → (∀ j, j ≠ t → j ≠ k → ¬ waits j) →
         ∃ u, exec (.counterWaitEnd n) s = .next u ∧ Retired { s with cnt := u.cnt } u t 0 0 (x.pc + 4) ∧
           getCnt u n.val = { c with c := c.c + x.amount, copyBad := 0 }))

/-- R182, R357: a task is placed on the first free thread with its entry as PC, its arguments in g1 to g4 and every other
register 0, after its take from the start counter. -/
def Obligations.TaskPlacement : Prop :=
  ∀ (s : State) (l k : Nat) (t : ThreadId) (e : Task), stopping s = false → waitingFrames s = none →
    nextCandidate s = some (l, k) → allThreads.find? (freeThread s) = some t → (getRt s l).tasks[k]? = some e →
    e.amount ≠ 0 →
      ∃ u, exec .taskPlacement s = .next u ∧ (getThr u t).pc = e.entry ∧ (getThr u t).lease = l ∧ (getThr u t).task = k ∧
        (getThr u t).inst = (getRt s l).nextInst ∧
        (∀ j : Fin 4, rdReg (getThr u t) (BitVec.ofNat 5 (j.val + 1)) = e.args[j]) ∧
        (∀ r : BitVec 5, 4 < r.toNat → rdReg (getThr u t) r = 0) ∧
        getCnt u e.cnt.toNat = { getCnt s e.cnt.toNat with c := (getCnt s e.cnt.toNat).c + e.amount.setWidth 64, copyBad := 0 } ∧
        OtherThreads s u t ∧ u.mem = s.mem

/-- R206, R462: the host's actions on a thread, those that are refused, and its writes of a halted thread's frame. That a
killed thread with stores outstanding waits in FENCE until they are acknowledged is the model's reading (log entry 39,
DEDUCED). An action field of 0 or of 5 to 7 is refused (log entry 10). -/
def Obligations.ThreadControl : Prop :=
  ∀ (s : State) (t : ThreadId) (v : Word) (r : BitVec 5), s.eng.scrubDone = true →
    let x := getThr s t
    let goesOn := fun (i : Instr) (pc : Word) => ∃ u, exec i s = .next u ∧ Retired s u t 0 0 pc ∧
      (cachedWord (getCore s t.core.val) x.lease pc = none → (getThr u t).st = .waiting ∧ (getThr u t).reason = .fetch) ∧
      ((getThr u t).st = .halted → (getThr u t).haltCause = 0x01 ∨ (getThr u t).haltCause = 0x05) ∧ (getThr u t).refused = x.refused
    let refused := fun (i : Instr) => exec i s = .next (setThr s t { x with refused := true })
    (x.st = .halted → x.haltKind = .precise → goesOn (.threadResume t) x.pc) ∧
    (x.st = .halted → x.haltKind = .precise ∨ x.haltKind = .trap →
      goesOn (.threadSkip t) (x.pc + BitVec.ofNat 64 (4 * wordsAt s t))) ∧
    (x.st = .halted → goesOn (.threadRestart t) x.pc) ∧
    (x.st ≠ .free → x.stores = [] →
      ∃ u, exec (.threadKill t) s = .next u ∧ (getThr u t).st = .free ∧ OtherThreads s u t ∧ QuietBut s u) ∧
    (x.st ≠ .free → x.stores ≠ [] →
      ∃ u, exec (.threadKill t) s = .next u ∧ WaitsAt s u t .fence ∧ (getThr u t).after = .leave ∧ (getThr u t).killed = true) ∧
    (x.st ≠ .halted ∨ x.haltKind = .imprecise ∨ x.haltKind = .trap → refused (.threadResume t)) ∧
    (x.st ≠ .halted ∨ x.haltKind = .imprecise → refused (.threadSkip t)) ∧
    (x.st ≠ .halted → refused (.threadRestart t)) ∧
    (x.st = .halted → r ≠ 0 → ∃ u, exec (.threadFrameWrite t (BitVec.ofNat 9 (8 * (r.toNat - 1))) v) s = .next u ∧
      Retired s u t r v x.pc ∧ (getThr u t).st = .halted) ∧
    (x.st = .halted → v.toNat % 4 = 0 → ∃ u, exec (.threadFrameWrite t 0x0F8 v) s = .next u ∧ Retired s u t 0 0 v) ∧
    (v.toNat % 4 ≠ 0 → refused (.threadFrameWrite t 0x0F8 v)) ∧
    (x.st ≠ .halted → refused (.threadFrameWrite t (BitVec.ofNat 9 (8 * r.toNat)) v)) ∧
    (v.getLsbD 3 = false → bits v 2 0 = 0 ∨ 5 ≤ bits v 2 0 → refused (.threadFrameWrite t 0x1F8 v))

/-- R213, R216, R222: the descriptor of a pass or a DRAIN, or both of a pair, that arrive and pass the static checks are held
by the unit; an AO form ends with its descriptor cached; a descriptor at an address that is not a multiple of 64, of 128
for a DRAIN, faults with check 3, which the CONFIG report names with that address (log entry 45).
R212, R220, R221: the pass that stands next, with its descriptor, slots and operands at hand, takes the free array, no
interval of it sent. -/
def Obligations.PassTakesArray : Prop :=
  (∀ (s : State) (u : Nat) (i : SpanI), getInstr s u = some i → unitTakes s i = true →
     let one := readDesc s (accI i) i.a 64 (isReload i)
     let two := readDesc one.2 (accI i) i.b 64 (isReload i)
     let long := readDesc s (accI i) i.a 128 (isReload i)
     let holds := fun (d e : List Word) => ∃ v j, exec (.descriptorArrive u) s = .next v ∧ getInstr v u = some j ∧ j.ready = true ∧
       j.stage = .taken ∧ j.desc = d ∧ j.desc2 = e ∧ v.mem = s.mem ∧ v.cnt = s.cnt
     let ends := ∃ v, exec (.descriptorArrive u) s = .next v ∧ getInstr v u = none ∧ v.mem = s.mem ∧ v.cnt = s.cnt ∧
       v.gir = s.gir ∧ v.repQ = s.repQ
     let skewed := fun (a : Word) => ∃ v, exec (.descriptorArrive u) s = .next v ∧ FailsWith s v i 0x03 3 a
     (isPass i.op = true → i.op ≠ .passPair →
       (∀ d, i.a.toNat % 64 = 0 → one.1 = .ok d → passVerdict i d [] = .ok →
         (isAO i = false → i.desc2 = [] → holds d []) ∧ (isAO i = true → ends)) ∧
       (i.a.toNat % 64 ≠ 0 → skewed i.a)) ∧
     (i.op = .passPair →
       (∀ d e, i.a.toNat % 64 = 0 → i.b.toNat % 64 = 0 → one.1 = .ok d → two.1 = .ok e → passVerdict i d e = .ok →
         (isAO i = false → holds d e) ∧ (isAO i = true → ends)) ∧
       (i.a.toNat % 64 ≠ 0 → skewed i.a) ∧ (i.a.toNat % 64 = 0 → i.b.toNat % 64 ≠ 0 → skewed i.b)) ∧
     (i.op = .drain →
       (∀ d, i.a.toNat % 128 = 0 → long.1 = .ok d → drainStatic d (!isAO i && statusSkew i) i.a = .ok →
         (isAO i = false → holds d i.desc2) ∧ (isAO i = true → ends)) ∧
       (i.a.toNat % 128 ≠ 0 → skewed i.a))) ∧
  (∀ (s : State) (u : Nat) (i : SpanI) (parts : List PassPart), getInstr s u = some i → isPass i.op = true →
     isAO i = false → i.ready = true → i.stage ≠ .running → takes s i.lease = true → passHeld s i = false →
     slotsClear s i ((opSlots s i).getD []) = true → passUnderWay s i = false → standsNext s = some i.lease →
     s.arr.run = none → arrayOut s = false → statusWaits s i = false → (passPlan s i).1 = (.ok, parts) →
     let j := { i with mask := some (planMask parts) }
     (∀ p ∈ parts, partN p ≠ 0) → parts ≠ [] → (armStatus (putInstr (passPlan s i).2 j) j).1 = false →
     (∀ p ∈ parts, (getSlot s p.slot).st ≠ .spilled) →
       ∃ v r, exec (.passStart u) s = .next v ∧ v.arr.run = some r ∧ r.u = i.u ∧ r.lease = i.lease ∧ r.t = 0 ∧ r.q = 0 ∧
         r.stop = none ∧ r.parts = parts ∧ v.arr.warm = true ∧ v.cnt = s.cnt ∧ v.mem = s.mem ∧ v.gir.ent = s.gir.ent)

/-- R78, R79: the edges send one period: the next element of an interval where nothing stands in the way, a bubble where the
throttle takes the period.
R67, R91, R95: a diagonal that ends an interval has one more committed; with an error found, no entry is written and the
pass stops.
R67, R83, R86, R104, R112: at the error-free end of an interval, the entry of every element whose cluster had not
committed the interval holds the promotion of what it held with the partial sum of its two blocks. The hypotheses on the
slot hold wherever a slot is bound: its factors divide the array, and its segments are distinct segments of the Girder. -/
def Obligations.ElementPeriodsAndIntervals : Prop :=
  (∀ (s : State) (r : PassRun) (k it : Nat) (p : PassPart), s.arr.run = some r → takesMade r = true → nextPart r = some (k, p, it) →
     r.t < edgeGoal r →
       (throttleLevel s ≤ bitrev4 s.arr.phase → bankStall s r = false → r.q ≠ 0 → r.q + 1 < p.p →
         ∃ v, exec (.elementPeriod false false) s = .next v ∧
           v.arr.run = some { r with sent := r.sent + p.s, q := r.q + 1, starved := 0,
                                        times := Tab.put r.times r.t (Tab.get [] r.times r.t ++ [r.sent]) } ∧
           v.arr.phase = s.arr.phase + 1 ∧ v.gir = s.gir ∧ v.cnt = s.cnt ∧ v.mem = s.mem) ∧
       (bitrev4 s.arr.phase < throttleLevel s → ∀ dry back,
         ∃ v, exec (.elementPeriod dry back) s = .next v ∧ v.arr.run = some { r with sent := r.sent + p.s } ∧
           v.arr.phase = s.arr.phase + 1 ∧ v.gir = s.gir ∧ v.cnt = s.cnt ∧ v.mem = s.mem)) ∧
  (∀ (s : State) (r : PassRun) (d : Fin 319) (errs : List (Nat × Nat)), s.arr.run = some r → mayEnd r d.val = true →
     diagonalStall s r d.val = false →
       (∃ v q, exec (.intervalEnd d []) s = .next v ∧ v.arr.run = some q ∧
         q.counts = r.counts.set d.val (r.counts.getD d.val 0 + 1) ∧ q.t = r.t ∧ q.u = r.u ∧ q.stop = r.stop ∧
         v.mem = s.mem ∧ v.cnt = s.cnt) ∧
       (errorCells s r d.val (r.counts.getD d.val 0) errs ≠ [] → r.stop = none ∨ r.stop = some .preempt →
         ∃ v q, exec (.intervalEnd d errs) s = .next v ∧ v.arr.run = some q ∧
         q.stop = some .fault ∧ q.counts = r.counts ∧ v.gir.ent = s.gir.ent ∧ v.mem = s.mem ∧ v.cnt = s.cnt)) ∧
  (∀ (s : State) (r : PassRun) (d : Fin 319) (p : PassPart) (row g jj seg : Nat), s.arr.run = some r → mayEnd r d.val = true →
     diagonalStall s r d.val = false →
     let t := r.counts.getD d.val 0
     let tau := t % max 1 (runN r)
     let pt := runSched r tau
     let sweep := t / max 1 (runN r)
     let x := getSlot s p.slot
     let c := Tab.get {} r.blocks tau
     let j := 64 * (sweep * r.groups + g) + jj
     let i := row % (256 / p.fr)
     let k := j % (4096 / p.fc)
     let q := j / (4096 / p.fc) * p.fr + row / (256 / p.fr)
     let e := getEnt s row (512 * seg + j % 512)
     let b := cellBlocks p c q i k
     r.parts[pt.1]? = some p → x.fr = p.fr → x.fc = p.fc → p.fr ∈ [1, 2, 4] → p.fc ∈ [1, 2, 4, 8] → x.segs.Nodup →
     (∀ y ∈ x.segs, y < 64) → (row, g) ∈ diagonal r.groups d.val → jj < 64 → j < 4096 → i < p.rows → k < p.cols →
     (bandBlock p pt.2 q).isSome = true → rowOk p i = true → (Tab.get {} c.west (256 * q + i)).live = true →
     suppressed r (sweep * r.groups + g) row tau = false → x.segs[j / 512]? = some seg → e.chk = 0 →
     x.poisonRows.getLsbD row = false →
       ∃ v, exec (.intervalEnd d []) s = .next v ∧ getEnt v row (512 * seg + j % 512) =
         (promote e (cellInterval b.1 b.2).1 (zpRaw p (if p.serial then b.1 else b.2) (cellInterval b.1 b.2).1.t) r.legacy).1)

/-- R93, R94, R168: a pass stopped by a fault restarts in the array, a held pass takes the free array again, and a pass that
has starved past STALL_LIMIT gives the array up and is held. -/
def Obligations.PassStopsAndResumes : Prop :=
  ∀ (s : State) (l : Fin 16) (r : PassRun),
    (s.arr.run = some r → r.lease = l.val → r.stop = some .fault → takes s l.val = true → s.store.badWest = [] →
      s.store.badNorth = [] →
        ∃ v q, exec (.passResume l) s = .next v ∧ v.arr.run = some q ∧ q.stop = none ∧ q.u = r.u ∧ q.parts = r.parts ∧
          q.q = 0 ∧
          q.t = (if r.groups = s.fuse.activeGroups then (committed r).getD 318 0 else resumeAt r (layers r) s.fuse.activeGroups) ∧
          v.mem = s.mem ∧ v.cnt = s.cnt) ∧
    (s.arr.run = none → heldReady s l.val = some r → standsNext s = some l.val → arrayOut s = false →
      (∀ p ∈ r.parts, (getSlot s p.slot).st ≠ .spilled) →
        ∃ v q, exec (.passResume l) s = .next v ∧ v.arr.run = some q ∧ q.stop = none ∧ q.u = r.u ∧ q.parts = r.parts ∧
          (getRt v l.val).held = none ∧ v.mem = s.mem ∧ v.cnt = s.cnt) ∧
    (s.arr.run = some r → r.stop = none → stallLimit s r.lease + 3 ≤ r.starved →
      ∃ v q, exec .passAbandon s = .next v ∧ v.arr.run = none ∧ (getRt v r.lease).held = some q ∧ q.u = r.u ∧
        q.parts = r.parts ∧ q.stop = some .abandon ∧ v.mem = s.mem ∧ v.cnt = s.cnt ∧
        (∀ p, r.parts.getLast? = some p → v.arr.lastFmt = (p.west.tag.fmt, p.north.tag.fmt))) ∧
    (s.arr.run = none → 65 ≤ s.arr.idle →
      ∃ v, exec .arrayRampDown s = .next v ∧ v = { s with arr := { s.arr with warm := false } })

/-- R131, R214, R215, R220: the end of a pass frees the array, writes its status word with the DONE bit, and signals its
counter; each half of a pair signals its own, at its own end. That the status word of a pair comes with the last half
only, and that its first half writes nothing to memory, is the model's reading (log entry 68, DEDUCED). -/
def Obligations.PassCompletion : Prop :=
  ∀ (s : State) (r : PassRun) (p o : PassPart), s.arr.run = some r → stopping s = false → p.signalled = false →
    hears s p.cnt = true → ∀ c, sigCnt (getCnt s p.cnt) 1 = some c →
    (r.parts = [p] ∨ (o.signalled = true ∧ (r.parts = [p, o] ∨ r.parts = [o, p])) → partN p ≠ 0 →
      (∀ n ∈ r.counts, runTotal r ≤ n) → takesMade r = true → ∀ i, getInstr s r.u = some i → OwnWrites s i →
        ∃ v, exec .passComplete s = .next v ∧ v.arr.run = none ∧ getInstr v r.u = none ∧ getCnt v p.cnt = c ∧
          (∀ n, n ≠ p.cnt → getCnt v n = getCnt s n) ∧
          (i.statusPa = none → v.mem = s.mem) ∧
          (∀ a, i.statusPa = some a → (memByte v a).getLsbD 0 = true ∧
            ∀ k, k < a ∨ a + 8 ≤ k → memByte v k = memByte s k)) ∧
    (∀ (dw : Bool) t, r.parts = (if dw then [o, p] else [p, o]) → o.signalled = false → partN o ≠ 0 →
      lastOf r (if dw then 1 else 0) = some t → (∀ n ∈ r.counts, t < n) →
        ∃ v q, exec (.pairHalfComplete dw) s = .next v ∧ v.arr.run = some q ∧
          q.parts = (if dw then [o, { p with signalled := true }] else [{ p with signalled := true }, o]) ∧ getCnt v p.cnt = c ∧
          (∀ n, n ≠ p.cnt → getCnt v n = getCnt s n) ∧ v.mem = s.mem)

/-- R106, R108, R111, R225, R226: an opening whose checks pass and whose segments are free binds its slot to the lease with
them; a closing frees the index and hands its segments to the scrubber, which makes the entries 0 and the segment free. -/
def Obligations.SlotLifecycle : Prop :=
  ∀ (s : State) (u : Nat) (i : SpanI),
    let x := bits i.w0 4 0
    let n := segsNeeded (openedSlot i)
    (getInstr s u = some i → i.op = .slotOpen → takes s i.lease = true → slotWaits s i x = false → i.stage = .queued →
      openVerdict s i x = .ok → OwnWrites s i → segsHeld s i.lease + n ≤ segQuota s i.lease → n ≤ (freeSegs s).length →
        ∃ v, exec (.slotOpenStart u) s = .next v ∧ getSlot v x = { openedSlot i with segs := (freeSegs s).take n } ∧
          (∀ k ∈ (freeSegs s).take n, v.gir.segFree.getLsbD k = false) ∧ (∀ y, y ≠ x → getSlot v y = getSlot s y) ∧
          getInstr v u = none ∧ v.cnt = s.cnt ∧ v.gir.ent = s.gir.ent) ∧
    (girderInstr s u .slotClose = some i → slotForeign s i.lease x = false → (getSlot s x).st ≠ .free →
      slotMoving (getSlot s x) = false → OwnWrites s i →
        ∃ v, exec (.slotCloseStart u) s = .next v ∧ (getSlot v x).st = .free ∧ (getSlot v x).segs = [] ∧
          v.gir.scrubQ = s.gir.scrubQ ++ (getSlot s x).segs ∧ (∀ y, y ≠ x → getSlot v y = getSlot s y) ∧
          getInstr v u = none ∧ v.cnt = s.cnt) ∧
    (∀ k rest, s.gir.scrubQ = k :: rest → k < 64 →
      ∃ v, exec .scrubSegmentDone s = .next v ∧ v.gir.scrubQ = rest ∧ v.gir.segFree.getLsbD k = true ∧
        (∀ r w, w < 32768 → getEnt v r w = if w / 512 = k then {} else getEnt s r w) ∧ v.gir.slots = s.gir.slots ∧
        v.mem = s.mem ∧ v.cnt = s.cnt)

/-- R107, R118 to R120, R226: the mover takes up a slot's spill or fill, goes on from its saved position, and at the end the
slot is SPILLED with its segments at the scrubber, or OPEN; an instruction that asked for the move then completes. A page
of a fill that lies with another endpoint, or whose bank waits for its spare (R408), holds the mover where it is (log
entry 49). -/
def Obligations.MoverMoves : Prop :=
  ∀ (s : State) (x : Fin 32) (m : Mover),
    let v := getSlot s x.val
    (stopping s = false → slotMoving v = true → s.gir.mover = none → moverTurn s v.lease = true →
      ∃ w k, exec (.girderMoverStart x) s = .next w ∧ w.gir.mover = some k ∧ k.slot = x.val ∧
        k.fill = decide (v.st = .filling) ∧ k.u = none ∧ w.cnt = s.cnt) ∧
    (stopping s = false → slotMoving v = false → ∀ i, moverInstr s x.val = some i → i.op = .slotSpill → v.st = .spilled →
      statusWaits s i = false →
      moverVerdict s i x.val (armStatus s i).1 = .ok → sigList i = [] → OwnWrites (armStatus s i).2.2 (armStatus s i).2.1 →
        ∃ w, exec (.girderMoverStart x) s = .next w ∧ getInstr w i.u = none ∧ w.gir = s.gir ∧ w.cnt = s.cnt) ∧
    (s.gir.mover = some m → m.halted = true → stopping s = false → m.pos < imagePages (getSlot s m.slot) →
      inMap s (imageAddr s m) 4096 = true → moverStuck s m = false → cutOff s (imageAddr s m) 4096 = false → poisoned s (imageAddr s m) 4096 = false →
        ∃ w k, exec .moverResume s = .next w ∧ w.gir.mover = some k ∧ k.slot = m.slot ∧ k.fill = m.fill ∧ k.u = m.u ∧
          m.pos < k.pos ∧ w.cnt = s.cnt) ∧
    (s.gir.mover = some m → m.halted = true → stopping s = false → m.pos < imagePages (getSlot s m.slot) →
      inMap s (imageAddr s m) 4096 = true → moverStuck s m = true →
        ∃ w, exec .moverResume s = .next w ∧ w.gir.mover = some { m with halted := false } ∧ w.gir.ent = s.gir.ent ∧
          w.mem = s.mem ∧ w.cnt = s.cnt) ∧
    (moved s false = some m → slotBusy s m.slot = false → m.u = none →
      ∃ w, exec .spillComplete s = .next w ∧ (getSlot w m.slot).st = .spilled ∧ (getSlot w m.slot).segs = [] ∧
        w.gir.scrubQ = s.gir.scrubQ ++ (getSlot s m.slot).segs ∧ w.gir.mover = none ∧
        (∀ y, y ≠ m.slot → getSlot w y = getSlot s y) ∧ w.mem = s.mem ∧ w.cnt = s.cnt) ∧
    (∀ u i, m.u = some u → getInstr s u = some i → OwnWrites s i → stopping s = false →
      (moved s false = some m → slotBusy s m.slot = false →
        ∃ w, exec .spillComplete s = .next w ∧ (getSlot w m.slot).st = .spilled ∧ w.gir.mover = none ∧ Completed s w i s.mem) ∧
      (moved s true = some m →
        ∃ w, exec .fillComplete s = .next w ∧ (getSlot w m.slot).st = .open ∧ w.gir.mover = none ∧ Completed s w i s.mem)) ∧
    (moved s true = some m → m.u = none →
      ∃ w, exec .fillComplete s = .next w ∧ getSlot w m.slot = { getSlot s m.slot with st := .open } ∧ w.gir.mover = none ∧
        (∀ y, y ≠ m.slot → getSlot w y = getSlot s y) ∧ w.mem = s.mem ∧ w.cnt = s.cnt)

/-- R129, R466: the peek window takes an address while it is not busy, and answers with an entry's sum and compensation, or
with 0 where the slot's lease has no ACC_DEBUG or the slot is not resident. -/
def Obligations.PeekWindow : Prop :=
  ∀ (s : State) (a : Word),
    let x := bits s.gir.peekAddr 36 32
    let q := bits s.gir.peekAddr 30 28
    let i := bits s.gir.peekAddr 27 20
    let j := bits s.gir.peekAddr 11 0
    let v := getSlot s x
    (s.eng.scrubDone = true → s.gir.peekBusy = false →
      ∃ w, exec (.peekAddr a) s = .next w ∧ w.gir.peekAddr = a &&& 0x0000001F7FF00FFF ∧ w.gir.peekBusy = true ∧
        w.gir.peekDone = false ∧ w.gir.ent = s.gir.ent ∧ w.gir.slots = s.gir.slots) ∧
    (s.gir.peekBusy = true → peekWaits s x = false →
      (v.st = .open ∨ v.st = .active → accDebug s v.lease = true → q < v.fr * v.fc → i < 256 / v.fr → j < v.cols →
        ∀ b, entryAt v q i j = some b → (readEntry s v q i j).chk = 0 →
          ∃ w, exec .peekDone s = .next w ∧ w.gir.peekData = (readEntry s v q i j).c ++ (readEntry s v q i j).s ∧
            w.gir.peekDone = true ∧ w.gir.peekBusy = false ∧ w.gir.peekDenied = false ∧ w.gir.peekNotRes = false ∧
            w.gir.ent = s.gir.ent) ∧
      (v.st = .open → accDebug s v.lease = false →
        ∃ w, exec .peekDone s = .next w ∧ w.gir.peekData = 0 ∧ w.gir.peekDenied = true ∧ w.gir.peekDone = true) ∧
      (v.st = .free ∨ v.st = .spilled → ∃ w, exec .peekDone s = .next w ∧ w.gir.peekData = 0 ∧ w.gir.peekNotRes = true ∧
        w.gir.peekDone = true))

/-- R214, R215, R232: a DRAIN that stands next starts, holding its slots; once its writes are acknowledged it writes its
status word with the DONE bit and signals. -/
def Obligations.DrainRuns : Prop :=
  ∀ (s : State) (u : Nat) (i : SpanI),
    (∀ tb, getInstr s u = some i → i.op = .drain → i.stage = .taken → takes s i.lease = true → drainWaits s i = false → statusWaits s i = false →
      let m := armStatus s i
      let r := drainTables m.2.2 m.2.1
      r.1.1 = .ok → r.1.2 = tb → drainVerdict r.2 m.2.1 m.1 = .ok →
      (ddDests i.desc).all (fun ad => destReady r.2 ad.2) = true → ddRows i.desc ≠ 0 → ddCols i.desc ≠ 0 →
      (∀ x ∈ ddSlots i.desc, (getSlot s x).st ≠ .spilled) → s.drn = none → drainTurn r.2 i.u = true →
        ∃ v d j, exec (.drainStart u) s = .next v ∧ v.drn = some d ∧ d.u = i.u ∧ d.lease = i.lease ∧
          d.slots = ddSlots i.desc ∧ d.cnt = ddCnt i.desc ∧ getInstr v u = some j ∧ j.stage = .running) ∧
    (∀ d, s.drn = some d → d.ctxs.all (fedDone s) = true → getInstr s d.u = some i → hears s d.cnt = true →
      stopping s = false → OwnWrites s i → ∀ c, sigCnt (getCnt s d.cnt) 1 = some c →
        ∃ v, exec .drainComplete s = .next v ∧ v.drn = none ∧ getInstr v d.u = none ∧ getCnt v d.cnt = c ∧
          (∀ n, n ≠ d.cnt → getCnt v n = getCnt s n) ∧ v.gir.ent = s.gir.ent ∧
          (i.statusPa = none → v.mem = s.mem) ∧
          (∀ a, i.statusPa = some a → (memByte v a).getLsbD 0 = true ∧
            ∀ k, k < a ∨ a + 8 ≤ k → memByte v k = memByte s k))

/-- R149, R155, R156, R158, R172: a stream is armed with its descriptor and numbered from P of its counter, takes its gate,
and takes a rearm with the displacement added, keeping the extent that it leaves for the transfers of it that are still in
its ring. -/
def Obligations.StreamArmAndRearm : Prop :=
  ∀ (s : State) (u : Nat) (i : SpanI) (x : Fin 32) (bs : List Byte),
    let c := bits i.w0 4 0
    let g := getStr s x.val
    let rd := readVirt s (accI i) i.a.toNat 64
    let m := armStatus rd.2 i
    (getInstr s u = some i → i.op = .streamArm → (streamHead s c).map (·.u) = some u → takes s i.lease = true →
      (getStr s c).st ≠ .quiescing → i.a.toNat % 64 = 0 → rd.1 = .ok bs → statusWaits rd.2 i = false →
      armVerdict m.2.2 i c (words64 bs) m.1 = .ok → OwnWrites m.2.2 m.2.1 → StreamsIdleBut s u = true →
        ∃ v, exec (.streamDescArrive u) s = .next v ∧ (getStr v c).st = .running ∧ (getStr v c).desc = words64 bs ∧
          (getStr v c).descAddr = i.a ∧ (getStr v c).start = (getCnt s (stData { desc := words64 bs })).p.toNat ∧
          (getStr v c).xfers = [] ∧ getInstr v u = none ∧ v.cnt = s.cnt ∧ (∀ k, k ≠ c → getStr v k = getStr s k)) ∧
    (∀ l k, ctxOwner s x.val = some l → takes s l = true → g.stopped = false → stGate g = some k → g.gated = false →
      mayStart s g = true → 0 < avail (getCnt s k) →
        ∃ v, exec (.gateTake x) s = .next v ∧ getStr v x.val = { g with gated := true } ∧
          getCnt v k = { getCnt s k with c := (getCnt s k).c + 1, copyBad := 0 } ∧
          (∀ n, n ≠ k → getCnt v n = getCnt s n) ∧ v.mem = s.mem) ∧
    (∀ r, g.rearm = some r → g.st = .running → g.start = g.base + transfers g → g.xfers.all whollyIssued = true →
      (ctxOwner s x.val).any (takes s) = true → getInstr s r.u = some i → rearmVerdict s i g r false = .ok →
      OwnWrites s i → StreamsIdleBut s r.u = true →
        ∃ v, exec (.rearmTake x) s = .next v ∧ (getStr v x.val).rearm = none ∧ (getStr v x.val).disp = g.disp + r.disp ∧
          (getStr v x.val).base = g.start ∧ (getStr v x.val).st = .running ∧
          (∃ e ∈ (getStr v x.val).old, e.base = g.base ∧ e.desc = g.desc) ∧ getInstr v r.u = none ∧ v.cnt = s.cnt)

/-- R20, R159, R160, R162: the granted burst issues at its translated address, a completed one is done, and the oldest
transfer whose bursts are all done signals DATA_CNT once. -/
def Obligations.BurstsAndSignals : Prop :=
  ∀ (s : State) (x : Fin 32) (n k : Nat) (b : Burst) (l : Nat), StreamsIdle s = true →
    let w := wakeAll s
    let g := getStr s x.val
    (∀ pa, grant w = some (x.val, l) → nextBurst w (getStr w x.val) = some (n, k) → getBurst (getStr w x.val) n k = some b →
      b.addr < 2 ^ 64 → (xlate w (accOf w l) (BitVec.ofNat 64 b.addr) (if stIsRing (getStr w x.val) then .r else .w)).1 = .at pa →
      inMap s pa b.len = true →
        ∃ v, exec .burstIssue s = .next v ∧
          getBurst (getStr v x.val) n k = some { b with issued := true, dropped := false, bad := false, pa := pa,
                                                          data := if stIsRing (getStr w x.val) then [] else b.data } ∧ v.cnt = s.cnt) ∧
    (s.eng.mode ≠ 3 → ctxOwner s x.val = some l → getBurst g n k = some b → inFlight b = true →
      (stIsRing g = true → b.bad = false → (b.data = [] → poisoned s b.pa b.len = false) →
        ∃ v, exec (.burstComplete x n k) s = .next v ∧ getBurst (getStr v x.val) n k = some { b with done := true, poison := false, data := [] } ∧
          v.cnt = s.cnt ∧ v.mem = s.mem) ∧
      (stIsRing g = false →
        ∃ v, exec (.burstComplete x n k) s = .next v ∧ getBurst (getStr v x.val) n k = some { b with done := true } ∧
          v.cnt = s.cnt ∧ (∀ j, memByte v j =
            if b.pa ≤ j ∧ j < b.pa + b.data.length then b.data.getD (j - b.pa) 0 else memByte s j))) ∧
    (∀ t rest c, stopping s = false → g.st ≠ .unarmed → g.xfers = t :: rest → t.bursts.all (·.done) = true → t.again = false →
      hears s (stData g) = true → sigCnt (getCnt s (stData g)) 1 = some c →
        ∃ v, exec (.transferSignal x) s = .next v ∧ (getStr v x.val).xfers = rest ∧ getCnt v (stData g) = c ∧
          (∀ j, j ≠ stData g → getCnt v j = getCnt s j) ∧ v.mem = s.mem)

/-- R167, R413, R464: RESUME returns a HALTED context to RUNNING and sets NOT_HALTED on any other; a context fault takes a
spare and rebuilds the context at its oldest unsignalled transfer, and stops the engine set where no spare is left. That a
context whose descriptor cannot be read again is HALTED is the model's reading (log entry 14, DEDUCED), and that one in
another endpoint's memory is asked for first is log entry 49. -/
def Obligations.StreamRecovery : Prop :=
  ∀ (s : State) (x : Fin 32) (v : Word), StreamsIdle s = true →
    let g := getStr s x.val
    (s.eng.scrubDone = true → v.getLsbD 0 = true →
      (g.st = .halted → (∃ w, exec (.streamCtlResume x v) s = .next w ∧ w.cnt = s.cnt ∧ w.mem = s.mem ∧
          (nextBurst s g = none → g.stopped = false → (getStr w x.val).st = .running)) ∧
        ∀ l n k b pa, ctxOwner s x.val = some l → takes s l = true → looping s .span 2 = false → g.stopped = false →
          creditsHeld s l < creditShare s l → nextBurst s g = some (n, k) → getBurst g n k = some b → b.addr < 2 ^ 64 →
          (xlate s (accOf s l) (BitVec.ofNat 64 b.addr) (if stIsRing g then .r else .w)).1 = .at pa → inMap s pa b.len = true →
            ∃ w, exec (.streamCtlResume x v) s = .next w ∧ (getStr w x.val).st = .running ∧ w.cnt = s.cnt ∧ w.mem = s.mem ∧
              getBurst (getStr w x.val) n k = some { b with issued := true, dropped := false, bad := false, pa := pa,
                                                            data := if stIsRing g then [] else b.data }) ∧
      (g.st ≠ .halted →
        ∃ w, exec (.streamCtlResume x v) s = .next w ∧ getStr w x.val = { g with notHalted := true } ∧ w.cnt = s.cnt)) ∧
    (stopping s = false → s.strSpares ≠ 0 →
      (∀ l, ctxOwner s x.val = some l → g.st ≠ .unarmed →
        (∀ bs, (readVirt s (accOf s l) g.descAddr.toNat 64).1 = .ok bs →
          ∃ w, exec (.streamContextUe x) s = .next w ∧ w.strSpares = s.strSpares - 1 ∧ (getStr w x.val).st = g.st ∧
            (getStr w x.val).start = (if stIsRing g ∧ g.st ≠ .quiescing then freshNext g else g.start) ∧ w.cnt = s.cnt ∧ w.mem = s.mem) ∧
        (∀ e, e ≠ .wait → (readVirt s (accOf s l) g.descAddr.toNat 64).1 = .error e →
          ∃ w, exec (.streamContextUe x) s = .next w ∧ w.strSpares = s.strSpares - 1 ∧ (getStr w x.val).st = .halted ∧
            w.cnt = s.cnt ∧ w.mem = s.mem) ∧
        ((readVirt s (accOf s l) g.descAddr.toNat 64).1 = .error .wait →
          ∃ w, exec (.streamContextUe x) s = .next w ∧ w.strSpares = s.strSpares ∧ getStr w x.val = g ∧ w.cnt = s.cnt ∧
            w.mem = s.mem)) ∧
      (ctxOwner s x.val = none ∨ g.st = .unarmed →
        ∃ w, exec (.streamContextUe x) s = .next w ∧ w = { s with strSpares := s.strSpares - 1 })) ∧
    (stopping s = false → s.strSpares = 0 →
      ∃ w, exec (.streamContextUe x) s = .next w ∧ w.eng.mode = 2 ∧ w.eng.stopReason = 8 ∧ w.cnt = s.cnt ∧ w.mem = s.mem)

/-- R216, R239, R241: a VEC instruction that may start, whose checks pass and whose operands and result are mapped, takes the
Spandrel with its result's bytes to write; with no rows or no columns it completes at once. -/
def Obligations.VectorStarts : Prop :=
  ∀ (s : State) (u : Nat) (i : SpanI) (bs : List Byte), vecInstr s u isVec = some i → i.a.toNat % 64 = 0 →
    stopping s = false → (readVirt s (accI i) i.a.toNat 64).1 = .ok bs →
    let k := vecSub i.op
    let d := words64 bs
    let r := readVirt s (accI i) i.a.toNat 64
    let m := armStatus r.2 i
    statusWaits r.2 i = false →
    firstCheck i.a (vecChecks k d (statusSkew i) ++ [(30, m.1)]) = .ok →
      (vdRows d = 0 ∨ vdCols d = 0 → OwnWrites m.2.2 m.2.1 →
        ∃ v, exec (.vecStart u) s = .next v ∧ v.vec = none ∧ Completed s v m.2.1 s.mem) ∧
      (∀ x y z ws, vdRows d ≠ 0 → vdCols d ≠ 0 →
        let a := vecRead m.2.2 m.2.1 k d 0
        let b := vecRead a.2 m.2.1 k d 1
        let c := vecRead b.2 m.2.1 k d 2
        a.1 = .ok x → b.1 = .ok y → c.1 = .ok z →
        (resultWrites (accI m.2.1) [(vdAddr d 3, vecBytes k d i.leg x y z)] c.2).1 = .ok ws →
          ∃ v, exec (.vecStart u) s = .next v ∧ v.vec = some { u := i.u, lease := i.lease, writes := ws } ∧ RunsNow v u ∧
            v.mem = s.mem ∧ v.cnt = s.cnt ∧ v.gather = s.gather)

/-- R57 to R59, R236, R237: a ROT.LOAD that may start and whose checks pass takes the Spandrel with the inverse matrix, or the
reciprocals and factors, to write; a smoothing of no entries completes at once.
R40, R41, R238: a SCALE.UPDATE that may start, whose record is readable and in order, takes the Spandrel with the new
record to write, and its gathering register is cleared; no other register is. -/
def Obligations.RotationAndScaleStarts : Prop :=
  (∀ (s : State) (u : Nat) (i : SpanI), vecInstr s u isRot = some i → stopping s = false →
     let m := armStatus s i
     let n := bits i.w1 31 12
     let polbin := i.leg
     i.a.toNat % 64 = 0 → i.b.toNat % 64 = 0 → (i.op = .rotSmooth → i.d.toNat % 64 = 0) → statusSkew i = false →
     statusWaits s i = false → m.1 = false →
       (i.op = .rotMatrix → ∀ bs ws,
         let r := readVirt m.2.2 (accI m.2.1) i.a.toNat 4096
         let o := rotFrom (words32 bs) polbin
         r.1 = .ok bs → (resultWrites (accI m.2.1) [(i.b.toNat, halfBytes o.2.1)] r.2).1 = .ok ws →
           ∃ v, exec (.rotLoadStart u) s = .next v ∧
             v.vec = some { u := i.u, lease := i.lease, writes := ws, singular := o.2.2, rot := some (bits i.w1 11 10, o.1) } ∧
             RunsNow v u ∧ v.mem = s.mem ∧ v.cnt = s.cnt) ∧
       (i.op = .rotSmooth → n = 0 → OwnWrites m.2.2 m.2.1 →
         ∃ v, exec (.rotLoadStart u) s = .next v ∧ v.vec = none ∧ Completed s v m.2.1 s.mem) ∧
       (i.op = .rotSmooth → n ≠ 0 → ∀ bs ws,
         let r := readVirt m.2.2 (accI m.2.1) i.a.toNat (4 * n)
         let fs := (words32 bs).map smoothFactor
         let recip := fs.map (fun f => nar32 (exDiv exOne (val32 f.1)) polbin)
         r.1 = .ok bs →
         (resultWrites (accI m.2.1) [(i.d.toNat, halfBytes recip), (i.b.toNat, halfBytes (fs.map (·.1)))] r.2).1 = .ok ws →
           ∃ v, exec (.rotLoadStart u) s = .next v ∧
             v.vec = some { u := i.u, lease := i.lease, writes := ws, smoothZero := decide ((fs.filter (·.2)).length ≠ 0),
                            count := (fs.filter (·.2)).length } ∧
             RunsNow v u ∧ v.mem = s.mem ∧ v.cnt = s.cnt)) ∧
  (∀ (s : State) (u : Nat) (i : SpanI) (bs : List Byte), vecInstr s u isScale = some i →
     let m := armStatus s i
     let g := bits i.w1 23 16
     let r := readVirt m.2.2 (accI i) i.a.toNat 128
     let k := gatherBase s i.lease + g
     i.a.toNat % 128 = 0 → statusSkew i = false → statusWaits s i = false → m.1 = false → g < gatherCount s i.lease → r.1 = .ok bs →
     firstCheck i.a (recordChecks (words32 bs)) = .ok → ∀ ws,
     (resultWrites (accI i) [(i.a.toNat, halfBytes (scaleUpdateRec (words32 bs) (Tab.get {} s.gather k)))] r.2).1 = .ok ws →
       ∃ v, exec (.scaleUpdateStart u) s = .next v ∧ v.vec = some { u := u, lease := i.lease, writes := ws } ∧ RunsNow v u ∧
         Tab.get {} v.gather k = {} ∧ (∀ j, j ≠ k → Tab.get {} v.gather j = Tab.get {} s.gather j) ∧
         v.mem = s.mem ∧ v.cnt = s.cnt)

/-- R58, R214, R236 to R238, R258: at its completion a Spandrel instruction writes its results, then its status word, and
signals; a matrix load also replaces its rotation slot. Where the status word lies with another endpoint the signal waits
for its acknowledgement. -/
def Obligations.SpandrelCompletes : Prop :=
  ∀ (s : State) (r : VecRun) (i : SpanI), s.vec = some r → getInstr s r.u = some i → stopping s = false → writesOut s i.u = false →
    (∀ w ∈ r.writes, isFar s w.1 = false) →
    (∀ a c, i.statusPa = some a → a % 8 = 0 → isFar s a = true →
      (isVec i.op = true ∧ c = .vecComplete ∨ isRot i.op = true ∧ c = .rotLoadComplete ∨
        isScale i.op = true ∧ c = .scaleUpdateComplete) →
      ∃ v, exec c s = .next v ∧ v.vec = none ∧
        getInstr v i.u = some { i with stage := .running, owes := some (none, sigList i) } ∧ v.cnt = s.cnt) ∧
    (OwnWrites s i →
    (isVec i.op = true → ∃ v, exec .vecComplete s = .next v ∧ v.vec = none ∧ Completed s v i (putBytes s.mem r.writes)) ∧
    (isRot i.op = true → ∃ v, exec .rotLoadComplete s = .next v ∧ v.vec = none ∧
      Completed s v i (putBytes s.mem r.writes) ∧
      (∀ k x, r.rot = some (k, x) → Tab.get {} (getRt v r.lease).rot k = x ∧
        ∀ j, j ≠ k → Tab.get {} (getRt v r.lease).rot j = Tab.get {} (getRt s r.lease).rot j)) ∧
    (isScale i.op = true →
      ∃ v, exec .scaleUpdateComplete s = .next v ∧ v.vec = none ∧ Completed s v i (putBytes s.mem r.writes)))

/-- R235, R371, R372: a ROWSET.COMMIT with no earlier pass of its lease reads and judges its list and runs; its completion
puts the new row set in force, counts a generation, and writes the table, the status word and the signal. -/
def Obligations.RowsetCommits : Prop :=
  ∀ (s : State) (u : Nat) (i : SpanI), getInstr s u = some i →
    (∀ hb bs, i.op = .rowsetCommit → i.stage = .queued → takes s i.lease = true → commitWaits s i = false → statusWaits s i = false →
      let m := armStatus s i
      i.a.toNat % 64 = 0 → statusSkew i = false → m.1 = false →
      let h := readVirt m.2.2 (accI i) i.a.toNat 16
      h.1 = .ok hb →
      let n := bits ((words64 hb).getD 0 0) 31 0
      n ≤ 1024 → (readVirt h.2 (accI i) i.a.toNat (16 + 16 * n)).1 = .ok bs →
      let ws := words64 bs
      let set := (getRt s i.lease).rowSet.getD []
      let pend := (getRt s i.lease).pendJoins
      bits (ws.getD 0 0) 63 32 = 0 → ws.getD 1 0 = 0 → rsBad set pend (rsOps (ws.drop 2)) = false →
      let o := applyCommit (ckptBpt s i.lease) (ckptChunks s i.lease) set pend (rsOps (ws.drop 2))
        ∃ v, exec (.rowsetCommitStart u) s = .next v ∧ v.rs = s.rs ++ [⟨i.u, i.lease, o.1, o.2, o.2.length⟩] ∧
          RunsNow v u ∧ v.mem = s.mem ∧ v.cnt = s.cnt) ∧
    (∀ r, s.rs.find? (fun r => r.u == u) = some r → stopping s = false → r.set.length ≤ 1024 → r.pend.length ≤ 64 →
      OwnWrites s i → (∀ k < 0x4440, isFar s (rowsetTable s i.lease + k) = false) →
      ∃ v, exec (.rowsetCommitComplete u) s = .next v ∧ (getRt v r.lease).rowSet = some r.set ∧
        (getRt v r.lease).pendJoins = r.pend ∧ (getRt v r.lease).rsGen = (getRt s r.lease).rsGen + 1 ∧
        v.rs.all (fun x => x.u != u) = true ∧ Completed s v i (writeTable s (accI i) r.set r.pend).mem)

/-- R297, R298, R303, R306: a chain instruction whose checks pass, with its buffer entries free and its slots resident, runs
with nothing sent; one of no chunks completes at once. Its descriptor comes with the command, or came with an earlier one.
R299 to R302, R304, R305, R307: a hop sends its next chunk, its header before its values, for one downstream credit; an
arrived chunk is added to the own one that was read and frees its entry, a stray one is counted only, and one that differs
from the receiver's region stops the hop with check 32; a credit raises the cumulative count; the last credit completes
the hop; a hop that has made no progress for more than its TIMEOUT_BEATS complete beats stops. -/
def Obligations.Chains : Prop :=
  (∀ (s s1 : State) (u : Nat) (i j : SpanI), getInstr s u = some i → chainTurn s i = true →
     ((i.ready = true ∧ s1 = s ∧ j = i) ∨
       (i.ready = false ∧ i.a.toNat % 64 = 0 ∧ ∃ bs,
         let r := readVirt s (accI i) i.a.toNat 64
         let m := armStatus r.2 i
         r.1 = .ok bs ∧ statusWaits r.2 i = false ∧ chainArrive m.2.2 i (words64 bs) m.1 = .ok ∧
           j = { m.2.1 with ready := true, desc := words64 bs } ∧ s1 = putInstr m.2.2 j)) →
     (∀ x ∈ slotsNamed i, slotWaits s1 j x = false ∧ slotMoving (getSlot s1 x) = false) → chainVerdict s1 j j.desc = .ok →
       (cdTotal j.desc = 0 → (∀ x ∈ slotsNamed i, slotBehind s1 j x = false) → OwnWrites s1 j →
         ∃ v, exec (.chainStart u) s = .next v ∧ v.chn = s.chn ∧ Completed s v j s.mem) ∧
       (cdTotal j.desc ≠ 0 → (isRecv i = true → cdCredits j.desc ≤ s.chnFree) →
         (∀ x ∈ slotsNamed i, (getSlot s x).st ≠ .spilled) →
           ∃ v r, exec (.chainStart u) s = .next v ∧ v.chn = s.chn ++ [r] ∧ r.u = i.u ∧ r.lease = i.lease ∧ r.desc = j.desc ∧
             r.slots = slotsNamed i ∧ r.recv = isRecv i ∧ r.sent = 0 ∧ r.got = [] ∧ r.own = [] ∧ r.cls = i.cls ∧ r.leg = i.leg ∧
             r.dom = i.dom ∧ RunsNow v u ∧
             v.chnFree = s.chnFree - (if isRecv i then cdCredits j.desc else 0) ∧ v.mem = s.mem ∧ v.cnt = s.cnt)) ∧
  (∀ (s : State), stopping s = false →
     (∀ u r c, getChain s u = some r → maySend s r = true → nextChunk r = some c →
       ∃ v, exec (.chainChunkSend u) s = .next v ∧ v.mem = s.mem ∧ v.cnt = s.cnt ∧
         getChain v u = some { r with sent := r.sent + 1, idleBeats := 0
                                      ready := if r.recv then r.ready.drop 1 else r.ready
                                      own := if r.recv then r.own else r.own.drop 1 } ∧
         (addressed s = true →
           let k := if isOwn s (cdDown r.desc) && epOf (cdDown r.desc) == 2 then 17 else 16
           (getPort v k).txq = (getPort s k).txq ++ [mkPacket 0x09 (cdDown r.desc) (ownAddr s 1) r.cls (Tab.get 0 s.net.tags 1) 0
             (chainHeader r c.row c.quarter c.vals.length ++ halfBytes c.vals)])) ∧
     (∀ p, addressed s = true → chunkFor s p = none → ∃ v, exec (.chainChunk p) s = .next v ∧ ReportsOnly s v) ∧
     (∀ p r, addressed s = true → chunkFor s p = some r → r.got.contains (chRow p, chQuarter p) = false → chunkBad r p = false →
       (∀ c ∈ r.up, ∀ o ∈ r.own, ¬ (o.row = c.row ∧ o.quarter = c.quarter)) →
       ∃ v q, exec (.chainChunk p) s = .next v ∧ q ∈ v.chn ∧ q.u = r.u ∧ q.got = r.got ++ [(chRow p, chQuarter p)] ∧
         q.sent = r.sent ∧ v.mem = s.mem ∧ v.cnt = s.cnt ∧
         (let own := r.own.find? (fun o => decide (o.row = chRow p ∧ o.quarter = chQuarter p))
          (own = none → q.up = r.up ++ [⟨chRow p, chQuarter p, chValues p, 0⟩] ∧ q.own = r.own ∧ q.ready = r.ready ∧ q.freed = r.freed) ∧
          (∀ o, own = some o → q.ready = r.ready ++ [⟨chRow p, chQuarter p, chunkSum r o (some (chValues p)), 0⟩] ∧
             q.own = r.own.erase o ∧ q.up = r.up ∧ q.freed = r.freed + 1))) ∧
     (∀ p r i, addressed s = true → chunkFor s p = some r → r.got.contains (chRow p, chQuarter p) = false → chunkBad r p = true →
       getInstr s r.u = some i → s.perf.ctl = [] → ∃ v, exec (.chainChunk p) s = .next v ∧ FailsWith s v i 0x03 32 i.a ∧
         v.chn.all (fun x => x.u != r.u) = true) ∧
     (∀ p r, addressed s = true → s.chn.find? (fun r => creditFor r p) = some r →
       let q := takeCredit r p
       (q.sent < cdTotal q.desc → ∃ v, exec (.chainCredit p) s = .next v ∧ q ∈ v.chn ∧ r.credits ≤ q.credits ∧
         chCount p ≤ q.credits ∧ v.mem = s.mem ∧ v.cnt = s.cnt) ∧
       (∀ i, q.sent = cdTotal q.desc → (cdLast q.desc = true ∨ q.grant ≠ 0) → q.grant + q.sent ≤ q.credits →
         getInstr s r.u = some i → OwnWrites s i → ∃ v, exec (.chainCredit p) s = .next v ∧ v.chn.all (fun x => x.u != r.u) = true ∧
           Completed s v i s.mem)) ∧
     (∀ u r i, getChain s u = some r → cdTimeout r.desc + 2 ≤ r.idleBeats → getInstr s r.u = some i →
       ∃ v, exec (.chainTimeout u) s = .next v ∧ getInstr v r.u = none ∧ v.chn.all (fun x => x.u != r.u) = true ∧
         v.cnt = s.cnt))

/-- R278, R279: while 64 commands wait the next one is held back, neither refused nor accepted. While fewer wait, a command
that breaks check 34 is refused and changes nothing in the Pier; one that does not is accepted, an UPDATE to stand last
among the commands, a STEP_END, where no command of its group waits and the group is not frozen, to advance STEP at once
and write it.
R280 to R282: an UPDATE whose tile is staged and whose turn has come begins with its group's entry; on a frozen group it
writes nothing; a command whose writes are acknowledged leaves the Pier and signals its DONE_CNT by a request. -/
def Obligations.UpdateCommands : Prop :=
  (∀ (s : State) (c : UpdCmd), pierTakes s = true → cmdAnswered s c = none →
     let g := getGroup s (ucGroup c)
     let a := g.base + 256 * ucGroup c + 0xB0
     (64 ≤ s.pier.cmds.length → exec (.update c) s = .next s ∧ exec (.stepEnd c) s = .next s) ∧
     (updRefused s c = true → s.pier.cmds.length < 64 →
       (∃ v, exec (.update c) s = .next v ∧ v.pier = s.pier ∧ v.mem = s.mem ∧ v.cnt = s.cnt) ∧
       ∃ v, exec (.stepEnd c) s = .next v ∧ v.pier = s.pier ∧ v.mem = s.mem ∧ v.cnt = s.cnt) ∧
     (updRefused s c = false → s.pier.cmds.length < 64 → getCmd s s.pier.nextCmd = none →
       (ucOpc c = 1 → ∃ v, exec (.update c) s = .next v ∧
         v.pier.cmds = s.pier.cmds ++ [{ k := s.pier.nextCmd, cmd := c }] ∧ v.pier.nextCmd = s.pier.nextCmd + 1 ∧
         v.mem = s.mem ∧ v.cnt = s.cnt) ∧
       (ucOpc c = 2 → s.pier.cmds.all (fun y => decide (ucGroup y.cmd ≠ ucGroup c)) = true → gFrozen g.words = false →
         ∃ v x, exec (.stepEnd c) s = .next v ∧ getCmd v s.pier.nextCmd = some x ∧ x.cmd = c ∧ x.begun = true ∧
           getGroup v (ucGroup c) = { g with step := g.step + 1 } ∧ memWord v a = g.step + 1 ∧
           (∀ k, k < a ∨ a + 8 ≤ k → memByte v k = memByte s k) ∧ v.cnt = s.cnt))) ∧
  (∀ (s : State) (k : Nat) (x : PierCmd), getCmd s k = some x →
     let g := getGroup s (ucGroup x.cmd)
     (ucOpc x.cmd = 1 → x.begun = false → tileReady s x.cmd = true → cmdWaits s x = false → g.valid = true →
       (gFrozen g.words = false → ∃ v y, exec (.updateBegin k) s = .next v ∧ getCmd v k = some y ∧ y.begun = true ∧
         y.cmd = x.cmd ∧ y.grp = g ∧ y.ovr = s.pier.override ∧ v.cnt = s.cnt) ∧
       (gFrozen g.words = true → gStrict g.words = false → ∃ v y, exec (.updateBegin k) s = .next v ∧ getCmd v k = some y ∧
         y.formed = true ∧ y.writes = x.writes ∧ v.pier.groups = s.pier.groups ∧ v.mem = s.mem ∧ v.cnt = s.cnt)) ∧
     (x.begun = true → x.formed = true → x.writes = [] → portBusy s (.cmd k) = false → stopping s = false →
       ∀ c : Bool, c = true ∧ ucOpc x.cmd = 1 ∨ c = false ∧ ucOpc x.cmd = 2 →
         ∃ v, exec (if c then .updateComplete k else .stepEndComplete k) s = .next v ∧ getCmd v k = none ∧ v.cnt = s.cnt ∧
           (ucDoneEn x.cmd = true →
             v.net.out = s.net.out ++ [(65536 * 2 + (Tab.get 0 s.net.tags 2).toNat, .signal (ucGroup x.cmd))])))

/-- R279, R302, R308: a chunk whose shape stands in its tile is staged in a new tile or in its own; a chunk of another shape,
or of an older epoch of its chain, is a stray that is only counted; a newer epoch takes the place of a tile that is not
whole. A chunk of any other tile whose tag is staged is discarded with the rest of that tile, with one PIER_TAG_DUP
report. -/
def Obligations.ChunksStage : Prop :=
  ∀ (s : State) (p : Packet), pierTakes s = true →
    let new := stageInto { tag := chTag p, domain := chDomain p, epoch := chEpoch p, chain := chId p, src := p.src,
                           rows := chRows p, cols := chCols p } p
    let own := fun (t : StagedTile) => t.domain = chDomain p ∧ t.epoch = chEpoch p ∧ t.src = p.src ∧ t.chain = chId p
    (stageShape p = false ∨ domainFits s p = false → ∃ v, exec (.pierChunkStage p) s = .next v ∧ ReportsOnly s v) ∧
    (stageShape p = true → domainFits s p = true → s.pier.dups.any (dupHolds p) = true →
      ∃ v, exec (.pierChunkStage p) s = .next v ∧ { v with pier := { v.pier with dups := s.pier.dups } } = s ∧
        ∀ d ∈ v.pier.dups, dupHolds p d = true → ∃ e ∈ s.pier.dups, dupHolds p e = true ∧ d.left = e.left - 1 ∧ d.left ≠ 0) ∧
    (stageShape p = true → domainFits s p = true → s.pier.dups.any (dupHolds p) = false →
      (s.pier.tiles.find? (fun t => t.tag == chTag p) = none → stagedBytes s + 4 * chRows p * chCols p ≤ 2 ^ 24 →
        ∃ v, exec (.pierChunkStage p) s = .next v ∧ v.pier.tiles = s.pier.tiles ++ [new] ∧
          v.pier.cmds = s.pier.cmds ∧ v.mem = s.mem ∧ v.cnt = s.cnt) ∧
      (∀ t, s.pier.tiles.find? (fun t => t.tag == chTag p) = some t →
        (own t → t.rows = chRows p → t.cols = chCols p → t.chunks.contains (chRow p, chQuarter p) = false →
          ∃ v, exec (.pierChunkStage p) s = .next v ∧ stageInto t p ∈ v.pier.tiles ∧ v.pier.cmds = s.pier.cmds ∧
            v.mem = s.mem ∧ v.cnt = s.cnt) ∧
        (t.domain = chDomain p → t.src = p.src → t.chain = chId p → newerEpoch t.epoch (chEpoch p) = true →
          newerEpoch (chEpoch p) t.epoch = false → ∃ v, exec (.pierChunkStage p) s = .next v ∧ ReportsOnly s v) ∧
        (t.domain = chDomain p → t.count < t.rows * t.cols → newerEpoch (chEpoch p) t.epoch = true →
          stagedBytes { s with pier := { s.pier with tiles := s.pier.tiles.filter (fun x => x != t) } } + 4 * chRows p * chCols p
            ≤ 2 ^ 24 →
          ∃ v, exec (.pierChunkStage p) s = .next v ∧ v.pier.tiles = s.pier.tiles.filter (fun x => x != t) ++ [new] ∧
            v.pier.cmds = s.pier.cmds ∧ v.mem = s.mem ∧ v.cnt = s.cnt) ∧
        (t.domain ≠ chDomain p ∨ (t.src ≠ p.src ∨ t.chain ≠ chId p) ∧ newerEpoch (chEpoch p) t.epoch = false →
          ∃ v, exec (.pierChunkStage p) s = .next v ∧ v.pier.tiles = s.pier.tiles ∧ v.pier.cmds = s.pier.cmds ∧
            (1 < chRows p * cdiv (chCols p) 1024 → v.pier.dups.any (dupHolds p) = true) ∧
            (s.pier.repQ.length < 16 → ∃ r, v.pier.repQ = s.pier.repQ ++ [r] ∧ r.cause = 0x23 ∧
              r.detail0 = (chTag p).setWidth 64 ∧ r.detail1 = p.src.setWidth 64) ∧
            v.mem = s.mem ∧ v.cnt = s.cnt)))

/-- R22, R179, R180: a burst that the repeat cache holds is served from it; one that it does not hold asks the stack for its
units, or for the whole line where it is to be kept; where another read is filling the line, the burst waits for that (the
model's choice, log entry 76); a write changes exactly its unmasked bytes and invalidates every line that it overlaps.
R178, R179, R270, R271, R429: the response to a burst's last request ends it and keeps its line; an uncorrectable one
stops the command that it served; an acknowledgement ends a write; a tag that is not outstanding is counted only. -/
def Obligations.PierTraffic : Prop :=
  (∀ (s : State), partRuns s .pier = true →
     (∀ b ln, b.wf = true → offStack s b.addr.toNat b.len = false → rcLine s b.addr.toNat b.domain = some ln →
       ∃ v, exec (.pierReadBurst b) s = .next v ∧ v.pier.lines = ln :: s.pier.lines.filter (fun x => x != ln) ∧
         v.pier.port = s.pier.port ∧ v.mem = s.mem ∧ v.cnt = s.cnt) ∧
     (∀ b, b.wf = true → offStack s b.addr.toNat b.len = false → rcLine s b.addr.toNat b.domain = none → fillOf s b = none →
       getJob s s.pier.nextCmd = none →
       ∃ v j, exec (.pierReadBurst b) s = .next v ∧ getJob v s.pier.nextCmd = some j ∧ j.burst = some b ∧
         (∀ a ∈ (if b.rep then unitsOf (b.addr.toNat / 512 * 512) 512 else unitsOf b.addr.toNat b.len),
           a ∈ j.todo ∨ ∃ q ∈ v.pier.port, q.addr = a ∧ q.write = false ∧ q.who = .job s.pier.nextCmd) ∧
         v.pier.lines = s.pier.lines ∧ v.mem = s.mem ∧ v.cnt = s.cnt) ∧
     (∀ b w, offStack s b.addr.toNat b.len = false → fillOf s b = some w →
       ∃ v j, exec (.pierReadBurst b) s = .next v ∧ j ∈ v.pier.jobs ∧ j.k = s.pier.nextCmd ∧ j.wait = some w ∧ j.burst = some b ∧
         v.pier.port = s.pier.port ∧ v.pier.lines = s.pier.lines ∧ v.mem = s.mem ∧ v.cnt = s.cnt) ∧
     (∀ (a : BitVec 48) data mask, offStack s a.toNat data.length = false → getJob s s.pier.nextCmd = none →
       let ws := ((addrBytes a.toNat data).zip mask).filterMap (fun x => if x.2 then some x.1 else none)
       ∃ v, exec (.pierWrite a data mask) s = .next v ∧ v.mem = putBytes s.mem ws ∧
         (∀ ln ∈ v.pier.lines, ln ∈ s.pier.lines ∧ ∀ w ∈ ws, w.1 / 512 ≠ ln.addr / 512) ∧ v.cnt = s.cnt)) ∧
  (∀ (s : State) (lane : Fin 32) (tag : BitVec 10),
     (s.pier.port.all (fun r => !(r.lane == lane.val && r.tag == tag.toNat)) = true →
       (∀ e, ∃ v, exec (.pierReadResponse lane tag e) s = .next v ∧ ReportsOnly s v) ∧
       ∃ v, exec (.pierWriteAck lane tag) s = .next v ∧ ReportsOnly s v) ∧
     (∀ a k ls, s.pier.port = [⟨lane.val, tag.toNat, a, false, .job k⟩] → s.pier.cmds = [] →
       ∀ b, s.pier.jobs = [{ k := k, burst := some b, lines := ls }] →
         ∃ v, exec (.pierReadResponse lane tag 0) s = .next v ∧ v.pier.port = [] ∧ v.pier.jobs = [] ∧ v.mem = s.mem ∧
           v.cnt = s.cnt ∧
           (ls = [] → v.pier.lines = s.pier.lines) ∧
           (∀ c, ls = [c] → (List.range 16).any (fun w => !s.pier.badWays.contains (rcSet (c / 512 * 512), w)) = true →
             ∃ w, v.pier.lines.head? = some ⟨c / 512 * 512, b.domain, memBytes s (c / 512 * 512) 512, w⟩)) ∧
     (∀ a k x e, s.pier.port.find? (fun r => r.lane == lane.val && r.tag == tag.toNat && !r.write) =
         some ⟨lane.val, tag.toNat, a, false, .cmd k⟩ → getCmd s k = some x → 2 ≤ e.toNat →
       ∃ v, exec (.pierReadResponse lane tag e) s = .next v ∧ getCmd v k = none ∧ v.cnt = s.cnt) ∧
     (∀ a k p old, s.pier.port = [⟨lane.val, tag.toNat, a, true, .job k⟩] → s.pier.cmds = [] →
       s.pier.jobs = [{ k := k, req := p, old := old }] →
         ∃ v, exec (.pierWriteAck lane tag) s = .next v ∧ v.pier.port = [] ∧ v.pier.jobs = [] ∧ v.mem = s.mem ∧ v.cnt = s.cnt))

/-- R9, R180, R272, R274, R275, R469: PIER_GROUP_RELOAD starts a reload unless one runs, and its end takes the entry or
refuses it; REFUSED is cleared by a 1 unless it is set in the same cycle; REPCACHE_FLUSH starts a flush of a domain, and
its end has no line of the domain left; PIER_PCMAP takes five different bits of 6 to 39 until it is locked.
R416, R417, R430: STACK_READY starts the stack's traffic and locks PIER_PCMAP; its loss after start-up, STACK_FATAL and an
unanswered request each stop the engine set with reason 2; of a failed bank of the repeat cache the lines of the failed
ways are gone and the others stay. -/
def Obligations.PierRegistersAndStack : Prop :=
  (∀ (s : State) (v : Word), partWrites s .pier = true →
     (∃ w, exec (.pierGroupReload v) s = .next w ∧ w.pier.reloadBusy = true ∧
       w.pier.reloadGroup = (if s.pier.reloadBusy then s.pier.reloadGroup else fld v 0 8) ∧
       (hwNow s .pier 0x40010 = 0 → w.pier.reloadRefused = (s.pier.reloadRefused && !v.getLsbD 30)) ∧
       (hwNow s .pier 0x40010 = 2 ^ 30 → w.pier.reloadRefused = s.pier.reloadRefused) ∧ w.pier.groups = s.pier.groups ∧ w.mem = s.mem) ∧
     (s.pier.reloadBusy = true →
       (∀ x, checkGroup s s.pier.reloadGroup.toNat = .ok x → s.pier.cmds = [] → s.pier.jobs = [] →
         ∃ w, exec .groupReloadDone s = .next w ∧ getGroup w s.pier.reloadGroup.toNat = x ∧ w.pier.reloadBusy = false ∧
           (∀ g, g ≠ s.pier.reloadGroup.toNat → getGroup w g = getGroup s g) ∧ w.mem = s.mem) ∧
       (∀ d, checkGroup s s.pier.reloadGroup.toNat = .error d →
         ∃ w, exec .groupReloadDone s = .next w ∧ w.pier.reloadRefused = true ∧ w.pier.reloadBusy = false ∧
           w.pier.groups = s.pier.groups ∧ w.mem = s.mem)) ∧
     (s.pier.flushBusy = false → ∃ w, exec (.repcacheFlush v) s = .next w ∧ w.pier.flushBusy = true ∧
       w.pier.flushDomain = fld v 0 16 ∧ w.pier.lines = s.pier.lines ∧ w.mem = s.mem) ∧
     (s.pier.flushBusy = true → ∃ w, exec .repcacheFlushDone s = .next w ∧ w.pier.flushBusy = false ∧ w.mem = s.mem ∧
       w.pier.lines = s.pier.lines.filter (fun ln => ln.domain != s.pier.flushDomain)) ∧
     (s.pier.pcmapLocked = true → exec (.pierPcmap v) s = .next s) ∧
     (s.pier.pcmapLocked = false → (pcSels v).all (fun b => decide (6 ≤ b ∧ b ≤ 39)) = true → (pcSels v).Nodup →
       ∃ w, exec (.pierPcmap v) s = .next w ∧ w.pier.pcmap = v &&& 0x0000003F3F3F3F3F ∧ w.mem = s.mem)) ∧
  (∀ (s : State), stopping s = false →
     (partRuns s .pier = false →
       (∀ level, ∃ v, exec (.stackReady level) s = .next v ∧ v.pins.stackReady = level ∧ v.pier = s.pier ∧ v.eng = s.eng) ∧
       ∃ v, exec .stackFatal s = .next v ∧ v.pins.stackFatal = true ∧ v.eng = s.eng) ∧
     (partRuns s .pier = true → ∃ v, exec (.stackReady true) s = .next v ∧ v.pins.stackReady = true ∧ v.pier.readySeen = true ∧ v.pier.pcmapLocked = true ∧
       v.eng.mode = s.eng.mode ∧ v.cnt = s.cnt) ∧
     (partRuns s .pier = true → s.pins.stackReady = true → s.eng.linksDone = true →
       ∃ v, exec (.stackReady false) s = .next v ∧ v.pins.stackReady = false ∧ v.eng.mode = 2 ∧ v.eng.stopReason = 2 ∧
         v.mem = s.mem ∧ v.cnt = s.cnt) ∧
     (partRuns s .pier = true → ∃ v, exec .stackFatal s = .next v ∧ v.eng.mode = 2 ∧ v.eng.stopReason = 2 ∧ v.mem = s.mem ∧ v.cnt = s.cnt) ∧
     (s.pier.port ≠ [] →
       ∃ v, exec .stackNoResponse s = .next v ∧ v.eng.mode = 2 ∧ v.eng.stopReason = 2 ∧ v.mem = s.mem ∧ v.cnt = s.cnt) ∧
     (∀ ways, ∃ v, exec (.repeatCacheBankFail ways) s = .next v ∧ v.mem = s.mem ∧ v.cnt = s.cnt ∧
       (∀ ln ∈ v.pier.lines, ln ∈ s.pier.lines) ∧
       (∀ ln ∈ s.pier.lines, ln ∈ v.pier.lines ↔ (rcSet ln.addr, ln.way) ∉ ways) ∧
       ∀ w ∈ ways, w.1 < 8192 → w.2 < 16 → w ∈ v.pier.badWays))

/-- R317, R318, R333, R343, R345: a flit in order is taken, acknowledged, and its packets arrive, and after it one that came
ahead of it; one whose CRC fails, or that is missing once every module has brought a later one, is asked for again once;
one that came before is acknowledged anew (the model's choice, log entry 61). A replay timeout sends every unacknowledged
flit again: they stay in the replay buffer, which is what a port sends from, and the replays count every one of them; the
sixteenth without progress takes the port DOWN. A port or module in a loop-back brings none. -/
def Obligations.FlitsArrive : Prop :=
  ∀ (s : State) (p : LinkId) (m : Nat) (fl : Flit),
    let k := linkKey p
    let x := getPort s k
    (linkLooped s k m = true → exec (.flitReceive p m fl) s = .next s) ∧
    (x.st = .up ∨ x.st = .negotiating → linkLooped s k m = false →
      (crcOk fl = false → hasModules k = false ∨ (getMod s (keyPart k) m).crcFails.length < 15 →
        ∃ v, exec (.flitReceive p m fl) s = .next v ∧ getPort v k = gap x ∧ v.net = s.net ∧ v.mem = s.mem ∧ v.cnt = s.cnt) ∧
      (crcOk fl = true → flSeq fl ≠ x.rxSeq → ∃ v, exec (.flitReceive p m fl) s = .next v ∧
        getPort v k = (if behind (flSeq fl) x.rxSeq then { x with ackDue := true } else if x.nakSent then x
          else if allAhead s k (x.early ++ [(m, fl)]) then gap x else { x with early := x.early ++ [(m, fl)] }) ∧
        v.net = s.net ∧ v.mem = s.mem ∧ v.cnt = s.cnt) ∧
      (crcOk fl = true → flSeq fl = x.rxSeq → flCvc fl ≠ 7 → k < 16 → x.early.all (fun e => flSeq e.2 != x.rxSeq + 1) = true →
        ∃ v, exec (.flitReceive p m fl) s = .next v ∧ (getPort v k).rxSeq = x.rxSeq + 1 ∧ (getPort v k).ackDue = true ∧
          (getPort v k).nakSent = false ∧ (getPort v k).replay = (ackFlits x (flAck fl)).replay ∧
          v.net.rx = s.net.rx ++ (parseFlit x.rx fl.data).out ∧ (∀ q, q ≠ k → getPort v q = getPort s q) ∧
          v.mem = s.mem ∧ v.cnt = s.cnt) ∧
      (∀ m' fl', crcOk fl = true → flSeq fl = x.rxSeq → flCvc fl ≠ 7 → k < 16 → x.early = [(m', fl')] → flSeq fl' = x.rxSeq + 1 →
        flCvc fl' ≠ 7 →
        let q := parseFlit x.rx fl.data
        ∃ v, exec (.flitReceive p m fl) s = .next v ∧ (getPort v k).rxSeq = x.rxSeq + 2 ∧ (getPort v k).early = [] ∧
          v.net.rx = s.net.rx ++ q.out ++ (parseFlit q.buf fl'.data).out ∧ v.mem = s.mem ∧ v.cnt = s.cnt)) ∧
    (x.replay ≠ [] → x.st = .up ∨ x.st = .negotiating →
      (x.resends < 15 → ∃ v, exec (.flitReplayTimeout p) s = .next v ∧
        getPort v k = { x with resends := x.resends + 1 } ∧ (getPort v k).replay = x.replay ∧
        v.perf = (event s 0x203 x.replay.length srcNone).perf ∧ v.mem = s.mem ∧ v.cnt = s.cnt) ∧
      (15 ≤ x.resends → LinksIdle s = true → ∃ v, exec (.flitReplayTimeout p) s = .next v ∧ (getPort v k).st = .down ∧ v.mem = s.mem ∧
        v.cnt = s.cnt))

/-- R325, R343, R344, R347, R402, R403, R419, R431, R434: from the fuse load on a DOWN port starts to train, by itself or
after a failure, an Ethernet port where it is a link with its EtherType, its lanes' signal being found then (log entry
101); training that ends with a module that works, for its right partner and in no loop-back, brings NEGOTIATING and an
IDENT, and with none DOWN; a span link that ends so in phase LINKS fails start-up, unless the part at its far end is in
reset.
R320, R326, R327, R350, R431: a malformed IDENT is discarded; an IDENT of a version both sides have brings the port UP
with the lower version and the common features; one without, or, but at port 0, one from a router of the own address,
brings FAILED with a report, and one of another part than the link's far end FAILED; a port without its partner's IDENT
sends its own again. -/
def Obligations.LinkStart : Prop :=
  (∀ (s : State) (p : LinkId),
     let k := linkKey p
     let x := getPort s k
     (x.st = .down → mayTrain (seeSignal s k) k = true → s.eng.fuseDone = true → partRuns s (keyPart k) = true →
       (∃ v, exec (.trainingStart p) s = .next v ∧ (getPort v k).st = .training ∧ v.mem = s.mem ∧ v.cnt = s.cnt) ∧
       ∃ v, exec (.trainingRetry p) s = .next v ∧ (getPort v k).st = .training ∧ v.mem = s.mem ∧ v.cnt = s.cnt) ∧
     (∀ ms, x.st = .training →
       let good := ((ms.filter (fun m => !moduleLooped s (keyPart k) m.1 &&
         (decide (k ≠ 16 ∧ k ≠ 17) || decide (modPort s .span m.1 = some k ∧ m.1 < 8)))).filter (fun m => joins m.2)).map (·.1)
       (good ≠ [] → (isEth k = true → hasSignal s k = true) → ∃ v, exec (.trainingDone p ms) s = .next v ∧ (getPort v k).st = .negotiating ∧
         (getPort v k).mods = (if hasModules k then good else []) ∧ (getPort v k).txSeq = 0 ∧ (getPort v k).rxSeq = 0 ∧ (getPort v k).identGot = false ∧
         (∃ q, (getPort v k).txq = [q] ∧ q.typ = 0x14 ∧ q.payload = identBytes s k) ∧ v.mem = s.mem ∧ v.cnt = s.cnt) ∧
       (good = [] ∨ isEth k = true ∧ hasSignal s k = false → ∃ v, exec (.trainingDone p ms) s = .next v ∧ (getPort v k).st = .down ∧
         (k = 16 ∨ k = 17 → s.eng.linksDone = false → farInReset s k = false → v.eng.startFail = true) ∧ v.mem = s.mem ∧ v.cnt = s.cnt))) ∧
  (∀ (s : State) (p : LinkId) (pk : Packet),
     let k := linkKey p
     let x := getPort s k
     let vmax := bits (payloadWord pk 0) 63 56
     let vmin := bits (payloadWord pk 0) 55 48
     let addr : BitVec 24 := fld (payloadWord pk 0) 24 24
     let v := min 0x12 vmax
     let allowed : Half := if v < 0x11 then 0x0F else if v < 0x12 then 0x3F else 0x7F
     let feats : Half := fld (payloadWord pk 1) 32 32 &&& 0x7F &&& allowed
     let clash := k ≠ 0 ∧ k < 16 ∧ addressed s = true ∧ addr = s.abut.fabActive &&& 0xFFFFF0
     x.st = .negotiating →
       (badHeader pk = true → ∃ w, exec (.ident p pk) s = .next w ∧ getPort w k = x ∧ w.mem = s.mem ∧ w.cnt = s.cnt) ∧
       (badHeader pk = false → vmin ≤ v → 0x10 ≤ v → vmax / 16 = 1 → feats.getLsbD 0 = true →
         ¬ clash → wrongPart k pk = false →
           ∃ w, exec (.ident p pk) s = .next w ∧ (getPort w k).st = .up ∧ (getPort w k).version = BitVec.ofNat 8 v ∧
             (getPort w k).features = feats ∧ (getPort w k).partnerAddr = addr ∧ (getPort w k).identGot = true ∧
             w.mem = s.mem ∧ w.cnt = s.cnt) ∧
       (badHeader pk = false → v < vmin ∨ v < 0x10 ∨ vmax / 16 ≠ 1 ∨ feats.getLsbD 0 = false ∨ wrongPart k pk = true ∨ clash →
         ∃ w, exec (.ident p pk) s = .next w ∧ (getPort w k).st = .failed ∧
           (clash → s.abut.repQ.length < 15 → ∃ r ∈ w.abut.repQ, r.cause = 0x32 ∧ r.detail0 = BitVec.ofNat 64 k ∧
             r.detail1 = BitVec.ofNat 64 (vmin + 256 * vmax + 65536)) ∧ w.mem = s.mem ∧ w.cnt = s.cnt) ∧
       (x.identGot = false → ∃ w, exec (.identResend p) s = .next w ∧ w.mem = s.mem ∧ w.cnt = s.cnt ∧
         ∃ q, getPort w k = { x with txq := x.txq ++ [q] } ∧ q.typ = 0x14))

/-- R345, R347, R432 to R434, R471: PORT_CTL takes a replay timeout of at least 256 and retrains a port; a link lost goes
DOWN; a retrained module returns to its link or stays out of it; a module whose keep-alive falls is out; a lane's lost
signal takes its port DOWN. -/
def Obligations.LinkLosses : Prop :=
  ∀ (s : State),
    (∀ (q : Fin 16) (w : Word), partWrites s .abut = true →
      (w.getLsbD 4 = false → ∃ v, exec (.portRetrain q w) s = .next v ∧ v.mem = s.mem ∧ v.cnt = s.cnt ∧
        getPort v q.val = { getPort s q.val with replayTimeout := BitVec.ofNat 16 (max 256 (bits w 47 32)) }) ∧
      (w.getLsbD 4 = true → mayTrain s q.val = true → LinksIdle s = true → ∃ v, exec (.portRetrain q w) s = .next v ∧
        (getPort v q.val).st = .training ∧ (getPort v q.val).replayTimeout = BitVec.ofNat 16 (max 256 (bits w 47 32)) ∧
        v.mem = s.mem ∧ v.cnt = s.cnt)) ∧
    (∀ p, (getPort s (linkKey p)).st = .up ∨ (getPort s (linkKey p)).st = .negotiating → LinksIdle s = true →
      ∃ v, exec (.portLinkDown p) s = .next v ∧ (getPort v (linkKey p)).st = .down ∧ v.cnt = s.cnt) ∧
    (∀ lane : Fin 8, LinksIdle s = true →
      ∃ v, exec (.signalDetectLoss lane) s = .next v ∧ v.pins.sigDetect.getLsbD lane.val = false ∧ v.cnt = s.cnt ∧
        ((getPort s (lanePort s lane.val)).st = .up → (getPort v (lanePort s lane.val)).st = .down)) ∧
    (∀ part m r k, (getMod s part m).out = true → modPort s part m = some k → moduleLooped s part m = false →
      ∃ v, exec (.moduleRetrainDone part m r) s = .next v ∧ (getMod v part m).out = !joins r ∧ (getMod v part m).up = r.ok ∧
        (joins r = true → m ∈ (getPort v k).mods) ∧ v.mem = s.mem ∧ v.cnt = s.cnt) ∧
    (∀ part m, LinksIdle s = true → ∃ v, exec (.kaTxReadyFall part m) s = .next v ∧ (getMod v part m).out = true ∧ v.mem = s.mem ∧
      v.cnt = s.cnt)

/-- R315, R320, R322, R323, R330: the router passes a well-formed packet on with TTL one less, or keeps one for itself, and
discards a malformed one; old answers are forgotten after 16,384 cycles.
R346, R347, R472: an Ethernet frame that fails any of R346's conditions is counted and dropped, and the flits of a good
one are received, in their order, as flits of its port; ETH_LINKCFG changes only while every Ethernet port is DOWN. -/
def Obligations.RouterAndEthernet : Prop :=
  (∀ (s : State) (p : Fin 16) (pk : Packet), linkLocal pk = false → addressed s = true → failedTakes s p.val pk = true →
     (badPacket pk = false → unrouted pk = false → 1 < pk.ttl.toNat →
       (∀ q, routeOf s p.val pk = .port q → ∃ v, exec (.routerForward p pk) s = .next v ∧
         (getPort v q).txq = (getPort s q).txq ++ [{ pk with ttl := pk.ttl - 1 }] ∧
         (∀ k, k ≠ q → getPort v k = getPort s k) ∧ v.net.rx = s.net.rx.erase pk ∧ v.mem = s.mem ∧ v.cnt = s.cnt) ∧
       (routeOf s p.val pk = .mine → ∃ v, exec (.routerForward p pk) s = .next v ∧
         v.net.rx = s.net.rx.erase pk ++ [pk] ∧ v.abut = s.abut ∧ v.mem = s.mem ∧ v.cnt = s.cnt)) ∧
     (badPacket pk = true → ∃ v, exec (.routerForward p pk) s = .next v ∧ v.net.rx = s.net.rx.erase pk ∧
       v.abut = s.abut ∧ v.mem = s.mem ∧ v.cnt = s.cnt) ∧
     exec .dedupExpiry s = .next { s with abut := { s.abut with
       dedup := s.abut.dedup.filter (fun d => decide (s.now < d.made + 16384)) } }) ∧
  (∀ (s : State) (p : Fin 16) (fr : EthFrame) (w : Word), isEth p.val = true →
     (ethBad s p.val fr = true → ∃ v, exec (.ethFrame p fr) s = .next v ∧ ReportsOnly s v) ∧
     (ethBad s p.val fr = false →
       (∀ fl, fr.flits = [fl] → ∃ v, exec (.flitReceive (.abut p) 0 fl) s = .next v ∧ exec (.ethFrame p fr) s = .next v) ∧
       (∀ fl fl', fr.flits = [fl, fl'] → ∃ u v, exec (.flitReceive (.abut p) 0 fl) s = .next u ∧
         exec (.flitReceive (.abut p) 0 fl') u = .next v ∧ exec (.ethFrame p fr) s = .next v) ∧
       (∀ fl, fr.flits = [fl] → (getPort s p.val).st = .up ∨ (getPort s p.val).st = .negotiating → crcOk fl = true →
         flSeq fl = (getPort s p.val).rxSeq → flCvc fl ≠ 7 → (getPort s p.val).early = [] → linkLooped s p.val 0 = false →
           ∃ v, exec (.ethFrame p fr) s = .next v ∧ (getPort v p.val).rxSeq = (getPort s p.val).rxSeq + 1 ∧
             v.net.rx = s.net.rx ++ (parseFlit (getPort s p.val).rx fl.data).out ∧ v.mem = s.mem ∧ v.cnt = s.cnt)) ∧
     (partWrites s .abut = true →
       ((List.range 8).all (fun k => decide ((getPort s (6 + k)).st = .down)) = true →
         ∃ v, exec (.ethLinkcfg w) s = .next v ∧ v = { s with abut := { s.abut with linkCfg := fld w 0 2 } }) ∧
       ((List.range 8).any (fun k => decide ((getPort s (6 + k)).st ≠ .down)) = true → exec (.ethLinkcfg w) s = .next s)))

/-- R15, R179, R180, R321, R323, R348: a WRITE at the Pier, on its own stack, or at the Abutment stores its bytes, which stand
from its arrival on (the model's reading, log entry 63); a READ changes no byte, and one whose lines the repeat cache
holds is answered at once; a resent request gets its stored answer and has no second effect.
R349, R435: the last unit of a CXL request that comes back answers it, a READ with AUX 2 where a unit was poisoned; a
request that has stood CXL_TIMEOUT beats is answered with AUX 2 and reported by FAB_CXL. -/
def Obligations.FabricMemory : Prop :=
  (∀ (s : State) (pk : Packet),
     let ws := addrBytes (pkAddr pk) ((pk.payload.drop 8).take (pkLen pk))
     (arrives s pk 0x01 = true →
       (dedupHit s pk = none → epOf pk.dest = 0 ∨ epOf pk.dest = 2 ∧ offStack s (pkAddr pk) (pkLen pk) = false ∧ partRuns s .pier = true →
         ∃ v, exec (.write pk) s = .next v ∧ v.mem = putBytes s.mem ws ∧ v.cnt = s.cnt) ∧
       (∀ r, dedupHit s pk = some r →
         ∃ v, exec (.write pk) s = .next v ∧ v.mem = s.mem ∧ v.cnt = s.cnt ∧ v.pier = s.pier)) ∧
     (arrives s pk 0x03 = true → dedupHit s pk = none →
       (∃ v, exec (.read pk) s = .next v ∧ v.mem = s.mem ∧ v.cnt = s.cnt) ∧
       (epOf pk.dest = 2 → partRuns s .pier = true → offStack s (pkAddr pk) (pkLen pk) = false → missesOf s (burstOf pk) = [] →
         ∃ v, exec (.read pk) s = .next v ∧ Answered s v pk (ownAddr s 2) 0x04 0 (lineBytes s (burstOf pk))) ∧
       (epOf pk.dest = 0 → pkLen pk ≠ 0 → getCxl s s.abut.nextJob = none →
         ∃ v j, exec (.read pk) s = .next v ∧ getCxl v s.abut.nextJob = some j ∧ j.req = pk ∧
           ∀ a ∈ unitsOf (pkAddr pk) (pkLen pk), a ∈ j.todo ∨
             ∃ q ∈ v.abut.cxl, q.unit = a ∧ q.write = false ∧ q.job = s.abut.nextJob))) ∧
  (∀ (s : State) (tag : BitVec 12) (j : CxlJob) (a : Nat),
     (∀ poison, s.abut.cxl = [⟨tag.toNat, a, cxlWrites j, j.k⟩] → s.abut.cxlJobs = [j] → j.todo = [] →
       ∃ v, exec (.cxlResponse tag (cxlWrites j) poison) s = .next v ∧ v.abut.cxl = [] ∧ v.abut.cxlJobs = [] ∧
         v.mem = s.mem ∧ v.cnt = s.cnt ∧
         (if cxlWrites j then Answered s v j.req (ownAddr s 0) 0x02 0 []
           else Answered s v j.req (ownAddr s 0) 0x04 (if j.bad || poison then 2 else 0)
             (memBytes s (pkAddr j.req) (pkLen j.req)))) ∧
     (∀ r, s.abut.cxl.find? (fun r => r.tag == tag.toNat) = some r → getCxl s r.job = some j →
       s.abut.cxlTimeout.toNat < j.beats →
         ∃ v, exec (.cxlTimeout tag) s = .next v ∧ getCxl v r.job = none ∧ v.mem = s.mem ∧ v.cnt = s.cnt ∧
           (s.abut.repQ.length < 16 → ∃ e, v.abut.repQ = s.abut.repQ ++ [e] ∧ e.cause = 0x35 ∧ e.detail0 = BitVec.ofNat 64 r.unit ∧
             e.detail1 = 2) ∧
           (s.abut.cxlJobs = [j] → Answered s v j.req (ownAddr s 0) (if cxlWrites j then 0x02 else 0x04) 2
             (if cxlWrites j then [] else memBytes s (pkAddr j.req) (pkLen j.req)))))

/-- R336, R322, R323: a SIGNAL at the span raises the counter it names where its lease, range and domain allow and R249 is
kept, and is answered with its status; any other changes no counter but the OVF bit of one that it would overflow. -/
def Obligations.SignalsArrive : Prop :=
  ∀ (s : State) (pk : Packet), arrives s pk 0x05 = true → dedupHit s pk = none → epOf pk.dest = 1 →
    let n := sgCounter pk
    let st := signalStatus s pk
    ∃ v, exec (.signal pk) s = .next v ∧ v.mem = s.mem ∧ Answered s v pk (ownAddr s 1) 0x06 (BitVec.ofNat 16 st) [] ∧
      (∀ k, k ≠ n → getCnt v k = getCnt s k) ∧
      (∀ c, st = 0 → hears s n = true → sigCnt (getCnt s n) (sgAmount pk) = some c → getCnt v n = c) ∧
      (st = 4 → hears s n = true → getCnt v n = { getCnt s n with ovf := true }) ∧
      (st = 1 ∨ st = 2 ∨ st = 3 → v.cnt = s.cnt)

/-- R160, R162, R203, R258, R322, R323, R415: an acknowledgement ends the request it answers; an EVENT is answered; a stream's
response and acknowledgement complete its burst; a table's response brings its bytes, or its poison, to the lease that
asked (the model's choice, log entry 49); the last acknowledgement of an instruction's results lets it write its status
word, and that of the status word lets it signal; an UNREACHABLE refuses an update command, which faults with check 34; a
report leaves its queue as a request.
R243, R278, R321: the Pier's acceptance completes an UPD.ISSUE; its refusal faults it with check 34, which a CONFIG report
names, and halts its thread. -/
def Obligations.FabricAnswers : Prop :=
  (∀ (s : State) (pk : Packet),
     let out := s.net.out.filter (fun e => e.1 != 65536 * epOf pk.dest + pk.tag.toNat)
     (∀ c : Instr, (c = .signalAck pk ∧ arrives s pk 0x06 = true ∨ c = .eventAck pk ∧ arrives s pk 0x08 = true ∨
         c = .mgmtResp pk ∧ arrives s pk 0x13 = true) →
       exec c s = .next { s with net := { s.net with rx := s.net.rx.erase pk, out := out } }) ∧
     (arrives s pk 0x07 = true → dedupHit s pk = none → epOf pk.dest < 3 →
       ∃ v, exec (.event pk) s = .next v ∧ Answered s v pk (ownAddr s (epOf pk.dest)) 0x08 0 [] ∧ v.mem = s.mem ∧
         v.cnt = s.cnt) ∧
     (∀ c n k b l, outstanding s pk = some (.burst c n k) → ctxOwner s c = some l → getBurst (getStr s c) n k = some b →
       inFlight b = true → StreamsIdle s = true →
       (arrives s pk 0x04 = true → stIsRing (getStr s c) = true → bits pk.aux 1 0 < 2 → b.bad = false →
         ∃ v, exec (.readResp pk) s = .next v ∧ getBurst (getStr v c) n k = some { b with done := true, poison := false, data := [] } ∧ v.mem = s.mem ∧
           v.cnt = s.cnt) ∧
       (arrives s pk 0x02 = true → stIsRing (getStr s c) = false →
         ∃ v, exec (.writeAck pk) s = .next v ∧ getBurst (getStr v c) n k = some { b with done := true } ∧
           v.mem = putBytes s.mem (addrBytes b.pa b.data) ∧ v.cnt = s.cnt) ∧
       (arrives s pk 0x10 = true → (getStr s c).st = .running →
         ∃ v, exec (.unreachable pk) s = .next v ∧ (getStr v c).st = .halted ∧ (getStr v c).faultXfer = BitVec.ofNat 64 n ∧
           v.mem = s.mem ∧ v.cnt = s.cnt)) ∧
     (∀ l pa len, arrives s pk 0x04 = true → outstanding s pk = some (.table l pa len) →
       ∃ v, exec (.readResp pk) s = .next v ∧ v.net.got = s.net.got ++ (if l < 16 then [(l, pa, len)] else []) ∧ v.cnt = s.cnt ∧
         (bits pk.aux 1 0 < 2 → v.mem = putBytes s.mem (addrBytes pa pk.payload)) ∧
         (2 ≤ bits pk.aux 1 0 → v.mem = s.mem ∧ ∀ a ∈ unitsOf pa len, a / 64 ∈ v.memBad)) ∧
     (∀ u i w, arrives s pk 0x02 = true → outstanding s pk = some (.result u) → getInstr s u = some i → i.owes = some (w, sigList i) →
       out.all (fun e => e.2 != .result u) = true → stopping s = false → StreamsIdleBut s u = true →
       (w = none → ∃ v, exec (.writeAck pk) s = .next v ∧ Completed s v { i with statusPa := none } s.mem) ∧
       (∀ x, w = some x → x.getLsbD 0 = true → (∀ a, i.statusPa = some a → ∀ k < 8, isFar s (a + k) = false) →
         ∃ v, exec (.writeAck pk) s = .next v ∧ Completed s v i s.mem)) ∧
     (∀ u i, arrives s pk 0x10 = true → outstanding s pk = some (.upd u) → getInstr s u = some i →
       ∃ v, exec (.unreachable pk) s = .next v ∧ FailsWith s v i 0x03 34 i.a) ∧
     (∀ part r rest, repQueue s part = r :: rest → reportDest s part r ≠ 0 → addressed s = true →
       ∃ v, exec (.reportDequeue part) s = .next v ∧ repQueue v part = rest ∧
         v.net.out = s.net.out ++ [(65536 * partEp part + (Tab.get 0 s.net.tags (partEp part)).toNat, .event)] ∧
         v.mem = s.mem ∧ v.cnt = s.cnt)) ∧
  (∀ (s : State) (pk : Packet) (u : Nat) (i : SpanI), arrives s pk 0x0C = true → outstanding s pk = some (.upd u) →
     getInstr s u = some i → stopping s = false → LinksIdleBut s u = true →
       (pk.aux = 0 → OwnWrites s i → ∃ v, exec (.updResp pk) s = .next v ∧ Completed s v i s.mem) ∧
       (pk.aux ≠ 0 → ∃ v, exec (.updResp pk) s = .next v ∧ FailsWith s v i 0x03 34 i.a))

/-- R337 to R339: MC_DATA goes up towards the root, or down every live branch, and its router remembers whom to answer; a
packet of no valid group is discarded, and one whose link towards the root is lost goes no further; at a span whose lease
binds the group its bytes are written.
R322, R328, R338 to R340: a branch's last answer is passed up, or discarded where no link takes it; a branch that does not
answer in time is pruned from its group; a MISSED notice at the span marks the message for the lease that binds the group;
the last byte written raises the bound counter once. That MISSED names its group in payload word 1, that MC_ACK's SRC is
the group and that branch 0 is the span are the model's reading (log entry 62). -/
def Obligations.Multicast : Prop :=
  (∀ (s : State) (p : Fin 16) (pk : Packet), pk.typ = 0x0D → s.eng.startFail = false → recvWaits s pk = none →
     let g := mdGroup pk
     let e := mcEntry s g
     let out := { pk with ttl := pk.ttl - 1 }
     (mcBad pk = true ∨ meValid e = false → ∃ v, exec (.mcData p pk) s = .next v ∧ v.mc = s.mc ∧ v.abut = s.abut ∧
       v.net.rx = s.net.rx.erase pk ∧ v.mem = s.mem ∧ v.cnt = s.cnt) ∧
     (mcBad pk = false → meValid e = true →
       let w : McWait := { group := g, pk := pk, mseq := mdMseq pk, off := mdOff pk, upPort := p.val, waiting := [meUp e] }
       (meRoot e = false → p.val ≠ meUp e → meUp e ≠ 0 → branchLive s (meUp e) = true → ∃ v, exec (.mcData p pk) s = .next v ∧ w ∈ v.mc.wait ∧
         (∀ q, (branchPort s (meUp e)).getD (meUp e) = q → (getPort v q).txq = (getPort s q).txq ++ [out]) ∧
         v.mem = s.mem ∧ v.cnt = s.cnt) ∧
       (meRoot e = false → p.val ≠ meUp e → branchLive s (meUp e) = false → ∃ v, exec (.mcData p pk) s = .next v ∧ v.mc = s.mc ∧
         v.mem = s.mem ∧ v.cnt = s.cnt) ∧
       (meRoot e = true ∨ p.val = meUp e → (prunedBranches s g).all (fun q => q == p.val) = true →
         let down := (meDown e).filter (fun q => q != p.val && branchLive s q)
         (0 ∉ down → down ≠ [] → ∃ v, exec (.mcData p pk) s = .next v ∧ { w with waiting := down } ∈ v.mc.wait ∧
           (∀ q ∈ down, out ∈ (getPort v ((branchPort s q).getD q)).txq) ∧ v.mem = s.mem ∧ v.cnt = s.cnt) ∧
         (∀ l b ws, 0 ∈ down → addressed s = true → bindings s g = [(l, b)] → (recvAt s l b pk).1 = .ok ws →
           (∀ x ∈ ws, isFar s x.1 = false) → ∃ v, exec (.mcData p pk) s = .next v ∧ v.mem = putBytes s.mem ws ∧ v.cnt = s.cnt ∧
             ∃ r ∈ v.mc.recv, r.lease = l ∧ r.group = g ∧ r.mseq = mdMseq pk ∧ (mdOff pk, pk) ∈ r.arrived)))) ∧
  (∀ (s : State), LinksIdle s = true → stopping s = false → s.eng.startFail = false →
     (∀ (p : Fin 16) (pk : Packet) (w : McWait), pk.typ = 0x0E → badHeader pk = false → 1 < pk.ttl.toNat →
       s.mc.wait.find? (fun w => waitIs w (bits pk.src 9 0) pk.dest (mdMseq pk) (mdOff pk) &&
         w.waiting.any (fun q => q == p.val || branchPort s q == some p.val)) = some w → w.waiting = [p.val] →
       s.mc.wait = [w] → w.upPort ≠ 0 →
         ∃ v, exec (.mcAck p pk) s = .next v ∧ v.mc.wait = [] ∧ v.mem = s.mem ∧ v.cnt = s.cnt ∧
           (∀ q, branchPort s w.upPort = some q → addressed s = true →
             (getPort v q).txq = (getPort s q).txq ++ [mcAckFor w.pk]) ∧
           (branchPort s w.upPort = none → v.abut = s.abut)) ∧
     (∀ (g : BitVec 10) (p : Fin 16), meValid (mcEntry s g.toNat) = true → (mcEntry s g.toNat).getLsbD p.val = true →
       s.mc.wait.any (fun x => x.group == g.toNat && x.waiting.contains p.val &&
         decide (pruneBeats s g.toNat p.val ≤ x.beats)) = true →
           ∃ v, exec (.mcPrune g p) s = .next v ∧ (mcEntry v g.toNat).getLsbD p.val = false ∧
             16 * g.toNat + p.val ∈ v.mc.pruned ∧ v.mem = s.mem ∧ v.cnt = s.cnt) ∧
     (∀ (p : Fin 16) (pk : Packet) (l : Nat) (b : McBind), pk.typ = 0x0F → pk.aux.getLsbD 0 = false →
       isOwn s pk.dest = true → epOf pk.dest = 1 → badPacket pk = false → 1 < pk.ttl.toNat → addressed s = true →
       bindings s (bits (payloadWord pk 1) 15 0) = [(l, b)] →
         ∃ v, exec (.missed p pk) s = .next v ∧ v.mem = s.mem ∧ v.cnt = s.cnt ∧ ∃ r ∈ v.mc.recv, r.lease = l ∧
           r.group = bits (payloadWord pk 1) 15 0 ∧ r.mseq = mdMseq pk ∧ r.missed = true) ∧
     (∀ (l : Fin 16) (g : BitVec 10) (mseq off : Half) (r : McRecv) (a : Nat × Packet),
       s.mc.recv.find? (fun r => r.lease == l.val && r.group == g.toNat && r.mseq == mseq &&
         r.arrived.any (fun a => a.1 == off.toNat)) = some r → r.arrived.find? (fun a => a.1 == off.toNat) = some a →
       r.written.all (fun w => w.1 != a.1) = true → r.done = false → r.missed = false → recvOut s l.val = false →
       let got := sumL (r.written.map (·.2)) + (mdData a.2).length
       (got < r.total → ∃ v, exec (.mcDataWritten l g mseq off) s = .next v ∧ v.mem = s.mem ∧ v.cnt = s.cnt) ∧
       (∀ b c, r.total ≤ got → (bindings s g.toNat).find? (fun lb => lb.1 == l.val) = some (l.val, b) →
         hears s b.cnt.toNat = true → sigCnt (getCnt s b.cnt.toNat) 1 = some c →
           ∃ v, exec (.mcDataWritten l g mseq off) s = .next v ∧ v.mem = s.mem ∧ getCnt v b.cnt.toNat = c ∧
             ∀ n, n ≠ b.cnt.toNat → getCnt v n = getCnt s n)))

/-- R9, R452, R453: a write of a commit register requests a commit unless one waits, remembering its cycle, and clears the W1C
bits that it sets to 1, but for those that the hardware sets in the same cycle.
R380, R452, R453: an accepted edge that is not taken as a generated beat makes the pending commits of the lease table and
the memory map due that were requested in an earlier cycle.
R332, R352, R452, R461, R473: at its beat a pending commit takes the shadow set whole and counts it, or is refused whole:
the active set stays and REFUSED is set. Where tables lie with other endpoints it stays due until their READs are answered
(the model's choice, log entry 49). -/
def Obligations.Commits : Prop :=
  (∀ (s : State) (v : Word),
     (s.eng.scrubDone = true →
       exec (.leaseGeneration v) s = .next { s with lease := { s.lease with gen := commitWrite s.lease.gen s.now (w1c s .span leaseGenAt v) } } ∧
       exec (.mapGeneration v) s = .next { s with map := { s.map with gen := commitWrite s.map.gen s.now (w1c s .span mapGenAt v) } }) ∧
     (partWrites s .abut = true →
       exec (.routerGeneration v) s = .next { s with abut := { s.abut with gen := commitWrite s.abut.gen s.now (w1c s .abut routerGenAt v) } }) ∧
     ∀ (g : CommitReg) (now : Nat),
       let h := commitWrite g now v
       h.pending = (g.pending || v.getLsbD 16) ∧ h.refused = (g.refused && !v.getLsbD 17) ∧
         h.shadowLocked = (g.shadowLocked && !v.getLsbD 18) ∧ h.taken = g.taken ∧
         (v.getLsbD 16 = true → g.pending = false → h.due = false ∧ h.reqAt = now)) ∧
  (∀ (s : State), s.eng.fuseDone = true → glitch s = false → absorbed s = false →
     let after := fun (g : CommitReg) => { g with due := g.due || (g.pending && decide (g.reqAt < s.now)) }
     ∃ v, exec .beatEdge s = .next v ∧ v.lease.gen = after s.lease.gen ∧ v.map.gen = after s.map.gen ∧ v.mon.tripLocked = true) ∧
  (∀ (s : State),
     (s.lease.gen.due = true → tablesWait s = true → ∃ v, exec .leaseCommitTake s = .next v ∧ v.lease.gen = s.lease.gen ∧
       v.lease.active = s.lease.active ∧ v.lease.written = s.lease.written ∧ v.mem = s.mem ∧ v.cnt = s.cnt) ∧
     (s.lease.gen.due = true → tablesWait s = false →
       (lowestFail (commitFails s) = none → ∃ v, exec .leaseCommitTake s = .next v ∧ v.lease.written = 0 ∧
         v.lease.gen = commitTaken s.lease.gen ∧ v.mem = s.mem ∧ v.cnt = s.cnt ∧
         ∀ l w, l < 16 → w < 16 → leaseWord v l w =
           if s.lease.written.getLsbD l then Tab.get 0 s.lease.shadow (16 * l + w) else leaseWord s l w) ∧
       (∀ l o, lowestFail (commitFails s) = some (l, o) → ∃ v, exec .leaseCommitTake s = .next v ∧
         v.lease.active = s.lease.active ∧ v.lease.gen = commitRefused s.lease.gen ∧ v.lease.rt = s.lease.rt ∧
         v.mem = s.mem ∧ v.cnt = s.cnt)) ∧
     (s.map.gen.due = true → ∃ v, exec .memmapCommitTake s = .next v ∧ v.mem = s.mem ∧ v.cnt = s.cnt ∧ v.lease = s.lease ∧
       (if mapBad s.map.shadow then v.map = { s.map with gen := commitRefused s.map.gen }
         else v.map = { s.map with gen := commitTaken s.map.gen, active := s.map.shadow })) ∧
     (s.abut.gen.due = true → ∃ v, exec .routerCommitTake s = .next v ∧ v.mem = s.mem ∧ v.cnt = s.cnt ∧
       (if routerBad s.abut then v.abut = { s.abut with gen := commitRefused s.abut.gen }
         else v.abut.fabActive = s.abut.fabShadow ∧ v.abut.routeActive = s.abut.routeShadow ∧
           v.abut.mcActive = s.abut.mcShadow ∧ v.abut.gen = commitTaken s.abut.gen)))

/-- R12, R263, R353, R354, R366, R368, R381, R417: LOAD of an EMPTY position whose context area is not VALID starts its lease
fresh, RESIDENT inside its run window and PARKED outside; of a VALID area it takes up the tasks, the issue sequence, the
counters and the slots, which are SPILLED, and of one with a non-zero reserved field it is refused with a report; with
store pages still to be scrubbed it waits for them; on any other position, or from STOPPED on, LOAD is refused. -/
def Obligations.LeaseLoads : Prop :=
  ∀ (s : State) (l : Fin 16), s.eng.scrubDone = true →
    (leaseShut s = true ∨ lstate s l.val ≠ .empty ∨ (getCtl s l.val).busy = true →
      ∃ v, exec (.load l) s = .next v ∧ getCtl v l.val = { getCtl s l.val with refused := true } ∧ v.mem = s.mem ∧
        v.cnt = s.cnt ∧ v.lease.rt = s.lease.rt) ∧
    (leaseShut s = false → lstate s l.val = .empty → (getCtl s l.val).busy = false → windowsDirty s l.val = true →
      ∃ v, exec (.load l) s = .next v ∧ lstate v l.val = .loading ∧ (getCtl v l.val).busy = true ∧
        (getRt v l.val).scrubWait = true ∧ v.mem = s.mem ∧ v.cnt = s.cnt) ∧
    (∀ ts bs, leaseShut s = false → readTasks s (taskBase s l.val) (taskCount s l.val) (cntBase s l.val) (cntCount s l.val) = .ok ts →
      readBinds s (mcBindBase s l.val) (mcCount s l.val) (cntBase s l.val) (cntCount s l.val) = .ok bs →
      physTable s (ctxBase s l.val) 65536 ≠ none → windowsDirty s l.val = false →
      (∀ r ∈ loadRuns s l.val, farWaits s l.val r.1 r.2 = false) → StreamsIdle s = true → LinksIdle s = true →
      ∀ c s1, (c = .load l ∧ lstate s l.val = .empty ∧ (getCtl s l.val).busy = false ∧
            s1 = setCmd (setLState s l.val .loading true) l.val 1 ∨
          c = .loadAfterScrub l ∧ lstate s l.val = .loading ∧ (getRt s l.val).scrubWait = true ∧
            s1 = setRt s l.val { getRt s l.val with scrubWait := false }) →
      (areaValid s l.val = false → readsOut s l.val = false →
        ∃ v, exec c s = .next v ∧
          lstate v l.val = (if inWindow s l.val then .resident else .parked) ∧ (getCtl v l.val).busy = false ∧
          (getRt v l.val).tasks = ts ∧ (getRt v l.val).binds = bs ∧ (getRt v l.val).frames = [] ∧ v.mem = s.mem ∧
          (∀ n, getCnt v n = if cntBase s l.val ≤ n ∧ n < cntBase s l.val + cntCount s l.val then {} else getCnt s n)) ∧
      (areaValid s l.val = true → slotTaken s l.val = false → badRecord s l.val = none → brokenRecord s l.val = false →
        inWindow s l.val = false ∨ areaHeld s l.val = 0 → readsOut (loadTry s1 l.val) l.val = false →
        ∃ v, exec c s = .next v ∧
          lstate v l.val = (if inWindow s l.val then .resident else .parked) ∧ (getCtl v l.val).busy = false ∧
          (getRt v l.val).tasks = ts ∧ (getRt v l.val).binds = bs ∧ (getRt v l.val).seq = fld (areaWord s l.val 0x10 0) 0 32 ∧
          (inWindow s l.val = false → (getRt v l.val).frames.length = bits (areaWord s l.val 0 0) 15 8) ∧ v.mem = s.mem ∧
          (∀ k < cntCount s l.val,
            let w := areaWord s l.val (0x4500 + 32 * k)
            getCnt v (cntBase s l.val + k) = { p := w 0, c := w 1, cap := fld (w 2) 0 32, ovf := (w 2).getLsbD 33 }) ∧
          (∀ n, n < cntBase s l.val ∨ cntBase s l.val + cntCount s l.val ≤ n → getCnt v n = getCnt s n) ∧
          (∀ x < 32, if (areaHalf s l.val 0x18 0).getLsbD x
            then (getSlot v x).st = .spilled ∧ (getSlot v x).lease = l.val ∧ (getSlot v x).fr = 2 ^ bits (areaHalf s l.val 0x20 x) 24 23 ∧
              (getSlot v x).fc = 2 ^ bits (areaHalf s l.val 0x20 x) 22 21
            else getSlot v x = getSlot s x)) ∧
      (∀ a, areaValid s l.val = true → slotTaken s l.val = false → badRecord s l.val = some a →
        ∃ v, exec c s = .next v ∧ lstate v l.val = .empty ∧ (getCtl v l.val).refused = true ∧ (getCtl v l.val).busy = false ∧
          v.mem = s.mem ∧ v.cnt = s.cnt ∧
          (s.repQ.length < 16 → ∃ r, v.repQ = s.repQ ++ [r] ∧ r.cause = 0x03 ∧ r.lease = l.val ∧ r.detail0 = 1 ∧
            r.detail1 = BitVec.ofNat 64 a)))

/-- R173, R361 to R364: SUSPEND of a RESIDENT lease makes it BUSY and stops its streams; a run window's end, or an Express
pass that stands next, parks a lease; once the array is empty of it the save sequence ends RESIDENT.
R208, R362, R366, R381: a frame of the save buffer is written to its place in the context area; a PARKED lease whose turn
comes is RESIDENT again; RESUME brings a SUSPENDED lease back, RESIDENT or PARKED, whether or not a thread is FREE (the
model's reading, log entry 38). -/
def Obligations.LeaseStopsAndReturns : Prop :=
  (∀ (s : State) (l : Fin 16), leaseShut s = false → lstate s l.val = .resident →
     (s.eng.scrubDone = true → (getCtl s l.val).busy = false →
       ∃ v, exec (.suspend l) s = .next v ∧ lstate v l.val = .resident ∧ (getCtl v l.val).busy = true ∧
         (getRt v l.val).cmd = 2 ∧ v.mem = s.mem ∧ v.cnt = s.cnt ∧
         ∀ c, c < 32 → (ctxMask s l.val).getLsbD c = true → stIsRing (getStr s c) = true → (getStr s c).st ≠ .unarmed →
           (getStr v c).stopped = true) ∧
     ((List.range 16).all (fun k => !beingParked s k) = true → (getRt s l.val).cmd ≠ 2 →
       (inWindow s l.val = false → s.lease.gen.due = false →
         ∃ v, exec (.park l true) s = .next v ∧ (getCtl v l.val).parkWindow = true ∧ lstate v l.val = .resident ∧
           v.mem = s.mem ∧ v.cnt = s.cnt) ∧
       (passVictim s = some l.val →
         ∃ v, exec (.park l false) s = .next v ∧ (getCtl v l.val).parkExpress = true ∧ lstate v l.val = .resident ∧
           v.mem = s.mem ∧ v.cnt = s.cnt)) ∧
     (parking s l.val = true → arrayEmptyOf s l.val = true →
       ∃ v, exec (.saveSequence l) s = .next v ∧ v.cnt = s.cnt ∧
         lstate v l.val = (if (getRt s l.val).cmd = 2 then .suspended else .parked))) ∧
  (∀ (s : State) (l : Fin 16), leaseShut s = false →
     (∀ (c : Fin 4) (k : Nat) (f : Frame),
       (List.range 16).findSome? (fun l => ((getRt s l).frames.findIdx? (fun f =>
         decide (f.home.core = c) && !f.written && f.thr.loads.isEmpty)).map (fun k => (l, k))) = some (l.val, k) →
       (getRt s l.val).frames[k]? = some f →
         ∃ v, exec (.saveBufferWrite c) s = .next v ∧ v.cnt = s.cnt ∧
           v.mem = putBytes s.mem (addrBytes (frameAddr s l.val f.pos) (wordBytes (frameWords f.thr f.home)))) ∧
     (lstate s l.val = .parked → inWindow s l.val = true → s.lease.gen.due = false → (leaseClass s l.val = 0 ∨ expressHolds s = false) →
       allThreads.any (freeThread s) = true →
         ∃ v, exec (.parkRestore l) s = .next v ∧ lstate v l.val = .resident ∧ (getCtl v l.val).parkWindow = false ∧
           (getCtl v l.val).parkExpress = false) ∧
     (lstate s l.val = .suspended → (getCtl s l.val).busy = false → s.eng.scrubDone = true →
       ∃ v, exec (.resume l) s = .next v ∧ (getCtl v l.val).busy = false ∧
         lstate v l.val = (if inWindow s l.val ∧ (leaseClass s l.val = 0 ∨ expressHolds s = false) then .resident
           else .parked)))

/-- R355: UNLOAD of a SUSPENDED lease makes it UNLOADING; once nothing of it runs and its slots hold no segment, its position
is EMPTY: no instruction of it, no armed stream context, no bound slot, and no entry of the caches, of the translations
and of the descriptors is left in the span (the model's reading, log entry 33).
R353, R377: RELEASE of a held position discards its instructions but chains in progress; with its threads gone and its
bursts landed its streams are unarmed, its slots FREE, and the entries of the caches, translations and descriptors gone,
and then its position is EMPTY (log entry 33). -/
def Obligations.LeaseEnds : Prop :=
  (∀ (s : State) (l : Fin 16), leaseShut s = false →
     (s.eng.scrubDone = true → lstate s l.val = .suspended → (getCtl s l.val).busy = false →
       ∃ v, exec (.unload l) s = .next v ∧ lstate v l.val = .unloading ∧ (getCtl v l.val).busy = true ∧ v.mem = s.mem ∧
         v.cnt = s.cnt) ∧
     (unloadReady s l.val = true →
       (List.range 32).all (fun x => decide ((getSlot s x).lease ≠ l.val) || (getSlot s x).segs.isEmpty) = true →
         ∃ v, exec (.unloadProceed l) s = .next v ∧ lstate v l.val = .empty ∧ (getCtl v l.val).busy = false ∧
           v.instrs.all (fun i => decide (i.lease ≠ l.val)) = true ∧ v.cnt = s.cnt ∧
           (∀ c, c < 32 → (ctxMask s l.val).getLsbD c = true → getStr v c = {}) ∧
           (∀ x, x < 32 → (getSlot v x).lease = l.val → (getSlot v x).st = .free) ∧ v.xlate.all (fun e => e.lease != l.val) = true ∧
           v.dcache.all (fun e => e.lease != l.val) = true ∧
           ∀ k < 4, (getCore v k).icache.all (fun e => e.lease != l.val) = true ∧ (getCore v k).itlb.all (fun e => e.lease != l.val) = true ∧
             (getCore v k).dtlb.all (fun e => e.lease != l.val) = true)) ∧
  (∀ (s : State) (l : Fin 16),
     (s.eng.scrubDone = true → leaseShut s = false → lstate s l.val ≠ .empty → lstate s l.val ≠ .releasing →
       ∃ v, exec (.release l) s = .next v ∧ lstate v l.val = .releasing ∧ (getCtl v l.val).busy = true ∧
         (getRt v l.val).frames = [] ∧ (getRt v l.val).held = none ∧
         v.instrs.all (fun i => decide (i.lease ≠ l.val) || (isChain i.op && decide (i.stage = .running))) = true ∧
         v.cnt = s.cnt) ∧
     (lstate s l.val = .releasing → (getRt s l.val).torn = false → threadsHeld s l.val = 0 → burstsOut s l.val = false →
       ∃ v, exec (.releaseTeardown l) s = .next v ∧ lstate v l.val = .releasing ∧ (getRt v l.val).torn = true ∧
         v.instrs.all (fun i => decide (i.lease ≠ l.val)) = true ∧ v.chn.all (fun r => decide (r.lease ≠ l.val)) = true ∧
         (∀ c, c < 32 → (ctxMask s l.val).getLsbD c = true → getStr v c = {}) ∧
         (∀ x, x < 32 → (getSlot s x).lease = l.val → (getSlot v x).st = .free) ∧ v.xlate.all (fun e => e.lease != l.val) = true ∧
         v.dcache.all (fun e => e.lease != l.val) = true ∧
         (∀ k < 4, (getCore v k).icache.all (fun e => e.lease != l.val) = true ∧ (getCore v k).itlb.all (fun e => e.lease != l.val) = true ∧
           (getCore v k).dtlb.all (fun e => e.lease != l.val) = true) ∧ v.mem = s.mem ∧ v.cnt = s.cnt) ∧
     (lstate s l.val = .releasing → (getRt s l.val).torn = true →
       ∃ v, exec (.releaseComplete l) s = .next v ∧ lstate v l.val = .empty ∧ (getCtl v l.val).busy = false ∧
         (getRt v l.val).tasks = [] ∧ (getRt v l.val).frames = [] ∧ v.mem = s.mem ∧ v.cnt = s.cnt))

/-- R378, R379, R427, R428, R459: an accepted edge advances BEAT_COUNT by one, or takes a BEAT_LOAD that was written in an
earlier cycle, and ends free running; one too soon is counted only; with no edge for four periods the span runs free and
generates beats; a Pier's or Abutment's copy follows the beat message, which carries the whole count over an UP module
(the model's reading, log entry 87).
R383, R395, R459: BEAT_LOAD waits for the next edge; BEAT_NOMINAL keeps to 262 to 4,200; METER_PERIOD and PERF_DUMP_PERIOD
keep to at least 1, a written 0 being taken as 1 (the model's reading, log entry 34), and each clears its count of lost
records. -/
def Obligations.Beat : Prop :=
  (∀ (s : State),
     (s.eng.fuseDone = true →
       (glitch s = true → ∃ v, exec .beatEdge s = .next v ∧ ReportsOnly s v) ∧
       (glitch s = false → ∃ v, exec .beatEdge s = .next v ∧ v.beat.freeRun = false ∧ v.beat.lastEdge = some s.now ∧
         let due := s.beat.loadPending && decide (s.beat.loadAt < s.now)
         v.beat.loadPending = (s.beat.loadPending && !due) ∧
         v.beat.count = (if due then s.beat.load else if absorbed s then s.beat.count else s.beat.count + 1) ∧
         (absorbed s = false →
           ((getPort s 17).mods.any (fun m => (getMod s .span m).up) = true → (Part.pier, v.beat.count) ∈ v.beat.sent) ∧
           ((getPort s 16).mods.any (fun m => (getMod s .span m).up) = true → (Part.abut, v.beat.count) ∈ v.beat.sent))) ∧
       (s.beat.freeRun = false → s.beat.lastBeat + 4 * s.beat.nominal.toNat ≤ s.now →
         ∃ v, exec .beatLost s = .next v ∧ v.beat.freeRun = true ∧ v.beat.generated = 0 ∧ v.beat.count = s.beat.count ∧
           v.mem = s.mem ∧ v.cnt = s.cnt)) ∧
     (genDue s = true → ∃ v, exec .beatGenerated s = .next v ∧ v.beat.count = s.beat.count + 1 ∧
       v.beat.generated = s.beat.generated + 1 ∧ v.beat.freeRun = true) ∧
     (∀ part low, beatMessage s part low = none → exec (.beatSideband part low) s = .next s) ∧
     (∀ part low m, beatMessage s part low = some m →
       let taken := { s.beat with sent := s.beat.sent.erase m }
       m.2.setWidth 16 = low ∧
         (partRuns s part = false → exec (.beatSideband part low) s = .next { s with beat := taken }) ∧
         (partRuns s part = true →
           (part = .pier → exec (.beatSideband part low) s =
             .next { s with beat := taken, pier := { s.pier with beatCount := m.2 } }) ∧
           (part = .abut → ∃ v, exec (.beatSideband part low) s = .next v ∧ v.beat = taken ∧ v.abut.beatCount = m.2 ∧
             v.abut.gen = { s.abut.gen with due := s.abut.gen.due || (s.abut.gen.pending && decide (s.abut.gen.reqAt < s.now)) } ∧ v.mem = s.mem ∧ v.cnt = s.cnt)))) ∧
  (∀ (s : State) (v : Word), s.eng.scrubDone = true →
     (∃ w, exec (.beatLoad v) s = .next w ∧ w = { s with beat := { s.beat with load := v, loadPending := true, loadAt := s.now } }) ∧
     (∃ w, exec (.beatNominal v) s = .next w ∧ w = { s with beat := { s.beat with nominal := w.beat.nominal } } ∧
       w.beat.nominal.toNat = max 262 (min 4200 (bits v 12 0))) ∧
     (∃ w, exec (.meterPeriod v) s = .next w ∧ w.beat.meterPeriod.toNat = max 1 (bits v 15 0) ∧ w.beat.meterLost = 0 ∧
       w.beat.count = s.beat.count ∧ w.lease = s.lease ∧ w.mem = s.mem) ∧
     (∃ w, exec (.perfDumpPeriod v) s = .next w ∧ w.perf.dumpPeriod.toNat = max 1 (bits v 15 0) ∧
       bits w.perf.dumpCfg 7 0 = 0 ∧ bits w.perf.dumpCfg 63 8 = bits s.perf.dumpCfg 63 8 ∧ w.perf.val = s.perf.val ∧
       w.mem = s.mem))

/-- R387: a performance counter that passes 2^64 − 1 takes PERF_RELOAD plus the excess and sets OVF; no other counter changes.
R396, R397, R398: a reading is held with its validity; a second one at or above TEMP_TRIP drives THERMTRIP_N low and stops
the engine set with reason 6; a droop trip raises DROOP_LEVEL to DROOP_STEP and is counted, and each beat after the hold
lowers it by one. -/
def Obligations.CountersAndMonitors : Prop :=
  (∀ (s : State) (n : Fin 16) (inc : Nat) (src : SampleSrc),
     let old := Tab.get 0 s.perf.val n.val
     let ctl := Tab.get 0 s.perf.ctl n.val
     perfMatches ctl (bits ctl 11 0) src = true → inc ≤ 2 ^ 25 → 2 ^ 64 ≤ old.toNat + inc →
       ∃ v, exec (.perfWrap n inc src) s = .next v ∧
         Tab.get 0 v.perf.val n.val = BitVec.ofNat 64 ((Tab.get 0 s.perf.reload n.val).toNat + (old.toNat + inc - 2 ^ 64)) ∧
         (Tab.get 0 v.perf.ctl n.val).getLsbD 26 = true ∧
         (∀ k, k ≠ n.val → Tab.get 0 v.perf.val k = Tab.get 0 s.perf.val k ∧ Tab.get 0 v.perf.ctl k = Tab.get 0 s.perf.ctl k) ∧
         ReportsOnly s v) ∧
  (∀ (s : State),
     (s.eng.fuseDone = true → ∀ k c ok, k < 32 →
       let x := Tab.get {} s.mon.temp k
       let valid := ok && c != 0 && c != 1023
       (s.mon.tripPend.getLsbD k = false → ∃ v, exec (.tempReading [(k, c, ok)]) s = .next v ∧
         Tab.get {} v.mon.temp k = ⟨valid, x.hotSeen || (valid && decide (s.mon.tempHot.toNat ≤ c.toNat)), c⟩ ∧
         v.mon.tripPend.getLsbD k = (valid && decide (s.mon.tempTrip.toNat ≤ c.toNat)) ∧ v.eng.mode = s.eng.mode ∧
         v.mem = s.mem ∧ v.cnt = s.cnt) ∧
       (s.mon.tripPend.getLsbD k = true → valid = true → s.mon.tempTrip.toNat ≤ c.toNat → stopping s = false →
         ∃ v, exec (.tempReading [(k, c, ok)]) s = .next v ∧ v.pins.thermtripN = false ∧ v.eng.mode = 2 ∧
           v.eng.stopReason = 6 ∧ v.mon.tripPend.getLsbD k = false ∧ v.mem = s.mem ∧ v.cnt = s.cnt)) ∧
     (s.eng.fuseDone = true → ∀ m : Fin 16, ∃ v, exec (.droopTrip m) s = .next v ∧
       v.mon.droopLvl.toNat = max s.mon.droopLvl.toNat s.mon.droopStep.toNat ∧
       v.mon.holdBeats = max 1 s.mon.droopHold.toNat ∧
       (Tab.get {} v.mon.droop m.val).trips.toNat = min 0xFFFF ((Tab.get {} s.mon.droop m.val).trips.toNat + 1) ∧
       v.mem = s.mem ∧ v.cnt = s.cnt) ∧
     (s.mon.droopDue = true → s.mon.droopLvl ≠ 0 → ∃ v, exec .droopHoldExpire s = .next v ∧
       v.mon.droopLvl = s.mon.droopLvl - 1 ∧ v.mon.droopDue = false ∧ v.mon.thermal = s.mon.thermal ∧ v.mem = s.mem ∧
       v.cnt = s.cnt))

/-- R401 to R403, R424 to R426, R430, R436, R438, R442, R457: RST_N low, or a supply out of tolerance, resets its part, and
every byte that no unacknowledged write covers stays, and the span's low RST_N releases THERMTRIP_N; a rise samples the
span's straps and starts phase CLOCK; ENGINE_RESET takes its key only; and start-up goes phase by phase, or holds its
phase where it has failed; a Pier that never became ready fails start-up, and after READY only sets its bit. -/
def Obligations.ResetAndPhases : Prop :=
  ∀ (s : State),
    (s.pins.rstSpan = true → ∀ c : Bool,
      ∃ v, exec (if c then .rstNFall .span else .railOutOfTolerance .span) s = .next v ∧ v.eng.phase = 0 ∧
        v.eng.scrubDone = false ∧ v.eng.fuseDone = false ∧ v.cnt = [] ∧ v.thr = [] ∧ v.lease = {} ∧ v.gir = {} ∧
        v.fuse.words = s.fuse.words ∧ v.pending = s.pending ∧ v.pins.rstSpan = !c ∧
        v.pins.thermtripN = (c || s.pins.thermtripN) ∧
        v.pins.railsSpan = (c && s.pins.railsSpan) ∧ ∀ a, (unackedOld s ++ streamNew s).all (fun b => b.1 != a) = true → memByte v a = memByte s a) ∧
    (s.pins.rstPier = true → ∃ v, exec (.rstNFall .pier) s = .next v ∧ v.pier = {} ∧ v.cnt = s.cnt ∧
      v.pins.rstPier = false ∧ ∀ a, (unackedOld s ++ streamNew s).all (fun b => b.1 != a) = true → memByte v a = memByte s a) ∧
    (s.pins.rstAbut = true → ∃ v, exec (.rstNFall .abut) s = .next v ∧ v.abut.fabActive = 0 ∧ v.abut.routeActive = [] ∧
      v.cnt = s.cnt ∧ v.pins.rstAbut = false ∧ ∀ a, (unackedOld s ++ streamNew s).all (fun b => b.1 != a) = true → memByte v a = memByte s a) ∧
    (∀ straps, s.pins.rstSpan = false → ∃ v, exec (.rstNRise .span straps) s = .next v ∧ v.pins.rstSpan = true ∧
      v.eng.straps = straps ∧ v.eng.phase = 1 ∧ v.mem = s.mem) ∧
    (∀ v, s.eng.fuseDone = true →
      (bits v 15 0 ≠ 0xF1A0 → exec (.engineReset v) s = .next s) ∧
      (bits v 15 0 = 0xF1A0 → ∃ w, exec (.engineReset v) s = .next w ∧ w.eng.phase = 0 ∧ w.cnt = [] ∧ w.lease = {} ∧
        w.pier = {} ∧ w.abut.fabActive = 0 ∧ w.fuse.words = s.fuse.words ∧ w.pins.rstSpan = s.pins.rstSpan)) ∧
    (s.eng.phase = 0 → s.pins.rstSpan = true → s.pins.railsSpan = true →
      exec .resetPhaseEnd s = .next { s with eng := { s.eng with phase := 1 } }) ∧
    (s.eng.startFail = true → exec .clockPhaseEnd s = .next s ∧ exec .fuseLoadDone s = .next s ∧ exec .scrubDone s = .next s) ∧
    (s.eng.phase = 1 → s.eng.startFail = false → exec .clockPhaseEnd s = .next { s with eng := { s.eng with phase := 2 } }) ∧
    (s.eng.phase = 2 → s.eng.startFail = false → s.eng.held = [] → ∃ v, exec .fuseLoadDone s = .next v ∧ v.eng.phase = 3 ∧ v.eng.fuseDone = true ∧
      v.fuse.serialSpan = fuseSerial s .span ∧
      v.fuse.activeGroups = ((List.range 64).filter (fun g => !(fuseWord s .span (0x10 + g)).getLsbD 15)).length ∧
      v.mem = s.mem) ∧
    (∀ fd, s.eng.phase = 3 → ∃ v, exec (.bistDone fd) s = .next v ∧ v.mem = s.mem ∧
      (if startupBad (fd.foldl applyFinding s) then v.eng.phase = 3 ∧ v.eng.startFail = true else v.eng.phase = 4)) ∧
    (s.eng.phase = 4 → s.eng.startFail = false → ∃ v, exec .scrubDone s = .next v ∧ v.eng.scrubDone = true ∧ v.cnt = [] ∧
      v.lease.active = [] ∧ v.lease.shadow = [] ∧ v.gir.ent = [] ∧ v.gir.segFree = 0xFFFFFFFFFFFFFFFF ∧ v.store = {} ∧
      v.xlate = [] ∧ (s.eng.linksDone = false → v.eng.phase = 5) ∧ v.mem = s.mem) ∧
    (s.eng.phase ≠ 0 → s.pier.readySeen = false → exec .pierFail s =
      .next { s with eng := { s.eng with pierFail := true, startFail := s.eng.startFail || decide (s.eng.phase ≠ 7) } }) ∧
    (s.eng.phase = 0 ∨ s.pier.readySeen = true → exec .pierFail s = .next s)

/-- R408, R409, R411, R416, R417: a failed Girder bank takes a spare and poisons its row of every slot that holds segments; a
failed store bank takes a spare, counts as unsignalled again the transfers of the ring slots it touched, and suspends the
lease that owns a region page in it, which STORE_LOST tells; where no spare is left the engine set stops with its reason;
a mismatched core leaves service, and the last one stops the engine set; the deadline of a stop ends in STOPPED, with the
writes that it gives up counted in ABANDONED and each of their 64-byte units at its old or its new value. What counts as
one write, and that the command names the units that keep their old value, is the model's reading (log entry 28). -/
def Obligations.StorageFaults : Prop :=
  ∀ (s : State),
    (inService s = true →
      (∀ b : Fin 256, takeSpare s 0 b.val ≠ none → ∃ v, exec (.girderBankFail b) s = .next v ∧
        v.gir.bankBusy = s.gir.bankBusy ++ [b.val] ∧ v.eng.mode = s.eng.mode ∧ v.mem = s.mem ∧ v.cnt = s.cnt ∧
        ∀ x, x < 32 → (getSlot s x).segs ≠ [] → (getSlot v x).poison = true ∧
          (getSlot v x).poisonRows.getLsbD b.val = true) ∧
      (∀ b : Fin 256, takeSpare s 0 b.val = none → ∃ v, exec (.girderBankFail b) s = .next v ∧ v.eng.mode = 2 ∧
        v.eng.stopReason = 1 ∧ v.mem = s.mem ∧ v.cnt = s.cnt) ∧
      (∀ north b pages, b < (if north then 64 else 256) →
        (takeSpare s (if north then 4 else 2) b = none → ∃ v, exec (.storeBankFail north b pages) s = .next v ∧
          v.eng.mode = 2 ∧ v.eng.stopReason = 8 ∧ v.mem = s.mem ∧ v.cnt = s.cnt) ∧
        (takeSpare s (if north then 4 else 2) b ≠ none → StreamsIdle s = true →
          ∃ v, exec (.storeBankFail north b pages) s = .next v ∧
            (if north then v.store.badNorth else v.store.badWest) = (if north then s.store.badNorth else s.store.badWest) ++ [b] ∧
            (∀ r, v.arr.run = some r → r.stop ≠ none) ∧ v.cnt = s.cnt) ∧
        (∀ page l, takeSpare s (if north then 4 else 2) b ≠ none → StreamsIdle s = true →
          (List.range 16).find? (fun k => lstate s k ≠ .empty && (windowsOf s k).any (fun w =>
            w.1 == north && decide (w.2.1 ≤ page ∧ page < w.2.1 + w.2.2))) = some l →
          ((∀ c, c < 32 → (ctxMask s l).getLsbD c = true → ringSlotOf s l c north page = none) →
            (getTag s north page).valid = true → lstate s l = .resident → (getCtl s l).busy = false →
            ∃ v, exec (.storeBankFail north b [page]) s = .next v ∧ (getCtl v l).busy = true ∧ (getRt v l).cmd = 2 ∧
              v.cnt = s.cnt ∧ (∀ x, getSlot v x = getSlot s x) ∧
              (s.repQ.length < 15 → s.perf.ctl = [] → ∃ r ∈ v.repQ, r.cause = 0x62 ∧ r.lease = l ∧
                r.detail0 = BitVec.ofNat 64 page ∧ r.detail1 = (if north then 1 else 0))) ∧
          (∀ c n m, c < 32 → (ctxMask s l).getLsbD c = true → ringSlotOf s l c north page = some n →
            let x := getStr s c
            m % max 1 (stRing x) = n → firstHeld x ≤ m → (getCnt s (stData x)).c.toNat ≤ m → freshNext x - stRing x ≤ m →
            m < freshNext x → x.xfers.any (fun t => t.n == m) = false →
            ∃ v, exec (.storeBankFail north b [page]) s = .next v ∧ v.cnt = s.cnt ∧
              ∃ t ∈ (getStr v c).xfers, t.n = m ∧ t.again = true))) ∧
      (∀ north page, page < storePages north → StreamsIdle s = true →
        ∃ v, exec (.storeWordUe north page) s = .next v ∧ (∀ r, v.arr.run = some r → r.stop ≠ none) ∧ v.cnt = s.cnt) ∧
      (∀ c : Fin 4, s.eng.coresOk.getLsbD c.val = true → ∃ v, exec (.coreMismatch c) s = .next v ∧ v.cnt = s.cnt ∧
        v.eng.coresOk = s.eng.coresOk &&& ~~~((1 : BitVec 4) <<< c.val) ∧
        (v.eng.coresOk = 0 → v.eng.mode = 2 ∧ v.eng.stopReason = 7))) ∧
    (∀ b rest, s.gir.bankBusy = b :: rest → ∃ v, exec .girderSpareReady s = .next v ∧ v.gir.bankBusy = rest ∧
      (∀ r w, w < 32768 → getEnt v r w = if r = b then {} else getEnt s r w) ∧ v.gir.slots = s.gir.slots ∧ v.mem = s.mem ∧
      v.cnt = s.cnt) ∧
    (s.eng.phase ≠ 0 → stopping s = false → ∃ v, exec .girderLost s = .next v ∧ v.eng.mode = 2 ∧ v.eng.stopReason = 1 ∧
      v.mem = s.mem ∧ v.cnt = s.cnt) ∧
    (∀ north, StreamsIdle s = true → ∃ v, exec (.storeSpareReady north) s = .next v ∧
      (if north then v.store.badNorth else v.store.badWest) = (if north then s.store.badNorth else s.store.badWest).drop 1 ∧ v.store.west = s.store.west ∧
      v.store.north = s.store.north ∧ v.mem = s.mem ∧ v.cnt = s.cnt) ∧
    (∀ kept, s.eng.mode = 2 → ∃ v, exec (.stopDeadline kept) s = .next v ∧ v.eng.mode = 3 ∧
      v.eng.abandoned.toNat = min 0xFFFF (unackedWrites s) ∧
      v.mem = (settleWrites s (fun a => !kept.contains (a / 64))).mem ∧ v.pier.port = [] ∧ v.pier.cmds = [] ∧ v.cnt = s.cnt ∧
      ∀ t, (getThr v t).stores = [])

/-- R420, R421, R437, with the model's reading of log entry 27 that the private instructions enter TEST from every other mode
and that the lock is the fuse words': each TAP instruction is selected, IDCODE with the part's code; a private one selects
bypass with TEST_LOCK blown and else puts the engine set in TEST without a report but samples, whose paths open only after
the zero-fill; Test-Logic-Reset selects IDCODE; the fuse shadow is written in TEST only, by the network that IJTAG
selects.
R419, R468: a write of RUN = 1 starts a loop-back whose path is free and that no other slot runs, and clears its status;
any other start is refused; a write of RUN = 0 ends it. -/
def Obligations.TestAndLoopBacks : Prop :=
  (∀ (s : State) (part : Part),
     exec (.extest part) s = .next (setIr s part 0x00) ∧
     exec (.idcode .span) s = .next { s with tap := { s.tap with irSpan := 0x01, drSpan := idcode s .span } } ∧
     exec (.idcode .pier) s = .next { s with tap := { s.tap with irPier := 0x01, drPier := idcode s .pier } } ∧
     exec (.idcode .abut) s = .next { s with tap := { s.tap with irAbut := 0x01, drAbut := idcode s .abut } } ∧
     exec (.samplePreload part) s = .next (setIr s part 0x02) ∧ exec (.bypass part) s = .next (setIr s part 0xFF) ∧
     exec (.trstN part) s = .next (setIr s part 0x01) ∧
     (∀ c : Bool,
       let i : Instr := if c then .wrapper part else .ijtag part
       (testLock s part = true → exec i s = .next (setIr s part 0xFF)) ∧
       (testLock s part = false → s.eng.mode ≠ 4 → ∃ v, exec i s = .next v ∧ v.eng.mode = 4 ∧ v.eng.testFill = true ∧
         v.tap = (setIr s part (if c then 0x10 else 0x11)).tap ∧ v.tap.opened = s.tap.opened ∧
         v.repQ.take s.repQ.length = s.repQ ∧ (v.repQ.drop s.repQ.length).all (fun r => r.cause == 0x50) = true ∧
         v.mem = s.mem ∧ v.cnt = s.cnt ∧ ∀ r, v.arr.run = some r → r.stop ≠ none)) ∧
     (s.eng.mode = 4 → s.eng.testFill = true → ∃ v, exec .testZeroFillDone s = .next v ∧ v.tap.opened = true ∧
       v.eng.testFill = false ∧ v.gir.ent = [] ∧ v.store = {} ∧ v.cnt = [] ∧ v.thr = [] ∧
       ∀ a, (unackedOld s ++ streamNew s).all (fun b => b.1 != a) = true → memByte v a = memByte s a) ∧
     (∀ (a : BitVec 32) (w : Word), s.eng.mode ≠ 4 ∨ s.tap.opened = false ∨ s.tap.irSpan ≠ 0x11 ∨ testLock s .span = true → exec (.fuseShadowWrite a w) s = .next s) ∧
     (∀ (g : Fin 64) (w : Word), s.eng.mode = 4 → s.tap.opened = true → s.tap.irSpan = 0x11 → testLock s .span = false →
       ∃ v, exec (.fuseShadowWrite (BitVec.ofNat 32 (0x28000 + 8 * g.val)) w) s = .next v ∧
         Tab.get 0 v.fuse.colRepair g.val = (w.setWidth 16 &&& 0xF03F) ∧
         (∀ k, k ≠ g.val → Tab.get 0 v.fuse.colRepair k = Tab.get 0 s.fuse.colRepair k) ∧ v.fuse.words = s.fuse.words)) ∧
  (∀ (s : State) (part : Part) (n : Fin 16) (v : Word), partWrites s part = true →
     let path := bits v 11 8
     let index := bits v 23 16
     (v.getLsbD 0 = true → loopFree s part path index = true → loopTwice s part n.val path index = false →
       ∃ w, exec (.loopbackStart part n v) s = .next w ∧ (getLoop w part n.val).run = true ∧
         (getLoop w part n.val).path.toNat = path ∧ (getLoop w part n.val).index.toNat = index ∧
         (getLoop w part n.val).errors = 0 ∧ (getLoop w part n.val).units = 0 ∧ w.mem = s.mem ∧ w.cnt = s.cnt) ∧
     (v.getLsbD 0 = true → loopFree s part path index = false ∨ loopTwice s part n.val path index = true →
       ∃ w, exec (.loopbackStart part n v) s = .next w ∧ (getLoop w part n.val).run = false ∧
         (getLoop w part n.val).refused = true ∧ w.mem = s.mem ∧ w.cnt = s.cnt) ∧
     exec (.loopbackEnd part n v) s = exec (.loopbackStart part n v) s ∧
     (v.getLsbD 0 = false → ∃ w, exec (.loopbackEnd part n v) s = .next w ∧ (getLoop w part n.val).run = false ∧
       (StreamsIdle s = true → LinksIdle s = true → s.pier.jobs = [] → s.pier.cmds = [] → w.mem = s.mem ∧ w.cnt = s.cnt)))

/-- R189, R374, R458: a write of KS_ICACHE_INV or XLATE_INV sets BUSY with its lease and is ignored while BUSY is 1; at the
end no line, or no translation, of the lease is held, and BUSY is 0; neither register touches the other. -/
def Obligations.Invalidations : Prop :=
  ∀ (s : State) (v : Word),
    (s.eng.scrubDone = true →
      (s.eng.icInvBusy = true → exec (.ksIcacheInv v) s = .next s) ∧
      (s.eng.icInvBusy = false → exec (.ksIcacheInv v) s =
        .next { s with eng := { s.eng with icInvBusy := true, icInvLease := fld v 0 4 } }) ∧
      (s.eng.xlInvBusy = true → exec (.xlateInv v) s = .next s) ∧
      (s.eng.xlInvBusy = false → exec (.xlateInv v) s =
        .next { s with eng := { s.eng with xlInvBusy := true, xlInvLease := fld v 0 4 } })) ∧
    (let k := readReg s .span 0x48
     let x := readReg s .span 0x50
     k.getLsbD 31 = s.eng.icInvBusy ∧ fld k 0 4 = s.eng.icInvLease ∧ x.getLsbD 31 = s.eng.xlInvBusy ∧
       fld x 0 4 = s.eng.xlInvLease) ∧
    (s.eng.icInvBusy = true → ∃ w, exec .icacheInvDone s = .next w ∧
      w.eng = { s.eng with icInvBusy := false } ∧
      (∀ c, c < 4 → (getCore w c).icache.all (fun ln => ln.lease != s.eng.icInvLease.toNat) = true) ∧ w.mem = s.mem ∧
      w.cnt = s.cnt) ∧
    (s.eng.xlInvBusy = true → accessesOut s s.eng.xlInvLease.toNat = false → ∃ w, exec .xlateInvDone s = .next w ∧
      w.eng = { s.eng with xlInvBusy := false } ∧
      (∀ c, c < 4 → (getCore w c).itlb.all (fun e => e.lease != s.eng.xlInvLease.toNat) = true ∧
        (getCore w c).dtlb.all (fun e => e.lease != s.eng.xlInvLease.toNat) = true) ∧
      w.xlate.all (fun e => e.lease != s.eng.xlInvLease.toNat) = true ∧ w.mem = s.mem ∧ w.cnt = s.cnt)

/-- R9, R351, R448, R451 to R454, R457: a host write of a lease entry changes its shadow, but LEGACY and the counters of a
position that is not EMPTY, and marks its position while no commit waits, and sets SHADOW_LOCKED while one does;
ENGINE_EVENT_DEST reaches all three parts, in the model with the write itself (log entry 64); until SCRUB ends the span
takes no other write but ENGINE_RESET's; an address that no map lists reads 0 and ignores writes.
R335, R449 to R451: a request that a host sends makes its accesses in ascending order, one a cycle, the first at once
where none is before it (the model's pace, log entry 103), and is answered after the last: a read with the registers it
names, changing none; a write with that register write's effect. A request from an endpoint that is no host's is denied, a
malformed one refused, with zeros for a read, and so is a write before SCRUB ends that covers another register than the
two of R451; the statuses' order is the model's (log entry 37). A failed engine set answers reads of its own host alone. A
DIRECTED packet goes on by its next hop, or waits for the fuse load. -/
def Obligations.HostAccess : Prop :=
  (∀ (s : State) (v : Word),
     (s.eng.fuseDone = true → s.eng.scrubDone = true → ∀ k : Fin 256,
       let a := BitVec.ofNat 32 (0x2000 + 8 * k.val)
       (s.lease.gen.pending = false → ∃ w, exec (.registerWrite .span a v) s = .next w ∧
         Tab.get 0 w.lease.shadow k.val = (if k.val % 16 = 1 ∧ lstate s (k.val / 16) ≠ .empty then
           (v &&& ~~~0x04FFFF0000000000) ||| (Tab.get 0 s.lease.shadow k.val &&& 0x04FFFF0000000000) else v) &&&
           leaseMask (k.val % 16) ∧
         (∀ j, j ≠ k.val → Tab.get 0 w.lease.shadow j = Tab.get 0 s.lease.shadow j) ∧
         w.lease.written = s.lease.written ||| ((1 : BitVec 16) <<< (k.val / 16)) ∧ w.lease.active = s.lease.active ∧
         w.mem = s.mem ∧ w.cnt = s.cnt) ∧
       (s.lease.gen.pending = true → exec (.registerWrite .span a v) s =
         .next { s with lease := { s.lease with gen := { s.lease.gen with shadowLocked := true } } })) ∧
     (s.eng.fuseDone = true → ∃ w, exec (.engineEventDest v) s = .next w ∧ w.eng.eventDest = fld v 0 24 ∧
       w.pier.eventDest = fld v 0 24 ∧ w.abut.eventDest = fld v 0 24 ∧ w.mem = s.mem ∧ w.cnt = s.cnt) ∧
     (∀ a : BitVec 32, s.eng.scrubDone = false → a.toNat ≠ 0x20 → a.toNat ≠ 0x38 →
       exec (.registerWrite .span a v) s = .next s) ∧
     (∀ part (a : BitVec 32), unlisted part a.toNat = true →
       exec (.registerWrite part a v) s = .next s ∧ readReg s part a.toNat = 0)) ∧
  (∀ (s : State) (part : Part) (pk : Packet),
     (partRuns s part = true → addressed s = true → isOwn s pk.dest = true → epOf pk.dest = partEp part → dedupHit s pk = none →
       s.eng.fuseDone = true →
       (s.eng.startFail = true → isOwn s pk.src = false ∨ pk.typ = 0x12 →
         (pk.typ = 0x11 → exec (.mgmtRead part pk) s = .next (takeRx s pk)) ∧
         (pk.typ = 0x12 → exec (.mgmtWrite part pk) s = .next (takeRx s pk))) ∧
       (s.eng.startFail = false ∨ (isOwn s pk.src = true ∧ pk.typ = 0x11) →
         s.eng.mgmt.any (fun j => j.part == part) = true → pk.typ = 0x11 →
         ∃ v, exec (.mgmtRead part pk) s = .next v ∧ v.eng.mgmt = s.eng.mgmt ++ [mgJob (takeRx s pk) part pk false] ∧
           v.abut.dedup = s.abut.dedup ∧ v.mem = s.mem ∧ v.cnt = s.cnt)) ∧
     (partRuns s part = true → addressed s = true → isOwn s pk.dest = true → epOf pk.dest = partEp part → dedupHit s pk = none →
       s.eng.fuseDone = true → s.eng.startFail = false → s.eng.mgmt.any (fun j => j.part == part) = false →
       (8 ≤ epOf pk.src → mgBad pk = false → pk.typ = 0x11 → ∃ v, exec (.mgmtRead part pk) s = .next v ∧ v.mem = s.mem ∧
         v.cnt = s.cnt ∧
         (mgCount pk = 1 → Answered s v pk (ownAddr s (partEp part)) 0x13 0 (wordBytes [readReg s part (mgAddr pk)])) ∧
         (1 < mgCount pk → v.abut.dedup = s.abut.dedup ∧ ∃ j ∈ v.eng.mgmt, j.part = part ∧ j.pk = pk ∧ j.status = 0 ∧
           j.vals = [readReg s part (mgAddr pk)] ∧ j.todo.map (·.1) = (mgAddrs pk).drop 1)) ∧
       (8 ≤ epOf pk.src → mgBad pk = true →
         (pk.typ = 0x11 → ∃ v, exec (.mgmtRead part pk) s = .next v ∧ v.mem = s.mem ∧ v.cnt = s.cnt ∧
           Answered s v pk (ownAddr s (partEp part)) 0x13 3 (wordBytes (List.replicate (mgCount pk) 0))) ∧
         (pk.typ = 0x12 → ∃ v, exec (.mgmtWrite part pk) s = .next v ∧ v.mem = s.mem ∧ v.cnt = s.cnt ∧ v.beat = s.beat ∧
           v.mon = s.mon ∧ Answered s v pk (ownAddr s (partEp part)) 0x13 3 [])) ∧
       (8 ≤ epOf pk.src → mgBad pk = false → pk.typ = 0x12 → (mgAddrs pk).all (writeReady s part) = false →
         ∃ v, exec (.mgmtWrite part pk) s = .next v ∧ v.mem = s.mem ∧ v.cnt = s.cnt ∧ v.beat = s.beat ∧ v.mon = s.mon ∧
           Answered s v pk (ownAddr s (partEp part)) 0x13 2 []) ∧
       (epOf pk.src < 8 → pk.typ = 0x11 → ∃ v, exec (.mgmtRead part pk) s = .next v ∧ v.mem = s.mem ∧ v.cnt = s.cnt ∧
         Answered s v pk (ownAddr s (partEp part)) 0x13 1 (wordBytes (List.replicate (mgCount pk) 0))) ∧
       (epOf pk.src < 8 → pk.typ = 0x12 → ∃ v, exec (.mgmtWrite part pk) s = .next v ∧ v.mem = s.mem ∧ v.cnt = s.cnt ∧
         v.beat = s.beat ∧ v.mon = s.mon ∧ Answered s v pk (ownAddr s (partEp part)) 0x13 1 []) ∧
       (8 ≤ epOf pk.src → mgBad pk = false → pk.typ = 0x12 → mgCount pk = 1 → writeReady s part (mgAddr pk) = true →
         ∃ v w, exec (.mgmtWrite part pk) s = .next v ∧
           exec (.registerWrite part (fld (payloadWord pk 0) 0 32) (payloadWord pk 1)) (takeRx s pk) = .next w ∧
           v.beat = w.beat ∧ v.mon = w.mon ∧ v.cnt = w.cnt ∧ v.mem = w.mem ∧ v.map = w.map ∧
           v.lease.shadow = w.lease.shadow)) ∧
     (∀ j rest a w, s.eng.mgmt = j :: rest → j.part = part → j.directed = false → j.status = 0 → j.pk.typ = 0x11 → j.todo = [(a, w)] →
       Answered s (mgStep s part) j.pk (ownAddr s (partEp part)) 0x13 0 (wordBytes (j.vals ++ [readReg s part a]))) ∧
     (∀ p : Fin 16, partRuns s .abut = true → portLooped s p.val = false → pk.typ = 0x15 →
       p = 1 ∨ portUp s p.val = true ∧ s.eng.startFail = false → badHeader pk = false →
       let q := bits (payloadWord pk 0) 3 0
       let ret := pushHop (payloadWord pk 1) p.val
       let inner := pk.payload.drop 16
       (bits (payloadWord pk 0) 51 48 ≠ 0 → portUp s q = true → portLooped s q = false → q < 14 → 1 < pk.ttl.toNat →
         ∃ v, exec (.directed p pk) s = .next v ∧ v.mem = s.mem ∧ v.cnt = s.cnt ∧
           (getPort v q).txq = (getPort s q).txq ++
             [{ pk with ttl := pk.ttl - 1, payload := wordBytes [popHop (payloadWord pk 0), ret] ++ inner }]) ∧
       (bits (payloadWord pk 0) 51 48 = 0 → directedHit s pk = none → s.eng.fuseDone = false →
         ∃ v, exec (.directed p pk) s = .next v ∧ v.mem = s.mem ∧ v.cnt = s.cnt ∧
           v.eng.held = s.eng.held ++ [(.abut, { pk with payload := wordBytes [payloadWord pk 0, ret] ++ inner })])))

/-- A step with a command in front of the queue is that command's effect with the rest of the queue; with none waiting it is
one cycle of what happens by itself, which keeps the queue empty and advances the model's time (the model's choice, log
entry 2).
No command stops the block: each answers a next state from every state (R417 and R206 make faults states of their own). -/
def Obligations.StepRunsFrontCommand : Prop :=
  ((∀ (c : Instr) (s : State) (rest : List Instr), step { s with pending := c :: rest } = exec c { s with pending := rest }) ∧
     ∀ s : State, s.pending = [] → ∃ v, step s = .next v ∧ v.pending = [] ∧ v.now = s.now + 1) ∧
  (∀ (c : Instr) (s : State), ∃ v, exec c s = .next v)

/-- The state after reset: memory, which is all 0 (the model's choice, log entry 1), is canonical, every counter is bounded,
the numbers of the Pier's and the Abutment's jobs are fresh, phase RESET stands, TAPs show IDCODE, and the registers have
the values that R420, R459, R397, R464 and R469 give them. -/
def Obligations.ResetState : Prop :=
  Memory.wf State.reset.mem = true ∧ CountersBounded State.reset ∧ NumbersFresh State.reset ∧
    State.reset.pending = [] ∧ State.reset.eng.phase = 0 ∧ State.reset.eng.mode = 0 ∧ State.reset.tap.irSpan = 0x01 ∧
    State.reset.beat.nominal = 1050 ∧ State.reset.beat.meterPeriod = 1000 ∧ State.reset.beat.count = 0 ∧
    State.reset.mon.tempTrip = 0x1F4 ∧ State.reset.mon.tempHot = 0x1E0 ∧ State.reset.pier.pcmap = 0x0000000A09080706 ∧
    (∀ l, lstate State.reset l = .empty) ∧ (∀ t, (getThr State.reset t).st = .free) ∧
    (∀ x, (getStr State.reset x).st = .unarmed) ∧ (∀ x, (getSlot State.reset x).st = .free) ∧
    ∀ n, getCnt State.reset n = {}

/-- The model's memory stays in its canonical form: addresses strictly rise and no byte is listed that reads as 0 anyway. -/
def Obligations.MemoryStaysCanonical : Prop :=
  ∀ s v : State, Memory.wf s.mem = true → step s = .next v → Memory.wf v.mem = true

/-- R249: at all times 0 ≤ P − C ≤ CAPACITY holds of every counter, and no operation that would break this takes effect. -/
def Obligations.CountersStayBounded : Prop :=
  ∀ s v : State, CountersBounded s → step s = .next v → CountersBounded v

/-- The numbers that the Pier gives its next command or job, and the Abutment its next CXL job, are numbers that none of
theirs has; the statements about an accepted command, a burst and a CXL read take this as a premise. -/
def Obligations.NumbersStayFresh : Prop :=
  ∀ s v : State, NumbersFresh s → step s = .next v → NumbersFresh v

/-- R358: a THREAD_LIMIT at or below the threads that a lease holds stops its new placements until it holds fewer; no running
task is stopped, by the cut or by the placement that finds it. -/
def Obligations.ThreadLimitCut : Prop :=
  ∀ (s : State) (l : Nat),
    (threadLimit s l ≤ threadsHeld s l → (∀ k, nextCandidate s ≠ some (l, k)) ∧
      ((waitingFrames s).bind (restoreFrame s) = none →
        ∃ u, exec .taskPlacement s = .next u ∧ ∀ t, getThr u t = getThr s t ∨
          ((getThr s t).st = .free ∧ (getThr u t).lease ≠ l))) ∧
    (∀ k e, threadsHeld s l < threadLimit s l → (getRt s l).tasks[k]? = some e → e.enable = true → taskLive s l k = false →
      lstate s l = .resident → (getRt s l).saving = false → e.amount.toNat ≤ avail (getCnt s e.cnt.toNat) →
        candidate s l k = true) ∧
    ∃ u, exec .leaseCommitTake s = .next u ∧ u.thr = s.thr

/-- R398: a reading at or above TEMP_TRIP changes no mode by itself; one that follows it sends MON_TRIP and stops the engine
set in order; one below it sends MON_TEMP_HOT with DETAIL1 = 1 and changes nothing else. -/
def Obligations.TempTrip : Prop :=
  ∀ (s : State) (k : Nat) (c : BitVec 10), s.eng.fuseDone = true → k < 32 → c ≠ 0 → c ≠ 1023 →
    let pend := s.mon.tripPend
    (s.mon.tempTrip.toNat ≤ c.toNat → pend.getLsbD k = false →
      ∃ v, exec (.tempReading [(k, c, true)]) s = .next v ∧ v.mon.tripPend = pend ||| ((1 : Half) <<< k) ∧ v.eng.mode = s.eng.mode ∧
        v.pins = s.pins) ∧
    (s.mon.tempTrip.toNat ≤ c.toNat → pend.getLsbD k = true → stopping s = false →
      ∃ v, exec (.tempReading [(k, c, true)]) s = .next v ∧ v.eng.mode = 2 ∧ v.eng.stopReason = 6 ∧
        (s.repQ.length < 15 → ∃ r ∈ v.repQ.drop s.repQ.length, r.cause = 0x52 ∧ r.engine = true ∧
          r.detail0 = BitVec.ofNat 64 k ∧ r.detail1 = c.setWidth 64)) ∧
    (c.toNat < s.mon.tempTrip.toNat → pend.getLsbD k = true →
      ∃ v, exec (.tempReading [(k, c, true)]) s = .next v ∧ ReportsOnly { s with mon := v.mon } v ∧
        v.mon = { s.mon with temp := v.mon.temp, tripPend := pend &&& ~~~((1 : Half) <<< k) } ∧
        (s.repQ.length < 15 → ∃ r ∈ v.repQ.drop s.repQ.length, r.cause = 0x51 ∧ r.engine = true ∧ r.detail1 = 1))
end

