-- ==== Sys2Proof/Laws/Tab.lean ====
section
/-! SUPPORT. The laws of sparse tables: what a key reads after a write, and that a write keeps the canonical form. -/

namespace Sys2Proof

variable {α : Type}

theorem Tab.get_put (d : α) (t : Tab α) (k n : Nat) (v : α) :
    Tab.get d (Tab.put t k v) n = if n = k then v else Tab.get d t n := by
  induction t with
  | nil => simp [Tab.put, Tab.get, eq_comm]
  | cons p t ih =>
    obtain ⟨k', v'⟩ := p
    simp only [Tab.put]
    split
    · by_cases h : n = k
      · simp [Tab.get, h]
      · simp [Tab.get, h, Ne.symm h]
    · split
      · rename_i h; subst h
        by_cases h : n = k
        · simp [Tab.get, h]
        · simp [Tab.get, h, Ne.symm h]
      · rename_i h1 h2
        simp only [Tab.get, ih]
        by_cases h : n = k
        · have : ¬ k' = n := by omega
          simp [h, Ne.symm h2]
        · simp [h]

/-- Every key of a table is above a bound. -/
def Tab.above (b : Nat) (t : Tab α) : Prop := ∀ p ∈ t, b < p.1

theorem Tab.get_above (d : α) (t : Tab α) (k : Nat) (h : Tab.above k t) : Tab.get d t k = d := by
  induction t with
  | nil => rfl
  | cons p t ih =>
    obtain ⟨k', v'⟩ := p
    have h1 : k < k' := h (k', v') (List.mem_cons_self ..)
    have : ¬ k' = k := by omega
    simp only [Tab.get, this, if_false]
    exact ih (fun p hp => h p (List.mem_cons_of_mem _ hp))

theorem Tab.get_drop (d : α) (t : Tab α) (k n : Nat) :
    Tab.get d (Tab.drop t k) n = if n = k then d else Tab.get d t n := by
  induction t with
  | nil => simp [Tab.drop, Tab.get]
  | cons p t ih =>
    obtain ⟨k', v'⟩ := p
    simp only [Tab.drop]
    split
    · rename_i e; subst e
      rw [ih]
      by_cases hn : n = k'
      · simp [hn]
      · simp [Tab.get, hn, Ne.symm hn]
    · rename_i e
      by_cases hn : k' = n
      · subst hn; simp [Tab.get, e]
      · simp [Tab.get, hn, ih]

theorem Tab.mem_drop (t : Tab α) (k : Nat) (p : Nat × α) (h : p ∈ Tab.drop t k) : p ∈ t := by
  induction t with
  | nil => exact h
  | cons q t ih =>
    simp only [Tab.drop] at h
    split at h
    · exact List.mem_cons_of_mem _ (ih h)
    · rcases List.mem_cons.1 h with rfl | h
      · exact List.mem_cons_self ..
      · exact List.mem_cons_of_mem _ (ih h)

theorem Tab.mem_put (t : Tab α) (k : Nat) (v : α) (p : Nat × α) (h : p ∈ Tab.put t k v) : p = (k, v) ∨ p ∈ t := by
  induction t with
  | nil => simpa [Tab.put] using h
  | cons q t ih =>
    simp only [Tab.put] at h
    split at h
    · simpa using h
    · split at h
      · rcases List.mem_cons.1 h with rfl | h
        · exact Or.inl rfl
        · exact Or.inr (List.mem_cons_of_mem _ h)
      · rcases List.mem_cons.1 h with rfl | h
        · exact Or.inr (List.mem_cons_self ..)
        · rcases ih h with h | h
          · exact Or.inl h
          · exact Or.inr (List.mem_cons_of_mem _ h)

variable [DecidableEq α]

/-- What a key reads after a write. -/
@[simp] theorem Tab.get_set (d : α) (t : Tab α) (k n : Nat) (v : α) :
    Tab.get d (Tab.set d t k v) n = if n = k then v else Tab.get d t n := by
  unfold Tab.set
  split
  · rename_i e; subst e; exact Tab.get_drop v t k n
  · exact Tab.get_put d t k n v

theorem Tab.wf_cons (d : α) (k : Nat) (v : α) (t : Tab α) :
    Tab.wf d ((k, v) :: t) = true ↔ v ≠ d ∧ Tab.above k t ∧ Tab.wf d t = true := by
  induction t generalizing k v with
  | nil => simp [Tab.wf, Tab.above]
  | cons p t ih =>
    obtain ⟨k', v'⟩ := p
    have := ih k' v'
    constructor
    · intro h
      simp only [Tab.wf, Bool.and_eq_true, decide_eq_true_eq] at h
      obtain ⟨⟨h1, h2⟩, h3⟩ := h
      refine ⟨h2, ?_, h3⟩
      intro p hp
      rcases List.mem_cons.1 hp with rfl | hp
      · exact h1
      · exact lt_trans h1 ((this.1 h3).2.1 p hp)
    · rintro ⟨h1, h2, h3⟩
      simp only [Tab.wf, Bool.and_eq_true, decide_eq_true_eq]
      exact ⟨⟨h2 (k', v') (List.mem_cons_self ..), h1⟩, h3⟩

theorem Tab.wf_nil (d : α) : Tab.wf d ([] : Tab α) = true := rfl

theorem Tab.wf_drop (d : α) (t : Tab α) (k : Nat) (h : Tab.wf d t = true) : Tab.wf d (Tab.drop t k) = true := by
  induction t with
  | nil => rfl
  | cons p t ih =>
    obtain ⟨k', v'⟩ := p
    obtain ⟨h1, ha, hw⟩ := (Tab.wf_cons d k' v' t).1 h
    simp only [Tab.drop]
    split
    · exact ih hw
    · exact (Tab.wf_cons ..).2 ⟨h1, fun p hp => ha p (Tab.mem_drop t k p hp), ih hw⟩

theorem Tab.wf_put (d : α) (t : Tab α) (k : Nat) (v : α) (hv : v ≠ d) (h : Tab.wf d t = true) :
    Tab.wf d (Tab.put t k v) = true := by
  induction t with
  | nil => simp [Tab.put, Tab.wf, hv]
  | cons p t ih =>
    obtain ⟨k', v'⟩ := p
    obtain ⟨h1, ha, hw⟩ := (Tab.wf_cons d k' v' t).1 h
    simp only [Tab.put]
    split
    · rename_i hk
      refine (Tab.wf_cons ..).2 ⟨hv, ?_, h⟩
      intro p hp
      rcases List.mem_cons.1 hp with rfl | hp
      · exact hk
      · exact lt_trans hk (ha p hp)
    · split
      · rename_i e; subst e
        exact (Tab.wf_cons ..).2 ⟨hv, ha, hw⟩
      · rename_i h2 h3
        refine (Tab.wf_cons ..).2 ⟨h1, ?_, ih hw⟩
        intro p hp
        rcases Tab.mem_put t k v p hp with rfl | hp
        · show k' < k; omega
        · exact ha p hp

/-- A write keeps the canonical form. -/
theorem Tab.wf_set (d : α) (t : Tab α) (k : Nat) (v : α) (h : Tab.wf d t = true) : Tab.wf d (Tab.set d t k v) = true := by
  unfold Tab.set
  split
  · exact Tab.wf_drop d t k h
  · rename_i hv; exact Tab.wf_put d t k v hv h

/-- Leaving entries out keeps the canonical form. -/
theorem Tab.wf_filter (d : α) (t : Tab α) (p : Nat × α → Bool) (h : Tab.wf d t = true) : Tab.wf d (t.filter p) = true := by
  induction t with
  | nil => rfl
  | cons q t ih =>
    obtain ⟨k, v⟩ := q
    obtain ⟨h1, ha, hw⟩ := (Tab.wf_cons d k v t).1 h
    simp only [List.filter_cons]
    split
    · exact (Tab.wf_cons ..).2 ⟨h1, fun p hp => ha p (List.mem_filter.1 hp).1, ih hw⟩
    · exact ih hw

/-- Two canonical tables that read alike everywhere are equal. -/
theorem Tab.ext_get (d : α) (t r : Tab α) (ht : Tab.wf d t = true) (hr : Tab.wf d r = true)
    (h : ∀ k, Tab.get d t k = Tab.get d r k) : t = r := by
  induction t generalizing r with
  | nil =>
    cases r with
    | nil => rfl
    | cons q r =>
      obtain ⟨k, v⟩ := q
      have := h k
      simp [Tab.get] at this
      exact absurd this.symm ((Tab.wf_cons ..).1 hr).1
  | cons p t ih =>
    obtain ⟨k, v⟩ := p
    obtain ⟨h1, ha, hw⟩ := (Tab.wf_cons d k v t).1 ht
    cases r with
    | nil =>
      have := h k
      simp [Tab.get] at this
      exact absurd this h1
    | cons q r =>
      obtain ⟨k', v'⟩ := q
      obtain ⟨h1', ha', hw'⟩ := (Tab.wf_cons d k' v' r).1 hr
      have hk : k = k' := by
        rcases Nat.lt_trichotomy k k' with hlt | he | hgt
        · have e := h k
          rw [Tab.get_above d ((k', v') :: r) k (by
            intro p hp
            rcases List.mem_cons.1 hp with rfl | hp
            · exact hlt
            · exact lt_trans hlt (ha' p hp))] at e
          simp [Tab.get] at e
          exact absurd e h1
        · exact he
        · have e := h k'
          rw [Tab.get_above d ((k, v) :: t) k' (by
            intro p hp
            rcases List.mem_cons.1 hp with rfl | hp
            · exact hgt
            · exact lt_trans hgt (ha p hp))] at e
          simp [Tab.get] at e
          exact absurd e.symm h1'
      subst hk
      have hv : v = v' := by simpa [Tab.get] using h k
      subst hv
      have : t = r := ih r hw hw' (fun n => by
        by_cases hn : n = k
        · subst hn; rw [Tab.get_above d t n ha, Tab.get_above d r n ha']
        · have := h n
          simpa [Tab.get, Ne.symm hn] using this)
      rw [this]

end Sys2Proof
end

