-- ==== Sys2Proof/Laws/State.lean ====
section
/-! SUPPORT. What each setter of a part of the state leaves alone, field by field, and what the getters read after it. No later
proof unfolds a record update. -/

namespace Sys2Proof.Machine

variable (s : State)

/-! ## setThr -/

@[simp] theorem setThr_pending (t : ThreadId) (x : Thread) : (setThr s t x).pending = s.pending := rfl
@[simp] theorem setThr_free (t : ThreadId) (x : Thread) : (setThr s t x).free = s.free := rfl
@[simp] theorem setThr_now (t : ThreadId) (x : Thread) : (setThr s t x).now = s.now := rfl
@[simp] theorem setThr_nextUid (t : ThreadId) (x : Thread) : (setThr s t x).nextUid = s.nextUid := rfl
@[simp] theorem setThr_pins (t : ThreadId) (x : Thread) : (setThr s t x).pins = s.pins := rfl
@[simp] theorem setThr_tap (t : ThreadId) (x : Thread) : (setThr s t x).tap = s.tap := rfl
@[simp] theorem setThr_fuse (t : ThreadId) (x : Thread) : (setThr s t x).fuse = s.fuse := rfl
@[simp] theorem setThr_eng (t : ThreadId) (x : Thread) : (setThr s t x).eng = s.eng := rfl
@[simp] theorem setThr_beat (t : ThreadId) (x : Thread) : (setThr s t x).beat = s.beat := rfl
@[simp] theorem setThr_lease (t : ThreadId) (x : Thread) : (setThr s t x).lease = s.lease := rfl
@[simp] theorem setThr_map (t : ThreadId) (x : Thread) : (setThr s t x).map = s.map := rfl
@[simp] theorem setThr_core (t : ThreadId) (x : Thread) : (setThr s t x).core = s.core := rfl
@[simp] theorem setThr_rrCore (t : ThreadId) (x : Thread) : (setThr s t x).rrCore = s.rrCore := rfl
@[simp] theorem setThr_xlate (t : ThreadId) (x : Thread) : (setThr s t x).xlate = s.xlate := rfl
@[simp] theorem setThr_cnt (t : ThreadId) (x : Thread) : (setThr s t x).cnt = s.cnt := rfl
@[simp] theorem setThr_instrs (t : ThreadId) (x : Thread) : (setThr s t x).instrs = s.instrs := rfl
@[simp] theorem setThr_dcache (t : ThreadId) (x : Thread) : (setThr s t x).dcache = s.dcache := rfl
@[simp] theorem setThr_ftab (t : ThreadId) (x : Thread) : (setThr s t x).ftab = s.ftab := rfl
@[simp] theorem setThr_str (t : ThreadId) (x : Thread) : (setThr s t x).str = s.str := rfl
@[simp] theorem setThr_strSpares (t : ThreadId) (x : Thread) : (setThr s t x).strSpares = s.strSpares := rfl
@[simp] theorem setThr_lastCtx (t : ThreadId) (x : Thread) : (setThr s t x).lastCtx = s.lastCtx := rfl
@[simp] theorem setThr_store (t : ThreadId) (x : Thread) : (setThr s t x).store = s.store := rfl
@[simp] theorem setThr_gather (t : ThreadId) (x : Thread) : (setThr s t x).gather = s.gather := rfl
@[simp] theorem setThr_arr (t : ThreadId) (x : Thread) : (setThr s t x).arr = s.arr := rfl
@[simp] theorem setThr_gir (t : ThreadId) (x : Thread) : (setThr s t x).gir = s.gir := rfl
@[simp] theorem setThr_drn (t : ThreadId) (x : Thread) : (setThr s t x).drn = s.drn := rfl
@[simp] theorem setThr_vec (t : ThreadId) (x : Thread) : (setThr s t x).vec = s.vec := rfl
@[simp] theorem setThr_rs (t : ThreadId) (x : Thread) : (setThr s t x).rs = s.rs := rfl
@[simp] theorem setThr_chn (t : ThreadId) (x : Thread) : (setThr s t x).chn = s.chn := rfl
@[simp] theorem setThr_chnFree (t : ThreadId) (x : Thread) : (setThr s t x).chnFree = s.chnFree := rfl
@[simp] theorem setThr_chnCred (t : ThreadId) (x : Thread) : (setThr s t x).chnCred = s.chnCred := rfl
@[simp] theorem setThr_mc (t : ThreadId) (x : Thread) : (setThr s t x).mc = s.mc := rfl
@[simp] theorem setThr_repQ (t : ThreadId) (x : Thread) : (setThr s t x).repQ = s.repQ := rfl
@[simp] theorem setThr_engSeq (t : ThreadId) (x : Thread) : (setThr s t x).engSeq = s.engSeq := rfl
@[simp] theorem setThr_perf (t : ThreadId) (x : Thread) : (setThr s t x).perf = s.perf := rfl
@[simp] theorem setThr_mon (t : ThreadId) (x : Thread) : (setThr s t x).mon = s.mon := rfl
@[simp] theorem setThr_mods (t : ThreadId) (x : Thread) : (setThr s t x).mods = s.mods := rfl
@[simp] theorem setThr_loop (t : ThreadId) (x : Thread) : (setThr s t x).loop = s.loop := rfl
@[simp] theorem setThr_pier (t : ThreadId) (x : Thread) : (setThr s t x).pier = s.pier := rfl
@[simp] theorem setThr_abut (t : ThreadId) (x : Thread) : (setThr s t x).abut = s.abut := rfl
@[simp] theorem setThr_net (t : ThreadId) (x : Thread) : (setThr s t x).net = s.net := rfl
@[simp] theorem setThr_mem (t : ThreadId) (x : Thread) : (setThr s t x).mem = s.mem := rfl
@[simp] theorem setThr_memBad (t : ThreadId) (x : Thread) : (setThr s t x).memBad = s.memBad := rfl
@[simp] theorem setThr_memGone (t : ThreadId) (x : Thread) : (setThr s t x).memGone = s.memGone := rfl
@[simp] theorem setThr_hw (t : ThreadId) (x : Thread) : (setThr s t x).hw = s.hw := rfl

/-! ## setCore -/

@[simp] theorem setCore_pending (c : Nat) (x : Core) : (setCore s c x).pending = s.pending := rfl
@[simp] theorem setCore_free (c : Nat) (x : Core) : (setCore s c x).free = s.free := rfl
@[simp] theorem setCore_now (c : Nat) (x : Core) : (setCore s c x).now = s.now := rfl
@[simp] theorem setCore_nextUid (c : Nat) (x : Core) : (setCore s c x).nextUid = s.nextUid := rfl
@[simp] theorem setCore_pins (c : Nat) (x : Core) : (setCore s c x).pins = s.pins := rfl
@[simp] theorem setCore_tap (c : Nat) (x : Core) : (setCore s c x).tap = s.tap := rfl
@[simp] theorem setCore_fuse (c : Nat) (x : Core) : (setCore s c x).fuse = s.fuse := rfl
@[simp] theorem setCore_eng (c : Nat) (x : Core) : (setCore s c x).eng = s.eng := rfl
@[simp] theorem setCore_beat (c : Nat) (x : Core) : (setCore s c x).beat = s.beat := rfl
@[simp] theorem setCore_lease (c : Nat) (x : Core) : (setCore s c x).lease = s.lease := rfl
@[simp] theorem setCore_map (c : Nat) (x : Core) : (setCore s c x).map = s.map := rfl
@[simp] theorem setCore_thr (c : Nat) (x : Core) : (setCore s c x).thr = s.thr := rfl
@[simp] theorem setCore_rrCore (c : Nat) (x : Core) : (setCore s c x).rrCore = s.rrCore := rfl
@[simp] theorem setCore_xlate (c : Nat) (x : Core) : (setCore s c x).xlate = s.xlate := rfl
@[simp] theorem setCore_cnt (c : Nat) (x : Core) : (setCore s c x).cnt = s.cnt := rfl
@[simp] theorem setCore_instrs (c : Nat) (x : Core) : (setCore s c x).instrs = s.instrs := rfl
@[simp] theorem setCore_dcache (c : Nat) (x : Core) : (setCore s c x).dcache = s.dcache := rfl
@[simp] theorem setCore_ftab (c : Nat) (x : Core) : (setCore s c x).ftab = s.ftab := rfl
@[simp] theorem setCore_str (c : Nat) (x : Core) : (setCore s c x).str = s.str := rfl
@[simp] theorem setCore_strSpares (c : Nat) (x : Core) : (setCore s c x).strSpares = s.strSpares := rfl
@[simp] theorem setCore_lastCtx (c : Nat) (x : Core) : (setCore s c x).lastCtx = s.lastCtx := rfl
@[simp] theorem setCore_store (c : Nat) (x : Core) : (setCore s c x).store = s.store := rfl
@[simp] theorem setCore_gather (c : Nat) (x : Core) : (setCore s c x).gather = s.gather := rfl
@[simp] theorem setCore_arr (c : Nat) (x : Core) : (setCore s c x).arr = s.arr := rfl
@[simp] theorem setCore_gir (c : Nat) (x : Core) : (setCore s c x).gir = s.gir := rfl
@[simp] theorem setCore_drn (c : Nat) (x : Core) : (setCore s c x).drn = s.drn := rfl
@[simp] theorem setCore_vec (c : Nat) (x : Core) : (setCore s c x).vec = s.vec := rfl
@[simp] theorem setCore_rs (c : Nat) (x : Core) : (setCore s c x).rs = s.rs := rfl
@[simp] theorem setCore_chn (c : Nat) (x : Core) : (setCore s c x).chn = s.chn := rfl
@[simp] theorem setCore_chnFree (c : Nat) (x : Core) : (setCore s c x).chnFree = s.chnFree := rfl
@[simp] theorem setCore_chnCred (c : Nat) (x : Core) : (setCore s c x).chnCred = s.chnCred := rfl
@[simp] theorem setCore_mc (c : Nat) (x : Core) : (setCore s c x).mc = s.mc := rfl
@[simp] theorem setCore_repQ (c : Nat) (x : Core) : (setCore s c x).repQ = s.repQ := rfl
@[simp] theorem setCore_engSeq (c : Nat) (x : Core) : (setCore s c x).engSeq = s.engSeq := rfl
@[simp] theorem setCore_perf (c : Nat) (x : Core) : (setCore s c x).perf = s.perf := rfl
@[simp] theorem setCore_mon (c : Nat) (x : Core) : (setCore s c x).mon = s.mon := rfl
@[simp] theorem setCore_mods (c : Nat) (x : Core) : (setCore s c x).mods = s.mods := rfl
@[simp] theorem setCore_loop (c : Nat) (x : Core) : (setCore s c x).loop = s.loop := rfl
@[simp] theorem setCore_pier (c : Nat) (x : Core) : (setCore s c x).pier = s.pier := rfl
@[simp] theorem setCore_abut (c : Nat) (x : Core) : (setCore s c x).abut = s.abut := rfl
@[simp] theorem setCore_net (c : Nat) (x : Core) : (setCore s c x).net = s.net := rfl
@[simp] theorem setCore_mem (c : Nat) (x : Core) : (setCore s c x).mem = s.mem := rfl
@[simp] theorem setCore_memBad (c : Nat) (x : Core) : (setCore s c x).memBad = s.memBad := rfl
@[simp] theorem setCore_memGone (c : Nat) (x : Core) : (setCore s c x).memGone = s.memGone := rfl
@[simp] theorem setCore_hw (c : Nat) (x : Core) : (setCore s c x).hw = s.hw := rfl

/-! ## setRt -/

@[simp] theorem setRt_pending (l : Nat) (x : LeaseRt) : (setRt s l x).pending = s.pending := rfl
@[simp] theorem setRt_free (l : Nat) (x : LeaseRt) : (setRt s l x).free = s.free := rfl
@[simp] theorem setRt_now (l : Nat) (x : LeaseRt) : (setRt s l x).now = s.now := rfl
@[simp] theorem setRt_nextUid (l : Nat) (x : LeaseRt) : (setRt s l x).nextUid = s.nextUid := rfl
@[simp] theorem setRt_pins (l : Nat) (x : LeaseRt) : (setRt s l x).pins = s.pins := rfl
@[simp] theorem setRt_tap (l : Nat) (x : LeaseRt) : (setRt s l x).tap = s.tap := rfl
@[simp] theorem setRt_fuse (l : Nat) (x : LeaseRt) : (setRt s l x).fuse = s.fuse := rfl
@[simp] theorem setRt_eng (l : Nat) (x : LeaseRt) : (setRt s l x).eng = s.eng := rfl
@[simp] theorem setRt_beat (l : Nat) (x : LeaseRt) : (setRt s l x).beat = s.beat := rfl
@[simp] theorem setRt_map (l : Nat) (x : LeaseRt) : (setRt s l x).map = s.map := rfl
@[simp] theorem setRt_thr (l : Nat) (x : LeaseRt) : (setRt s l x).thr = s.thr := rfl
@[simp] theorem setRt_core (l : Nat) (x : LeaseRt) : (setRt s l x).core = s.core := rfl
@[simp] theorem setRt_rrCore (l : Nat) (x : LeaseRt) : (setRt s l x).rrCore = s.rrCore := rfl
@[simp] theorem setRt_xlate (l : Nat) (x : LeaseRt) : (setRt s l x).xlate = s.xlate := rfl
@[simp] theorem setRt_cnt (l : Nat) (x : LeaseRt) : (setRt s l x).cnt = s.cnt := rfl
@[simp] theorem setRt_instrs (l : Nat) (x : LeaseRt) : (setRt s l x).instrs = s.instrs := rfl
@[simp] theorem setRt_dcache (l : Nat) (x : LeaseRt) : (setRt s l x).dcache = s.dcache := rfl
@[simp] theorem setRt_ftab (l : Nat) (x : LeaseRt) : (setRt s l x).ftab = s.ftab := rfl
@[simp] theorem setRt_str (l : Nat) (x : LeaseRt) : (setRt s l x).str = s.str := rfl
@[simp] theorem setRt_strSpares (l : Nat) (x : LeaseRt) : (setRt s l x).strSpares = s.strSpares := rfl
@[simp] theorem setRt_lastCtx (l : Nat) (x : LeaseRt) : (setRt s l x).lastCtx = s.lastCtx := rfl
@[simp] theorem setRt_store (l : Nat) (x : LeaseRt) : (setRt s l x).store = s.store := rfl
@[simp] theorem setRt_gather (l : Nat) (x : LeaseRt) : (setRt s l x).gather = s.gather := rfl
@[simp] theorem setRt_arr (l : Nat) (x : LeaseRt) : (setRt s l x).arr = s.arr := rfl
@[simp] theorem setRt_gir (l : Nat) (x : LeaseRt) : (setRt s l x).gir = s.gir := rfl
@[simp] theorem setRt_drn (l : Nat) (x : LeaseRt) : (setRt s l x).drn = s.drn := rfl
@[simp] theorem setRt_vec (l : Nat) (x : LeaseRt) : (setRt s l x).vec = s.vec := rfl
@[simp] theorem setRt_rs (l : Nat) (x : LeaseRt) : (setRt s l x).rs = s.rs := rfl
@[simp] theorem setRt_chn (l : Nat) (x : LeaseRt) : (setRt s l x).chn = s.chn := rfl
@[simp] theorem setRt_chnFree (l : Nat) (x : LeaseRt) : (setRt s l x).chnFree = s.chnFree := rfl
@[simp] theorem setRt_chnCred (l : Nat) (x : LeaseRt) : (setRt s l x).chnCred = s.chnCred := rfl
@[simp] theorem setRt_mc (l : Nat) (x : LeaseRt) : (setRt s l x).mc = s.mc := rfl
@[simp] theorem setRt_repQ (l : Nat) (x : LeaseRt) : (setRt s l x).repQ = s.repQ := rfl
@[simp] theorem setRt_engSeq (l : Nat) (x : LeaseRt) : (setRt s l x).engSeq = s.engSeq := rfl
@[simp] theorem setRt_perf (l : Nat) (x : LeaseRt) : (setRt s l x).perf = s.perf := rfl
@[simp] theorem setRt_mon (l : Nat) (x : LeaseRt) : (setRt s l x).mon = s.mon := rfl
@[simp] theorem setRt_mods (l : Nat) (x : LeaseRt) : (setRt s l x).mods = s.mods := rfl
@[simp] theorem setRt_loop (l : Nat) (x : LeaseRt) : (setRt s l x).loop = s.loop := rfl
@[simp] theorem setRt_pier (l : Nat) (x : LeaseRt) : (setRt s l x).pier = s.pier := rfl
@[simp] theorem setRt_abut (l : Nat) (x : LeaseRt) : (setRt s l x).abut = s.abut := rfl
@[simp] theorem setRt_net (l : Nat) (x : LeaseRt) : (setRt s l x).net = s.net := rfl
@[simp] theorem setRt_mem (l : Nat) (x : LeaseRt) : (setRt s l x).mem = s.mem := rfl
@[simp] theorem setRt_memBad (l : Nat) (x : LeaseRt) : (setRt s l x).memBad = s.memBad := rfl
@[simp] theorem setRt_memGone (l : Nat) (x : LeaseRt) : (setRt s l x).memGone = s.memGone := rfl
@[simp] theorem setRt_hw (l : Nat) (x : LeaseRt) : (setRt s l x).hw = s.hw := rfl

/-! ## setCtl -/

@[simp] theorem setCtl_pending (l : Nat) (x : LeaseCtl) : (setCtl s l x).pending = s.pending := rfl
@[simp] theorem setCtl_free (l : Nat) (x : LeaseCtl) : (setCtl s l x).free = s.free := rfl
@[simp] theorem setCtl_now (l : Nat) (x : LeaseCtl) : (setCtl s l x).now = s.now := rfl
@[simp] theorem setCtl_nextUid (l : Nat) (x : LeaseCtl) : (setCtl s l x).nextUid = s.nextUid := rfl
@[simp] theorem setCtl_pins (l : Nat) (x : LeaseCtl) : (setCtl s l x).pins = s.pins := rfl
@[simp] theorem setCtl_tap (l : Nat) (x : LeaseCtl) : (setCtl s l x).tap = s.tap := rfl
@[simp] theorem setCtl_fuse (l : Nat) (x : LeaseCtl) : (setCtl s l x).fuse = s.fuse := rfl
@[simp] theorem setCtl_eng (l : Nat) (x : LeaseCtl) : (setCtl s l x).eng = s.eng := rfl
@[simp] theorem setCtl_beat (l : Nat) (x : LeaseCtl) : (setCtl s l x).beat = s.beat := rfl
@[simp] theorem setCtl_map (l : Nat) (x : LeaseCtl) : (setCtl s l x).map = s.map := rfl
@[simp] theorem setCtl_thr (l : Nat) (x : LeaseCtl) : (setCtl s l x).thr = s.thr := rfl
@[simp] theorem setCtl_core (l : Nat) (x : LeaseCtl) : (setCtl s l x).core = s.core := rfl
@[simp] theorem setCtl_rrCore (l : Nat) (x : LeaseCtl) : (setCtl s l x).rrCore = s.rrCore := rfl
@[simp] theorem setCtl_xlate (l : Nat) (x : LeaseCtl) : (setCtl s l x).xlate = s.xlate := rfl
@[simp] theorem setCtl_cnt (l : Nat) (x : LeaseCtl) : (setCtl s l x).cnt = s.cnt := rfl
@[simp] theorem setCtl_instrs (l : Nat) (x : LeaseCtl) : (setCtl s l x).instrs = s.instrs := rfl
@[simp] theorem setCtl_dcache (l : Nat) (x : LeaseCtl) : (setCtl s l x).dcache = s.dcache := rfl
@[simp] theorem setCtl_ftab (l : Nat) (x : LeaseCtl) : (setCtl s l x).ftab = s.ftab := rfl
@[simp] theorem setCtl_str (l : Nat) (x : LeaseCtl) : (setCtl s l x).str = s.str := rfl
@[simp] theorem setCtl_strSpares (l : Nat) (x : LeaseCtl) : (setCtl s l x).strSpares = s.strSpares := rfl
@[simp] theorem setCtl_lastCtx (l : Nat) (x : LeaseCtl) : (setCtl s l x).lastCtx = s.lastCtx := rfl
@[simp] theorem setCtl_store (l : Nat) (x : LeaseCtl) : (setCtl s l x).store = s.store := rfl
@[simp] theorem setCtl_gather (l : Nat) (x : LeaseCtl) : (setCtl s l x).gather = s.gather := rfl
@[simp] theorem setCtl_arr (l : Nat) (x : LeaseCtl) : (setCtl s l x).arr = s.arr := rfl
@[simp] theorem setCtl_gir (l : Nat) (x : LeaseCtl) : (setCtl s l x).gir = s.gir := rfl
@[simp] theorem setCtl_drn (l : Nat) (x : LeaseCtl) : (setCtl s l x).drn = s.drn := rfl
@[simp] theorem setCtl_vec (l : Nat) (x : LeaseCtl) : (setCtl s l x).vec = s.vec := rfl
@[simp] theorem setCtl_rs (l : Nat) (x : LeaseCtl) : (setCtl s l x).rs = s.rs := rfl
@[simp] theorem setCtl_chn (l : Nat) (x : LeaseCtl) : (setCtl s l x).chn = s.chn := rfl
@[simp] theorem setCtl_chnFree (l : Nat) (x : LeaseCtl) : (setCtl s l x).chnFree = s.chnFree := rfl
@[simp] theorem setCtl_chnCred (l : Nat) (x : LeaseCtl) : (setCtl s l x).chnCred = s.chnCred := rfl
@[simp] theorem setCtl_mc (l : Nat) (x : LeaseCtl) : (setCtl s l x).mc = s.mc := rfl
@[simp] theorem setCtl_repQ (l : Nat) (x : LeaseCtl) : (setCtl s l x).repQ = s.repQ := rfl
@[simp] theorem setCtl_engSeq (l : Nat) (x : LeaseCtl) : (setCtl s l x).engSeq = s.engSeq := rfl
@[simp] theorem setCtl_perf (l : Nat) (x : LeaseCtl) : (setCtl s l x).perf = s.perf := rfl
@[simp] theorem setCtl_mon (l : Nat) (x : LeaseCtl) : (setCtl s l x).mon = s.mon := rfl
@[simp] theorem setCtl_mods (l : Nat) (x : LeaseCtl) : (setCtl s l x).mods = s.mods := rfl
@[simp] theorem setCtl_loop (l : Nat) (x : LeaseCtl) : (setCtl s l x).loop = s.loop := rfl
@[simp] theorem setCtl_pier (l : Nat) (x : LeaseCtl) : (setCtl s l x).pier = s.pier := rfl
@[simp] theorem setCtl_abut (l : Nat) (x : LeaseCtl) : (setCtl s l x).abut = s.abut := rfl
@[simp] theorem setCtl_net (l : Nat) (x : LeaseCtl) : (setCtl s l x).net = s.net := rfl
@[simp] theorem setCtl_mem (l : Nat) (x : LeaseCtl) : (setCtl s l x).mem = s.mem := rfl
@[simp] theorem setCtl_memBad (l : Nat) (x : LeaseCtl) : (setCtl s l x).memBad = s.memBad := rfl
@[simp] theorem setCtl_memGone (l : Nat) (x : LeaseCtl) : (setCtl s l x).memGone = s.memGone := rfl
@[simp] theorem setCtl_hw (l : Nat) (x : LeaseCtl) : (setCtl s l x).hw = s.hw := rfl

/-! ## setCnt -/

@[simp] theorem setCnt_pending (n : Nat) (x : Counter) : (setCnt s n x).pending = s.pending := rfl
@[simp] theorem setCnt_free (n : Nat) (x : Counter) : (setCnt s n x).free = s.free := rfl
@[simp] theorem setCnt_now (n : Nat) (x : Counter) : (setCnt s n x).now = s.now := rfl
@[simp] theorem setCnt_nextUid (n : Nat) (x : Counter) : (setCnt s n x).nextUid = s.nextUid := rfl
@[simp] theorem setCnt_pins (n : Nat) (x : Counter) : (setCnt s n x).pins = s.pins := rfl
@[simp] theorem setCnt_tap (n : Nat) (x : Counter) : (setCnt s n x).tap = s.tap := rfl
@[simp] theorem setCnt_fuse (n : Nat) (x : Counter) : (setCnt s n x).fuse = s.fuse := rfl
@[simp] theorem setCnt_eng (n : Nat) (x : Counter) : (setCnt s n x).eng = s.eng := rfl
@[simp] theorem setCnt_beat (n : Nat) (x : Counter) : (setCnt s n x).beat = s.beat := rfl
@[simp] theorem setCnt_lease (n : Nat) (x : Counter) : (setCnt s n x).lease = s.lease := rfl
@[simp] theorem setCnt_map (n : Nat) (x : Counter) : (setCnt s n x).map = s.map := rfl
@[simp] theorem setCnt_thr (n : Nat) (x : Counter) : (setCnt s n x).thr = s.thr := rfl
@[simp] theorem setCnt_core (n : Nat) (x : Counter) : (setCnt s n x).core = s.core := rfl
@[simp] theorem setCnt_rrCore (n : Nat) (x : Counter) : (setCnt s n x).rrCore = s.rrCore := rfl
@[simp] theorem setCnt_xlate (n : Nat) (x : Counter) : (setCnt s n x).xlate = s.xlate := rfl
@[simp] theorem setCnt_instrs (n : Nat) (x : Counter) : (setCnt s n x).instrs = s.instrs := rfl
@[simp] theorem setCnt_dcache (n : Nat) (x : Counter) : (setCnt s n x).dcache = s.dcache := rfl
@[simp] theorem setCnt_ftab (n : Nat) (x : Counter) : (setCnt s n x).ftab = s.ftab := rfl
@[simp] theorem setCnt_str (n : Nat) (x : Counter) : (setCnt s n x).str = s.str := rfl
@[simp] theorem setCnt_strSpares (n : Nat) (x : Counter) : (setCnt s n x).strSpares = s.strSpares := rfl
@[simp] theorem setCnt_lastCtx (n : Nat) (x : Counter) : (setCnt s n x).lastCtx = s.lastCtx := rfl
@[simp] theorem setCnt_store (n : Nat) (x : Counter) : (setCnt s n x).store = s.store := rfl
@[simp] theorem setCnt_gather (n : Nat) (x : Counter) : (setCnt s n x).gather = s.gather := rfl
@[simp] theorem setCnt_arr (n : Nat) (x : Counter) : (setCnt s n x).arr = s.arr := rfl
@[simp] theorem setCnt_gir (n : Nat) (x : Counter) : (setCnt s n x).gir = s.gir := rfl
@[simp] theorem setCnt_drn (n : Nat) (x : Counter) : (setCnt s n x).drn = s.drn := rfl
@[simp] theorem setCnt_vec (n : Nat) (x : Counter) : (setCnt s n x).vec = s.vec := rfl
@[simp] theorem setCnt_rs (n : Nat) (x : Counter) : (setCnt s n x).rs = s.rs := rfl
@[simp] theorem setCnt_chn (n : Nat) (x : Counter) : (setCnt s n x).chn = s.chn := rfl
@[simp] theorem setCnt_chnFree (n : Nat) (x : Counter) : (setCnt s n x).chnFree = s.chnFree := rfl
@[simp] theorem setCnt_chnCred (n : Nat) (x : Counter) : (setCnt s n x).chnCred = s.chnCred := rfl
@[simp] theorem setCnt_mc (n : Nat) (x : Counter) : (setCnt s n x).mc = s.mc := rfl
@[simp] theorem setCnt_repQ (n : Nat) (x : Counter) : (setCnt s n x).repQ = s.repQ := rfl
@[simp] theorem setCnt_engSeq (n : Nat) (x : Counter) : (setCnt s n x).engSeq = s.engSeq := rfl
@[simp] theorem setCnt_perf (n : Nat) (x : Counter) : (setCnt s n x).perf = s.perf := rfl
@[simp] theorem setCnt_mon (n : Nat) (x : Counter) : (setCnt s n x).mon = s.mon := rfl
@[simp] theorem setCnt_mods (n : Nat) (x : Counter) : (setCnt s n x).mods = s.mods := rfl
@[simp] theorem setCnt_loop (n : Nat) (x : Counter) : (setCnt s n x).loop = s.loop := rfl
@[simp] theorem setCnt_pier (n : Nat) (x : Counter) : (setCnt s n x).pier = s.pier := rfl
@[simp] theorem setCnt_abut (n : Nat) (x : Counter) : (setCnt s n x).abut = s.abut := rfl
@[simp] theorem setCnt_net (n : Nat) (x : Counter) : (setCnt s n x).net = s.net := rfl
@[simp] theorem setCnt_mem (n : Nat) (x : Counter) : (setCnt s n x).mem = s.mem := rfl
@[simp] theorem setCnt_memBad (n : Nat) (x : Counter) : (setCnt s n x).memBad = s.memBad := rfl
@[simp] theorem setCnt_memGone (n : Nat) (x : Counter) : (setCnt s n x).memGone = s.memGone := rfl
@[simp] theorem setCnt_hw (n : Nat) (x : Counter) : (setCnt s n x).hw = s.hw := rfl

/-! ## setStr -/

@[simp] theorem setStr_pending (c : Nat) (x : Stream) : (setStr s c x).pending = s.pending := rfl
@[simp] theorem setStr_free (c : Nat) (x : Stream) : (setStr s c x).free = s.free := rfl
@[simp] theorem setStr_now (c : Nat) (x : Stream) : (setStr s c x).now = s.now := rfl
@[simp] theorem setStr_nextUid (c : Nat) (x : Stream) : (setStr s c x).nextUid = s.nextUid := rfl
@[simp] theorem setStr_pins (c : Nat) (x : Stream) : (setStr s c x).pins = s.pins := rfl
@[simp] theorem setStr_tap (c : Nat) (x : Stream) : (setStr s c x).tap = s.tap := rfl
@[simp] theorem setStr_fuse (c : Nat) (x : Stream) : (setStr s c x).fuse = s.fuse := rfl
@[simp] theorem setStr_eng (c : Nat) (x : Stream) : (setStr s c x).eng = s.eng := rfl
@[simp] theorem setStr_beat (c : Nat) (x : Stream) : (setStr s c x).beat = s.beat := rfl
@[simp] theorem setStr_lease (c : Nat) (x : Stream) : (setStr s c x).lease = s.lease := rfl
@[simp] theorem setStr_map (c : Nat) (x : Stream) : (setStr s c x).map = s.map := rfl
@[simp] theorem setStr_thr (c : Nat) (x : Stream) : (setStr s c x).thr = s.thr := rfl
@[simp] theorem setStr_core (c : Nat) (x : Stream) : (setStr s c x).core = s.core := rfl
@[simp] theorem setStr_rrCore (c : Nat) (x : Stream) : (setStr s c x).rrCore = s.rrCore := rfl
@[simp] theorem setStr_xlate (c : Nat) (x : Stream) : (setStr s c x).xlate = s.xlate := rfl
@[simp] theorem setStr_cnt (c : Nat) (x : Stream) : (setStr s c x).cnt = s.cnt := rfl
@[simp] theorem setStr_instrs (c : Nat) (x : Stream) : (setStr s c x).instrs = s.instrs := rfl
@[simp] theorem setStr_dcache (c : Nat) (x : Stream) : (setStr s c x).dcache = s.dcache := rfl
@[simp] theorem setStr_ftab (c : Nat) (x : Stream) : (setStr s c x).ftab = s.ftab := rfl
@[simp] theorem setStr_strSpares (c : Nat) (x : Stream) : (setStr s c x).strSpares = s.strSpares := rfl
@[simp] theorem setStr_lastCtx (c : Nat) (x : Stream) : (setStr s c x).lastCtx = s.lastCtx := rfl
@[simp] theorem setStr_store (c : Nat) (x : Stream) : (setStr s c x).store = s.store := rfl
@[simp] theorem setStr_gather (c : Nat) (x : Stream) : (setStr s c x).gather = s.gather := rfl
@[simp] theorem setStr_arr (c : Nat) (x : Stream) : (setStr s c x).arr = s.arr := rfl
@[simp] theorem setStr_gir (c : Nat) (x : Stream) : (setStr s c x).gir = s.gir := rfl
@[simp] theorem setStr_drn (c : Nat) (x : Stream) : (setStr s c x).drn = s.drn := rfl
@[simp] theorem setStr_vec (c : Nat) (x : Stream) : (setStr s c x).vec = s.vec := rfl
@[simp] theorem setStr_rs (c : Nat) (x : Stream) : (setStr s c x).rs = s.rs := rfl
@[simp] theorem setStr_chn (c : Nat) (x : Stream) : (setStr s c x).chn = s.chn := rfl
@[simp] theorem setStr_chnFree (c : Nat) (x : Stream) : (setStr s c x).chnFree = s.chnFree := rfl
@[simp] theorem setStr_chnCred (c : Nat) (x : Stream) : (setStr s c x).chnCred = s.chnCred := rfl
@[simp] theorem setStr_mc (c : Nat) (x : Stream) : (setStr s c x).mc = s.mc := rfl
@[simp] theorem setStr_repQ (c : Nat) (x : Stream) : (setStr s c x).repQ = s.repQ := rfl
@[simp] theorem setStr_engSeq (c : Nat) (x : Stream) : (setStr s c x).engSeq = s.engSeq := rfl
@[simp] theorem setStr_perf (c : Nat) (x : Stream) : (setStr s c x).perf = s.perf := rfl
@[simp] theorem setStr_mon (c : Nat) (x : Stream) : (setStr s c x).mon = s.mon := rfl
@[simp] theorem setStr_mods (c : Nat) (x : Stream) : (setStr s c x).mods = s.mods := rfl
@[simp] theorem setStr_loop (c : Nat) (x : Stream) : (setStr s c x).loop = s.loop := rfl
@[simp] theorem setStr_pier (c : Nat) (x : Stream) : (setStr s c x).pier = s.pier := rfl
@[simp] theorem setStr_abut (c : Nat) (x : Stream) : (setStr s c x).abut = s.abut := rfl
@[simp] theorem setStr_net (c : Nat) (x : Stream) : (setStr s c x).net = s.net := rfl
@[simp] theorem setStr_mem (c : Nat) (x : Stream) : (setStr s c x).mem = s.mem := rfl
@[simp] theorem setStr_memBad (c : Nat) (x : Stream) : (setStr s c x).memBad = s.memBad := rfl
@[simp] theorem setStr_memGone (c : Nat) (x : Stream) : (setStr s c x).memGone = s.memGone := rfl
@[simp] theorem setStr_hw (c : Nat) (x : Stream) : (setStr s c x).hw = s.hw := rfl

/-! ## setSlot -/

@[simp] theorem setSlot_pending (k : Nat) (x : Slot) : (setSlot s k x).pending = s.pending := rfl
@[simp] theorem setSlot_free (k : Nat) (x : Slot) : (setSlot s k x).free = s.free := rfl
@[simp] theorem setSlot_now (k : Nat) (x : Slot) : (setSlot s k x).now = s.now := rfl
@[simp] theorem setSlot_nextUid (k : Nat) (x : Slot) : (setSlot s k x).nextUid = s.nextUid := rfl
@[simp] theorem setSlot_pins (k : Nat) (x : Slot) : (setSlot s k x).pins = s.pins := rfl
@[simp] theorem setSlot_tap (k : Nat) (x : Slot) : (setSlot s k x).tap = s.tap := rfl
@[simp] theorem setSlot_fuse (k : Nat) (x : Slot) : (setSlot s k x).fuse = s.fuse := rfl
@[simp] theorem setSlot_eng (k : Nat) (x : Slot) : (setSlot s k x).eng = s.eng := rfl
@[simp] theorem setSlot_beat (k : Nat) (x : Slot) : (setSlot s k x).beat = s.beat := rfl
@[simp] theorem setSlot_lease (k : Nat) (x : Slot) : (setSlot s k x).lease = s.lease := rfl
@[simp] theorem setSlot_map (k : Nat) (x : Slot) : (setSlot s k x).map = s.map := rfl
@[simp] theorem setSlot_thr (k : Nat) (x : Slot) : (setSlot s k x).thr = s.thr := rfl
@[simp] theorem setSlot_core (k : Nat) (x : Slot) : (setSlot s k x).core = s.core := rfl
@[simp] theorem setSlot_rrCore (k : Nat) (x : Slot) : (setSlot s k x).rrCore = s.rrCore := rfl
@[simp] theorem setSlot_xlate (k : Nat) (x : Slot) : (setSlot s k x).xlate = s.xlate := rfl
@[simp] theorem setSlot_cnt (k : Nat) (x : Slot) : (setSlot s k x).cnt = s.cnt := rfl
@[simp] theorem setSlot_instrs (k : Nat) (x : Slot) : (setSlot s k x).instrs = s.instrs := rfl
@[simp] theorem setSlot_dcache (k : Nat) (x : Slot) : (setSlot s k x).dcache = s.dcache := rfl
@[simp] theorem setSlot_ftab (k : Nat) (x : Slot) : (setSlot s k x).ftab = s.ftab := rfl
@[simp] theorem setSlot_str (k : Nat) (x : Slot) : (setSlot s k x).str = s.str := rfl
@[simp] theorem setSlot_strSpares (k : Nat) (x : Slot) : (setSlot s k x).strSpares = s.strSpares := rfl
@[simp] theorem setSlot_lastCtx (k : Nat) (x : Slot) : (setSlot s k x).lastCtx = s.lastCtx := rfl
@[simp] theorem setSlot_store (k : Nat) (x : Slot) : (setSlot s k x).store = s.store := rfl
@[simp] theorem setSlot_gather (k : Nat) (x : Slot) : (setSlot s k x).gather = s.gather := rfl
@[simp] theorem setSlot_arr (k : Nat) (x : Slot) : (setSlot s k x).arr = s.arr := rfl
@[simp] theorem setSlot_drn (k : Nat) (x : Slot) : (setSlot s k x).drn = s.drn := rfl
@[simp] theorem setSlot_vec (k : Nat) (x : Slot) : (setSlot s k x).vec = s.vec := rfl
@[simp] theorem setSlot_rs (k : Nat) (x : Slot) : (setSlot s k x).rs = s.rs := rfl
@[simp] theorem setSlot_chn (k : Nat) (x : Slot) : (setSlot s k x).chn = s.chn := rfl
@[simp] theorem setSlot_chnFree (k : Nat) (x : Slot) : (setSlot s k x).chnFree = s.chnFree := rfl
@[simp] theorem setSlot_chnCred (k : Nat) (x : Slot) : (setSlot s k x).chnCred = s.chnCred := rfl
@[simp] theorem setSlot_mc (k : Nat) (x : Slot) : (setSlot s k x).mc = s.mc := rfl
@[simp] theorem setSlot_repQ (k : Nat) (x : Slot) : (setSlot s k x).repQ = s.repQ := rfl
@[simp] theorem setSlot_engSeq (k : Nat) (x : Slot) : (setSlot s k x).engSeq = s.engSeq := rfl
@[simp] theorem setSlot_perf (k : Nat) (x : Slot) : (setSlot s k x).perf = s.perf := rfl
@[simp] theorem setSlot_mon (k : Nat) (x : Slot) : (setSlot s k x).mon = s.mon := rfl
@[simp] theorem setSlot_mods (k : Nat) (x : Slot) : (setSlot s k x).mods = s.mods := rfl
@[simp] theorem setSlot_loop (k : Nat) (x : Slot) : (setSlot s k x).loop = s.loop := rfl
@[simp] theorem setSlot_pier (k : Nat) (x : Slot) : (setSlot s k x).pier = s.pier := rfl
@[simp] theorem setSlot_abut (k : Nat) (x : Slot) : (setSlot s k x).abut = s.abut := rfl
@[simp] theorem setSlot_net (k : Nat) (x : Slot) : (setSlot s k x).net = s.net := rfl
@[simp] theorem setSlot_mem (k : Nat) (x : Slot) : (setSlot s k x).mem = s.mem := rfl
@[simp] theorem setSlot_memBad (k : Nat) (x : Slot) : (setSlot s k x).memBad = s.memBad := rfl
@[simp] theorem setSlot_memGone (k : Nat) (x : Slot) : (setSlot s k x).memGone = s.memGone := rfl
@[simp] theorem setSlot_hw (k : Nat) (x : Slot) : (setSlot s k x).hw = s.hw := rfl

/-! ## setEnt -/

@[simp] theorem setEnt_pending (r w : Nat) (e : Entry) : (setEnt s r w e).pending = s.pending := rfl
@[simp] theorem setEnt_free (r w : Nat) (e : Entry) : (setEnt s r w e).free = s.free := rfl
@[simp] theorem setEnt_now (r w : Nat) (e : Entry) : (setEnt s r w e).now = s.now := rfl
@[simp] theorem setEnt_nextUid (r w : Nat) (e : Entry) : (setEnt s r w e).nextUid = s.nextUid := rfl
@[simp] theorem setEnt_pins (r w : Nat) (e : Entry) : (setEnt s r w e).pins = s.pins := rfl
@[simp] theorem setEnt_tap (r w : Nat) (e : Entry) : (setEnt s r w e).tap = s.tap := rfl
@[simp] theorem setEnt_fuse (r w : Nat) (e : Entry) : (setEnt s r w e).fuse = s.fuse := rfl
@[simp] theorem setEnt_eng (r w : Nat) (e : Entry) : (setEnt s r w e).eng = s.eng := rfl
@[simp] theorem setEnt_beat (r w : Nat) (e : Entry) : (setEnt s r w e).beat = s.beat := rfl
@[simp] theorem setEnt_lease (r w : Nat) (e : Entry) : (setEnt s r w e).lease = s.lease := rfl
@[simp] theorem setEnt_map (r w : Nat) (e : Entry) : (setEnt s r w e).map = s.map := rfl
@[simp] theorem setEnt_thr (r w : Nat) (e : Entry) : (setEnt s r w e).thr = s.thr := rfl
@[simp] theorem setEnt_core (r w : Nat) (e : Entry) : (setEnt s r w e).core = s.core := rfl
@[simp] theorem setEnt_rrCore (r w : Nat) (e : Entry) : (setEnt s r w e).rrCore = s.rrCore := rfl
@[simp] theorem setEnt_xlate (r w : Nat) (e : Entry) : (setEnt s r w e).xlate = s.xlate := rfl
@[simp] theorem setEnt_cnt (r w : Nat) (e : Entry) : (setEnt s r w e).cnt = s.cnt := rfl
@[simp] theorem setEnt_instrs (r w : Nat) (e : Entry) : (setEnt s r w e).instrs = s.instrs := rfl
@[simp] theorem setEnt_dcache (r w : Nat) (e : Entry) : (setEnt s r w e).dcache = s.dcache := rfl
@[simp] theorem setEnt_ftab (r w : Nat) (e : Entry) : (setEnt s r w e).ftab = s.ftab := rfl
@[simp] theorem setEnt_str (r w : Nat) (e : Entry) : (setEnt s r w e).str = s.str := rfl
@[simp] theorem setEnt_strSpares (r w : Nat) (e : Entry) : (setEnt s r w e).strSpares = s.strSpares := rfl
@[simp] theorem setEnt_lastCtx (r w : Nat) (e : Entry) : (setEnt s r w e).lastCtx = s.lastCtx := rfl
@[simp] theorem setEnt_store (r w : Nat) (e : Entry) : (setEnt s r w e).store = s.store := rfl
@[simp] theorem setEnt_gather (r w : Nat) (e : Entry) : (setEnt s r w e).gather = s.gather := rfl
@[simp] theorem setEnt_arr (r w : Nat) (e : Entry) : (setEnt s r w e).arr = s.arr := rfl
@[simp] theorem setEnt_drn (r w : Nat) (e : Entry) : (setEnt s r w e).drn = s.drn := rfl
@[simp] theorem setEnt_vec (r w : Nat) (e : Entry) : (setEnt s r w e).vec = s.vec := rfl
@[simp] theorem setEnt_rs (r w : Nat) (e : Entry) : (setEnt s r w e).rs = s.rs := rfl
@[simp] theorem setEnt_chn (r w : Nat) (e : Entry) : (setEnt s r w e).chn = s.chn := rfl
@[simp] theorem setEnt_chnFree (r w : Nat) (e : Entry) : (setEnt s r w e).chnFree = s.chnFree := rfl
@[simp] theorem setEnt_chnCred (r w : Nat) (e : Entry) : (setEnt s r w e).chnCred = s.chnCred := rfl
@[simp] theorem setEnt_mc (r w : Nat) (e : Entry) : (setEnt s r w e).mc = s.mc := rfl
@[simp] theorem setEnt_repQ (r w : Nat) (e : Entry) : (setEnt s r w e).repQ = s.repQ := rfl
@[simp] theorem setEnt_engSeq (r w : Nat) (e : Entry) : (setEnt s r w e).engSeq = s.engSeq := rfl
@[simp] theorem setEnt_perf (r w : Nat) (e : Entry) : (setEnt s r w e).perf = s.perf := rfl
@[simp] theorem setEnt_mon (r w : Nat) (e : Entry) : (setEnt s r w e).mon = s.mon := rfl
@[simp] theorem setEnt_mods (r w : Nat) (e : Entry) : (setEnt s r w e).mods = s.mods := rfl
@[simp] theorem setEnt_loop (r w : Nat) (e : Entry) : (setEnt s r w e).loop = s.loop := rfl
@[simp] theorem setEnt_pier (r w : Nat) (e : Entry) : (setEnt s r w e).pier = s.pier := rfl
@[simp] theorem setEnt_abut (r w : Nat) (e : Entry) : (setEnt s r w e).abut = s.abut := rfl
@[simp] theorem setEnt_net (r w : Nat) (e : Entry) : (setEnt s r w e).net = s.net := rfl
@[simp] theorem setEnt_mem (r w : Nat) (e : Entry) : (setEnt s r w e).mem = s.mem := rfl
@[simp] theorem setEnt_memBad (r w : Nat) (e : Entry) : (setEnt s r w e).memBad = s.memBad := rfl
@[simp] theorem setEnt_memGone (r w : Nat) (e : Entry) : (setEnt s r w e).memGone = s.memGone := rfl
@[simp] theorem setEnt_hw (r w : Nat) (e : Entry) : (setEnt s r w e).hw = s.hw := rfl

@[simp] theorem setRt_lease_shadow (l : Nat) (x : LeaseRt) : (setRt s l x).lease.shadow = s.lease.shadow := rfl
@[simp] theorem setRt_lease_active (l : Nat) (x : LeaseRt) : (setRt s l x).lease.active = s.lease.active := rfl
@[simp] theorem setRt_lease_written (l : Nat) (x : LeaseRt) : (setRt s l x).lease.written = s.lease.written := rfl
@[simp] theorem setRt_lease_gen (l : Nat) (x : LeaseRt) : (setRt s l x).lease.gen = s.lease.gen := rfl
@[simp] theorem setRt_lease_ctl (l : Nat) (x : LeaseRt) : (setRt s l x).lease.ctl = s.lease.ctl := rfl
@[simp] theorem setRt_lease_served (l : Nat) (x : LeaseRt) : (setRt s l x).lease.served = s.lease.served := rfl
@[simp] theorem setRt_lease_meterQ (l : Nat) (x : LeaseRt) : (setRt s l x).lease.meterQ = s.lease.meterQ := rfl
@[simp] theorem setCtl_lease_shadow (l : Nat) (x : LeaseCtl) : (setCtl s l x).lease.shadow = s.lease.shadow := rfl
@[simp] theorem setCtl_lease_active (l : Nat) (x : LeaseCtl) : (setCtl s l x).lease.active = s.lease.active := rfl
@[simp] theorem setCtl_lease_written (l : Nat) (x : LeaseCtl) : (setCtl s l x).lease.written = s.lease.written := rfl
@[simp] theorem setCtl_lease_gen (l : Nat) (x : LeaseCtl) : (setCtl s l x).lease.gen = s.lease.gen := rfl
@[simp] theorem setCtl_lease_rt (l : Nat) (x : LeaseCtl) : (setCtl s l x).lease.rt = s.lease.rt := rfl
@[simp] theorem setCtl_lease_served (l : Nat) (x : LeaseCtl) : (setCtl s l x).lease.served = s.lease.served := rfl
@[simp] theorem setCtl_lease_meterQ (l : Nat) (x : LeaseCtl) : (setCtl s l x).lease.meterQ = s.lease.meterQ := rfl

@[simp] theorem setSlot_gir_ent (k : Nat) (x : Slot) : (setSlot s k x).gir.ent = s.gir.ent := rfl
@[simp] theorem setSlot_gir_segFree (k : Nat) (x : Slot) : (setSlot s k x).gir.segFree = s.gir.segFree := rfl
@[simp] theorem setSlot_gir_scrubQ (k : Nat) (x : Slot) : (setSlot s k x).gir.scrubQ = s.gir.scrubQ := rfl
@[simp] theorem setSlot_gir_mover (k : Nat) (x : Slot) : (setSlot s k x).gir.mover = s.gir.mover := rfl
@[simp] theorem setSlot_gir_peekAddr (k : Nat) (x : Slot) : (setSlot s k x).gir.peekAddr = s.gir.peekAddr := rfl
@[simp] theorem setSlot_gir_peekU (k : Nat) (x : Slot) : (setSlot s k x).gir.peekU = s.gir.peekU := rfl
@[simp] theorem setSlot_gir_peekData (k : Nat) (x : Slot) : (setSlot s k x).gir.peekData = s.gir.peekData := rfl
@[simp] theorem setSlot_gir_peekBusy (k : Nat) (x : Slot) : (setSlot s k x).gir.peekBusy = s.gir.peekBusy := rfl
@[simp] theorem setSlot_gir_peekDone (k : Nat) (x : Slot) : (setSlot s k x).gir.peekDone = s.gir.peekDone := rfl
@[simp] theorem setSlot_gir_peekDenied (k : Nat) (x : Slot) : (setSlot s k x).gir.peekDenied = s.gir.peekDenied := rfl
@[simp] theorem setSlot_gir_peekNotRes (k : Nat) (x : Slot) : (setSlot s k x).gir.peekNotRes = s.gir.peekNotRes := rfl
@[simp] theorem setSlot_gir_bankBusy (k : Nat) (x : Slot) : (setSlot s k x).gir.bankBusy = s.gir.bankBusy := rfl
@[simp] theorem setSlot_gir_touchClk (k : Nat) (x : Slot) : (setSlot s k x).gir.touchClk = s.gir.touchClk := rfl
@[simp] theorem setEnt_gir_slots (r w : Nat) (e : Entry) : (setEnt s r w e).gir.slots = s.gir.slots := rfl
@[simp] theorem setEnt_gir_segFree (r w : Nat) (e : Entry) : (setEnt s r w e).gir.segFree = s.gir.segFree := rfl
@[simp] theorem setEnt_gir_scrubQ (r w : Nat) (e : Entry) : (setEnt s r w e).gir.scrubQ = s.gir.scrubQ := rfl
@[simp] theorem setEnt_gir_mover (r w : Nat) (e : Entry) : (setEnt s r w e).gir.mover = s.gir.mover := rfl
@[simp] theorem setEnt_gir_peekAddr (r w : Nat) (e : Entry) : (setEnt s r w e).gir.peekAddr = s.gir.peekAddr := rfl
@[simp] theorem setEnt_gir_peekU (r w : Nat) (e : Entry) : (setEnt s r w e).gir.peekU = s.gir.peekU := rfl
@[simp] theorem setEnt_gir_peekData (r w : Nat) (e : Entry) : (setEnt s r w e).gir.peekData = s.gir.peekData := rfl
@[simp] theorem setEnt_gir_peekBusy (r w : Nat) (e : Entry) : (setEnt s r w e).gir.peekBusy = s.gir.peekBusy := rfl
@[simp] theorem setEnt_gir_peekDone (r w : Nat) (e : Entry) : (setEnt s r w e).gir.peekDone = s.gir.peekDone := rfl
@[simp] theorem setEnt_gir_peekDenied (r w : Nat) (e : Entry) : (setEnt s r w e).gir.peekDenied = s.gir.peekDenied := rfl
@[simp] theorem setEnt_gir_peekNotRes (r w : Nat) (e : Entry) : (setEnt s r w e).gir.peekNotRes = s.gir.peekNotRes := rfl
@[simp] theorem setEnt_gir_bankBusy (r w : Nat) (e : Entry) : (setEnt s r w e).gir.bankBusy = s.gir.bankBusy := rfl
@[simp] theorem setEnt_gir_touchClk (r w : Nat) (e : Entry) : (setEnt s r w e).gir.touchClk = s.gir.touchClk := rfl

/-! ## The getters -/

@[simp] theorem getCore_setThr (t : ThreadId) (x : Thread) (i : Nat) : getCore (setThr s t x) i = getCore s i := rfl
@[simp] theorem getRt_setThr (t : ThreadId) (x : Thread) (i : Nat) : getRt (setThr s t x) i = getRt s i := rfl
@[simp] theorem getCtl_setThr (t : ThreadId) (x : Thread) (i : Nat) : getCtl (setThr s t x) i = getCtl s i := rfl
@[simp] theorem getCnt_setThr (t : ThreadId) (x : Thread) (i : Nat) : getCnt (setThr s t x) i = getCnt s i := rfl
@[simp] theorem getStr_setThr (t : ThreadId) (x : Thread) (i : Nat) : getStr (setThr s t x) i = getStr s i := rfl
@[simp] theorem getSlot_setThr (t : ThreadId) (x : Thread) (i : Nat) : getSlot (setThr s t x) i = getSlot s i := rfl
@[simp] theorem getEnt_setThr (t : ThreadId) (x : Thread) (i j : Nat) : getEnt (setThr s t x) i j = getEnt s i j := rfl
@[simp] theorem getThr_setCore (c : Nat) (x : Core) (i : ThreadId) : getThr (setCore s c x) i = getThr s i := rfl
@[simp] theorem getRt_setCore (c : Nat) (x : Core) (i : Nat) : getRt (setCore s c x) i = getRt s i := rfl
@[simp] theorem getCtl_setCore (c : Nat) (x : Core) (i : Nat) : getCtl (setCore s c x) i = getCtl s i := rfl
@[simp] theorem getCnt_setCore (c : Nat) (x : Core) (i : Nat) : getCnt (setCore s c x) i = getCnt s i := rfl
@[simp] theorem getStr_setCore (c : Nat) (x : Core) (i : Nat) : getStr (setCore s c x) i = getStr s i := rfl
@[simp] theorem getSlot_setCore (c : Nat) (x : Core) (i : Nat) : getSlot (setCore s c x) i = getSlot s i := rfl
@[simp] theorem getEnt_setCore (c : Nat) (x : Core) (i j : Nat) : getEnt (setCore s c x) i j = getEnt s i j := rfl
@[simp] theorem getThr_setRt (l : Nat) (x : LeaseRt) (i : ThreadId) : getThr (setRt s l x) i = getThr s i := rfl
@[simp] theorem getCore_setRt (l : Nat) (x : LeaseRt) (i : Nat) : getCore (setRt s l x) i = getCore s i := rfl
@[simp] theorem getCtl_setRt (l : Nat) (x : LeaseRt) (i : Nat) : getCtl (setRt s l x) i = getCtl s i := rfl
@[simp] theorem getCnt_setRt (l : Nat) (x : LeaseRt) (i : Nat) : getCnt (setRt s l x) i = getCnt s i := rfl
@[simp] theorem getStr_setRt (l : Nat) (x : LeaseRt) (i : Nat) : getStr (setRt s l x) i = getStr s i := rfl
@[simp] theorem getSlot_setRt (l : Nat) (x : LeaseRt) (i : Nat) : getSlot (setRt s l x) i = getSlot s i := rfl
@[simp] theorem getEnt_setRt (l : Nat) (x : LeaseRt) (i j : Nat) : getEnt (setRt s l x) i j = getEnt s i j := rfl
@[simp] theorem getThr_setCtl (l : Nat) (x : LeaseCtl) (i : ThreadId) : getThr (setCtl s l x) i = getThr s i := rfl
@[simp] theorem getCore_setCtl (l : Nat) (x : LeaseCtl) (i : Nat) : getCore (setCtl s l x) i = getCore s i := rfl
@[simp] theorem getRt_setCtl (l : Nat) (x : LeaseCtl) (i : Nat) : getRt (setCtl s l x) i = getRt s i := rfl
@[simp] theorem getCnt_setCtl (l : Nat) (x : LeaseCtl) (i : Nat) : getCnt (setCtl s l x) i = getCnt s i := rfl
@[simp] theorem getStr_setCtl (l : Nat) (x : LeaseCtl) (i : Nat) : getStr (setCtl s l x) i = getStr s i := rfl
@[simp] theorem getSlot_setCtl (l : Nat) (x : LeaseCtl) (i : Nat) : getSlot (setCtl s l x) i = getSlot s i := rfl
@[simp] theorem getEnt_setCtl (l : Nat) (x : LeaseCtl) (i j : Nat) : getEnt (setCtl s l x) i j = getEnt s i j := rfl
@[simp] theorem getThr_setCnt (n : Nat) (x : Counter) (i : ThreadId) : getThr (setCnt s n x) i = getThr s i := rfl
@[simp] theorem getCore_setCnt (n : Nat) (x : Counter) (i : Nat) : getCore (setCnt s n x) i = getCore s i := rfl
@[simp] theorem getRt_setCnt (n : Nat) (x : Counter) (i : Nat) : getRt (setCnt s n x) i = getRt s i := rfl
@[simp] theorem getCtl_setCnt (n : Nat) (x : Counter) (i : Nat) : getCtl (setCnt s n x) i = getCtl s i := rfl
@[simp] theorem getStr_setCnt (n : Nat) (x : Counter) (i : Nat) : getStr (setCnt s n x) i = getStr s i := rfl
@[simp] theorem getSlot_setCnt (n : Nat) (x : Counter) (i : Nat) : getSlot (setCnt s n x) i = getSlot s i := rfl
@[simp] theorem getEnt_setCnt (n : Nat) (x : Counter) (i j : Nat) : getEnt (setCnt s n x) i j = getEnt s i j := rfl
@[simp] theorem getThr_setStr (c : Nat) (x : Stream) (i : ThreadId) : getThr (setStr s c x) i = getThr s i := rfl
@[simp] theorem getCore_setStr (c : Nat) (x : Stream) (i : Nat) : getCore (setStr s c x) i = getCore s i := rfl
@[simp] theorem getRt_setStr (c : Nat) (x : Stream) (i : Nat) : getRt (setStr s c x) i = getRt s i := rfl
@[simp] theorem getCtl_setStr (c : Nat) (x : Stream) (i : Nat) : getCtl (setStr s c x) i = getCtl s i := rfl
@[simp] theorem getCnt_setStr (c : Nat) (x : Stream) (i : Nat) : getCnt (setStr s c x) i = getCnt s i := rfl
@[simp] theorem getSlot_setStr (c : Nat) (x : Stream) (i : Nat) : getSlot (setStr s c x) i = getSlot s i := rfl
@[simp] theorem getEnt_setStr (c : Nat) (x : Stream) (i j : Nat) : getEnt (setStr s c x) i j = getEnt s i j := rfl
@[simp] theorem getThr_setSlot (k : Nat) (x : Slot) (i : ThreadId) : getThr (setSlot s k x) i = getThr s i := rfl
@[simp] theorem getCore_setSlot (k : Nat) (x : Slot) (i : Nat) : getCore (setSlot s k x) i = getCore s i := rfl
@[simp] theorem getRt_setSlot (k : Nat) (x : Slot) (i : Nat) : getRt (setSlot s k x) i = getRt s i := rfl
@[simp] theorem getCtl_setSlot (k : Nat) (x : Slot) (i : Nat) : getCtl (setSlot s k x) i = getCtl s i := rfl
@[simp] theorem getCnt_setSlot (k : Nat) (x : Slot) (i : Nat) : getCnt (setSlot s k x) i = getCnt s i := rfl
@[simp] theorem getStr_setSlot (k : Nat) (x : Slot) (i : Nat) : getStr (setSlot s k x) i = getStr s i := rfl
@[simp] theorem getEnt_setSlot (k : Nat) (x : Slot) (i j : Nat) : getEnt (setSlot s k x) i j = getEnt s i j := rfl
@[simp] theorem getThr_setEnt (r w : Nat) (e : Entry) (i : ThreadId) : getThr (setEnt s r w e) i = getThr s i := rfl
@[simp] theorem getCore_setEnt (r w : Nat) (e : Entry) (i : Nat) : getCore (setEnt s r w e) i = getCore s i := rfl
@[simp] theorem getRt_setEnt (r w : Nat) (e : Entry) (i : Nat) : getRt (setEnt s r w e) i = getRt s i := rfl
@[simp] theorem getCtl_setEnt (r w : Nat) (e : Entry) (i : Nat) : getCtl (setEnt s r w e) i = getCtl s i := rfl
@[simp] theorem getCnt_setEnt (r w : Nat) (e : Entry) (i : Nat) : getCnt (setEnt s r w e) i = getCnt s i := rfl
@[simp] theorem getStr_setEnt (r w : Nat) (e : Entry) (i : Nat) : getStr (setEnt s r w e) i = getStr s i := rfl
@[simp] theorem getSlot_setEnt (r w : Nat) (e : Entry) (i : Nat) : getSlot (setEnt s r w e) i = getSlot s i := rfl

theorem thrKey_inj (t k : ThreadId) : thrKey t = thrKey k ↔ t = k := by
  obtain ⟨c, n⟩ := t
  obtain ⟨c2, n2⟩ := k
  simp only [thrKey, ThreadId.mk.injEq, Fin.ext_iff]
  omega

@[simp] theorem getThr_setThr (t k : ThreadId) (x : Thread) : getThr (setThr s t x) k = if k = t then x else getThr s k := by
  simp [getThr, setThr, thrKey_inj]
@[simp] theorem getCore_setCore (k j : Nat) (x : Core) : getCore (setCore s k x) j = if j = k then x else getCore s j := by
  simp [getCore, setCore]
@[simp] theorem getRt_setRt (k j : Nat) (x : LeaseRt) : getRt (setRt s k x) j = if j = k then x else getRt s j := by
  simp [getRt, setRt]
@[simp] theorem getCtl_setCtl (k j : Nat) (x : LeaseCtl) : getCtl (setCtl s k x) j = if j = k then x else getCtl s j := by
  simp [getCtl, setCtl]
@[simp] theorem getCnt_setCnt (k j : Nat) (x : Counter) : getCnt (setCnt s k x) j = if j = k then x else getCnt s j := by
  simp [getCnt, setCnt]
@[simp] theorem getStr_setStr (k j : Nat) (x : Stream) : getStr (setStr s k x) j = if j = k then x else getStr s j := by
  simp [getStr, setStr]
@[simp] theorem getSlot_setSlot (k j : Nat) (x : Slot) : getSlot (setSlot s k x) j = if j = k then x else getSlot s j := by
  simp [getSlot, setSlot]
@[simp] theorem getEnt_setEnt (r w i j : Nat) (e : Entry) :
    getEnt (setEnt s r w e) i j = if 32768 * i + j = 32768 * r + w then e else getEnt s i j := by
  simp [getEnt, setEnt]

end Sys2Proof.Machine
end

