-- ==== Sys2Proof/Laws/Ops.lean ====
section
/-! SUPPORT. What the shared operations can do: reports and events leave everything else alone, a fetch changes only how its
thread stands, and device memory reads back what was written. -/

namespace Sys2Proof.Machine

/-! ## Reports and events -/

theorem ReportsOnly.refl (s : State) : ReportsOnly s s := ⟨rfl, fun _ => rfl⟩

theorem ReportsOnly.trans {s u w : State} (h : ReportsOnly s u) (k : ReportsOnly u w) : ReportsOnly s w := by
  obtain ⟨h1, h2⟩ := h
  obtain ⟨k1, k2⟩ := k
  refine ⟨?_, fun l => ?_⟩
  · rw [← h1, ← k1]
  · rw [← h2 l, ← k2 l]

/-- Noting what the hardware has done to a register changes the note alone. -/
theorem setHw_only (s : State) (p : Part) (a v : Nat) : ReportsOnly s (setHw s p a v) := ⟨rfl, fun _ => rfl⟩

theorem hwAdd_only (s : State) (p : Part) (a v : Nat) : ReportsOnly s (hwAdd s p a v) := setHw_only ..

theorem hwSet_only (s : State) (p : Part) (a v : Nat) : ReportsOnly s (hwSet s p a v) := setHw_only ..

theorem sampleMiss_only (s : State) (n : Nat) : ReportsOnly s (sampleMiss s n) := ⟨rfl, fun _ => rfl⟩

theorem queueReport_only (s : State) (r : Report) : ReportsOnly s (queueReport s r) := by
  unfold queueReport
  split
  · exact ⟨rfl, fun _ => rfl⟩
  · have h : ReportsOnly s (hwAdd { s with eng := { s.eng with faultLost := satAdd32 s.eng.faultLost 1 } } .span 0x40 1) :=
      ⟨rfl, fun _ => rfl⟩
    dsimp only
    split
    · exact h
    · exact h.trans (sampleMiss_only _ _)

theorem setRt_repSeq_only (s : State) (l : Nat) (n : Half) :
    ReportsOnly s (setRt s l { getRt s l with repSeq := n }) := by
  refine ⟨rfl, fun k => ?_⟩
  by_cases h : k = l
  · subst h; simp
  · simp [h]

theorem leaseReport_only (s : State) (l : Nat) (cause : Byte) (th : Option ThreadId) (i h : Bool) (pc : Word) (w : Half)
    (d0 d1 : Word) (n : Option Nat) : ReportsOnly s (leaseReport s l cause th i h pc w d0 d1 n) := by
  unfold leaseReport
  exact (setRt_repSeq_only s l _).trans (queueReport_only _ _)

theorem engSeq_only (s : State) (n : Half) : ReportsOnly s { s with engSeq := n } := ⟨rfl, fun _ => rfl⟩

theorem engineReport_only (s : State) (cause : Byte) (d0 d1 : Word) : ReportsOnly s (engineReport s cause d0 d1) := by
  unfold engineReport
  exact (engSeq_only s _).trans (queueReport_only _ _)

theorem perf_only (s : State) (p : PerfUnit) : ReportsOnly s { s with perf := p } := ⟨rfl, fun _ => rfl⟩

theorem sendSample_only (s : State) (n : Nat) (src : SampleSrc) : ReportsOnly s (sendSample s n src) := by
  unfold sendSample
  dsimp only
  split
  · exact sampleMiss_only s n
  · split
    · exact leaseReport_only ..
    · exact (engSeq_only s _).trans (queueReport_only _ _)

/-- A performance counter's wrap, before any sample. -/
theorem perfWrap_only (s : State) (a v b w : Nat) (p : PerfUnit) :
    ReportsOnly s (hwSet { hwAdd s .span a v with perf := p } .span b w) :=
  (hwAdd_only s .span a v).trans ((perf_only _ p).trans (hwSet_only _ .span b w))

theorem perfAdd_only (s : State) (n inc : Nat) (src : SampleSrc) : ReportsOnly s (perfAdd s n inc src) := by
  unfold perfAdd
  dsimp only
  split
  · exact (hwAdd_only s _ _ _).trans (perf_only _ _)
  · split
    · refine ReportsOnly.trans ?_ (sendSample_only _ n src)
      exact perfWrap_only ..
    · exact perfWrap_only ..

/-- A fold whose every step changes reports and counts only. -/
theorem foldl_only {β : Type} (f : State → β → State) (h : ∀ s b, ReportsOnly s (f s b)) (l : List β) (s : State) :
    ReportsOnly s (l.foldl f s) := by
  induction l generalizing s with
  | nil => exact ReportsOnly.refl s
  | cons b l ih => exact (h s b).trans (ih (f s b))

/-- Counting an event changes nothing but counts and reports. -/
theorem event_only (s : State) (ev inc : Nat) (src : SampleSrc) : ReportsOnly s (event s ev inc src) := by
  unfold event
  split
  · exact ReportsOnly.refl s
  · refine foldl_only _ (fun s b => ?_) _ s
    split
    · exact perfAdd_only ..
    · exact ReportsOnly.refl s

/-! ## Field by field -/

theorem ReportsOnly.pending {s u : State} (h : ReportsOnly s u) : u.pending = s.pending := (congrArg State.pending h.1 :)
theorem ReportsOnly.free {s u : State} (h : ReportsOnly s u) : u.free = s.free := (congrArg State.free h.1 :)
theorem ReportsOnly.now {s u : State} (h : ReportsOnly s u) : u.now = s.now := (congrArg State.now h.1 :)
theorem ReportsOnly.nextUid {s u : State} (h : ReportsOnly s u) : u.nextUid = s.nextUid := (congrArg State.nextUid h.1 :)
theorem ReportsOnly.pins {s u : State} (h : ReportsOnly s u) : u.pins = s.pins := (congrArg State.pins h.1 :)
theorem ReportsOnly.tap {s u : State} (h : ReportsOnly s u) : u.tap = s.tap := (congrArg State.tap h.1 :)
theorem ReportsOnly.fuse {s u : State} (h : ReportsOnly s u) : u.fuse = s.fuse := (congrArg State.fuse h.1 :)
theorem ReportsOnly.beat {s u : State} (h : ReportsOnly s u) : u.beat = s.beat := (congrArg State.beat h.1 :)
theorem ReportsOnly.map {s u : State} (h : ReportsOnly s u) : u.map = s.map := (congrArg State.map h.1 :)
theorem ReportsOnly.thr {s u : State} (h : ReportsOnly s u) : u.thr = s.thr := (congrArg State.thr h.1 :)
theorem ReportsOnly.core {s u : State} (h : ReportsOnly s u) : u.core = s.core := (congrArg State.core h.1 :)
theorem ReportsOnly.rrCore {s u : State} (h : ReportsOnly s u) : u.rrCore = s.rrCore := (congrArg State.rrCore h.1 :)
theorem ReportsOnly.xlate {s u : State} (h : ReportsOnly s u) : u.xlate = s.xlate := (congrArg State.xlate h.1 :)
theorem ReportsOnly.cnt {s u : State} (h : ReportsOnly s u) : u.cnt = s.cnt := (congrArg State.cnt h.1 :)
theorem ReportsOnly.instrs {s u : State} (h : ReportsOnly s u) : u.instrs = s.instrs := (congrArg State.instrs h.1 :)
theorem ReportsOnly.dcache {s u : State} (h : ReportsOnly s u) : u.dcache = s.dcache := (congrArg State.dcache h.1 :)
theorem ReportsOnly.ftab {s u : State} (h : ReportsOnly s u) : u.ftab = s.ftab := (congrArg State.ftab h.1 :)
theorem ReportsOnly.str {s u : State} (h : ReportsOnly s u) : u.str = s.str := (congrArg State.str h.1 :)
theorem ReportsOnly.strSpares {s u : State} (h : ReportsOnly s u) : u.strSpares = s.strSpares := (congrArg State.strSpares h.1 :)
theorem ReportsOnly.lastCtx {s u : State} (h : ReportsOnly s u) : u.lastCtx = s.lastCtx := (congrArg State.lastCtx h.1 :)
theorem ReportsOnly.store {s u : State} (h : ReportsOnly s u) : u.store = s.store := (congrArg State.store h.1 :)
theorem ReportsOnly.gather {s u : State} (h : ReportsOnly s u) : u.gather = s.gather := (congrArg State.gather h.1 :)
theorem ReportsOnly.arr {s u : State} (h : ReportsOnly s u) : u.arr = s.arr := (congrArg State.arr h.1 :)
theorem ReportsOnly.gir {s u : State} (h : ReportsOnly s u) : u.gir = s.gir := (congrArg State.gir h.1 :)
theorem ReportsOnly.drn {s u : State} (h : ReportsOnly s u) : u.drn = s.drn := (congrArg State.drn h.1 :)
theorem ReportsOnly.vec {s u : State} (h : ReportsOnly s u) : u.vec = s.vec := (congrArg State.vec h.1 :)
theorem ReportsOnly.rs {s u : State} (h : ReportsOnly s u) : u.rs = s.rs := (congrArg State.rs h.1 :)
theorem ReportsOnly.chn {s u : State} (h : ReportsOnly s u) : u.chn = s.chn := (congrArg State.chn h.1 :)
theorem ReportsOnly.chnFree {s u : State} (h : ReportsOnly s u) : u.chnFree = s.chnFree := (congrArg State.chnFree h.1 :)
theorem ReportsOnly.chnCred {s u : State} (h : ReportsOnly s u) : u.chnCred = s.chnCred := (congrArg State.chnCred h.1 :)
theorem ReportsOnly.mc {s u : State} (h : ReportsOnly s u) : u.mc = s.mc := (congrArg State.mc h.1 :)
theorem ReportsOnly.mon {s u : State} (h : ReportsOnly s u) : u.mon = s.mon := (congrArg State.mon h.1 :)
theorem ReportsOnly.mods {s u : State} (h : ReportsOnly s u) : u.mods = s.mods := (congrArg State.mods h.1 :)
theorem ReportsOnly.loop {s u : State} (h : ReportsOnly s u) : u.loop = s.loop := (congrArg State.loop h.1 :)
theorem ReportsOnly.pier {s u : State} (h : ReportsOnly s u) : u.pier = s.pier := (congrArg State.pier h.1 :)
theorem ReportsOnly.abut {s u : State} (h : ReportsOnly s u) : u.abut = s.abut := (congrArg State.abut h.1 :)
theorem ReportsOnly.net {s u : State} (h : ReportsOnly s u) : u.net = s.net := (congrArg State.net h.1 :)
theorem ReportsOnly.mem {s u : State} (h : ReportsOnly s u) : u.mem = s.mem := (congrArg State.mem h.1 :)
theorem ReportsOnly.memBad {s u : State} (h : ReportsOnly s u) : u.memBad = s.memBad := (congrArg State.memBad h.1 :)
theorem ReportsOnly.memGone {s u : State} (h : ReportsOnly s u) : u.memGone = s.memGone := (congrArg State.memGone h.1 :)
theorem ReportsOnly.lease_shadow {s u : State} (h : ReportsOnly s u) : u.lease.shadow = s.lease.shadow :=
  (congrArg (fun x : State => x.lease.shadow) h.1 :)
theorem ReportsOnly.lease_active {s u : State} (h : ReportsOnly s u) : u.lease.active = s.lease.active :=
  (congrArg (fun x : State => x.lease.active) h.1 :)
theorem ReportsOnly.lease_written {s u : State} (h : ReportsOnly s u) : u.lease.written = s.lease.written :=
  (congrArg (fun x : State => x.lease.written) h.1 :)
theorem ReportsOnly.lease_gen {s u : State} (h : ReportsOnly s u) : u.lease.gen = s.lease.gen :=
  (congrArg (fun x : State => x.lease.gen) h.1 :)
theorem ReportsOnly.lease_ctl {s u : State} (h : ReportsOnly s u) : u.lease.ctl = s.lease.ctl :=
  (congrArg (fun x : State => x.lease.ctl) h.1 :)
theorem ReportsOnly.lease_served {s u : State} (h : ReportsOnly s u) : u.lease.served = s.lease.served :=
  (congrArg (fun x : State => x.lease.served) h.1 :)
theorem ReportsOnly.lease_meterQ {s u : State} (h : ReportsOnly s u) : u.lease.meterQ = s.lease.meterQ :=
  (congrArg (fun x : State => x.lease.meterQ) h.1 :)
theorem ReportsOnly.eng_straps {s u : State} (h : ReportsOnly s u) : u.eng.straps = s.eng.straps :=
  (congrArg (fun x : State => x.eng.straps) h.1 :)
theorem ReportsOnly.eng_phase {s u : State} (h : ReportsOnly s u) : u.eng.phase = s.eng.phase :=
  (congrArg (fun x : State => x.eng.phase) h.1 :)
theorem ReportsOnly.eng_startFail {s u : State} (h : ReportsOnly s u) : u.eng.startFail = s.eng.startFail :=
  (congrArg (fun x : State => x.eng.startFail) h.1 :)
theorem ReportsOnly.eng_pierLinkFail {s u : State} (h : ReportsOnly s u) : u.eng.pierLinkFail = s.eng.pierLinkFail :=
  (congrArg (fun x : State => x.eng.pierLinkFail) h.1 :)
theorem ReportsOnly.eng_abutLinkFail {s u : State} (h : ReportsOnly s u) : u.eng.abutLinkFail = s.eng.abutLinkFail :=
  (congrArg (fun x : State => x.eng.abutLinkFail) h.1 :)
theorem ReportsOnly.eng_rowsExhausted {s u : State} (h : ReportsOnly s u) : u.eng.rowsExhausted = s.eng.rowsExhausted :=
  (congrArg (fun x : State => x.eng.rowsExhausted) h.1 :)
theorem ReportsOnly.eng_girderSparesOut {s u : State} (h : ReportsOnly s u) : u.eng.girderSparesOut = s.eng.girderSparesOut :=
  (congrArg (fun x : State => x.eng.girderSparesOut) h.1 :)
theorem ReportsOnly.eng_storeSparesOut {s u : State} (h : ReportsOnly s u) : u.eng.storeSparesOut = s.eng.storeSparesOut :=
  (congrArg (fun x : State => x.eng.storeSparesOut) h.1 :)
theorem ReportsOnly.eng_pierFail {s u : State} (h : ReportsOnly s u) : u.eng.pierFail = s.eng.pierFail :=
  (congrArg (fun x : State => x.eng.pierFail) h.1 :)
theorem ReportsOnly.eng_coresOk {s u : State} (h : ReportsOnly s u) : u.eng.coresOk = s.eng.coresOk :=
  (congrArg (fun x : State => x.eng.coresOk) h.1 :)
theorem ReportsOnly.eng_newRepairs {s u : State} (h : ReportsOnly s u) : u.eng.newRepairs = s.eng.newRepairs :=
  (congrArg (fun x : State => x.eng.newRepairs) h.1 :)
theorem ReportsOnly.eng_mode {s u : State} (h : ReportsOnly s u) : u.eng.mode = s.eng.mode :=
  (congrArg (fun x : State => x.eng.mode) h.1 :)
theorem ReportsOnly.eng_stopReason {s u : State} (h : ReportsOnly s u) : u.eng.stopReason = s.eng.stopReason :=
  (congrArg (fun x : State => x.eng.stopReason) h.1 :)
theorem ReportsOnly.eng_abandoned {s u : State} (h : ReportsOnly s u) : u.eng.abandoned = s.eng.abandoned :=
  (congrArg (fun x : State => x.eng.abandoned) h.1 :)
theorem ReportsOnly.eng_eventDest {s u : State} (h : ReportsOnly s u) : u.eng.eventDest = s.eng.eventDest :=
  (congrArg (fun x : State => x.eng.eventDest) h.1 :)
theorem ReportsOnly.eng_startDone {s u : State} (h : ReportsOnly s u) : u.eng.startDone = s.eng.startDone :=
  (congrArg (fun x : State => x.eng.startDone) h.1 :)
theorem ReportsOnly.eng_fuseDone {s u : State} (h : ReportsOnly s u) : u.eng.fuseDone = s.eng.fuseDone :=
  (congrArg (fun x : State => x.eng.fuseDone) h.1 :)
theorem ReportsOnly.eng_scrubDone {s u : State} (h : ReportsOnly s u) : u.eng.scrubDone = s.eng.scrubDone :=
  (congrArg (fun x : State => x.eng.scrubDone) h.1 :)
theorem ReportsOnly.eng_linksDone {s u : State} (h : ReportsOnly s u) : u.eng.linksDone = s.eng.linksDone :=
  (congrArg (fun x : State => x.eng.linksDone) h.1 :)
theorem ReportsOnly.eng_held {s u : State} (h : ReportsOnly s u) : u.eng.held = s.eng.held :=
  (congrArg (fun x : State => x.eng.held) h.1 :)
theorem ReportsOnly.eng_icInvBusy {s u : State} (h : ReportsOnly s u) : u.eng.icInvBusy = s.eng.icInvBusy :=
  (congrArg (fun x : State => x.eng.icInvBusy) h.1 :)
theorem ReportsOnly.eng_icInvLease {s u : State} (h : ReportsOnly s u) : u.eng.icInvLease = s.eng.icInvLease :=
  (congrArg (fun x : State => x.eng.icInvLease) h.1 :)
theorem ReportsOnly.eng_xlInvBusy {s u : State} (h : ReportsOnly s u) : u.eng.xlInvBusy = s.eng.xlInvBusy :=
  (congrArg (fun x : State => x.eng.xlInvBusy) h.1 :)
theorem ReportsOnly.eng_xlInvLease {s u : State} (h : ReportsOnly s u) : u.eng.xlInvLease = s.eng.xlInvLease :=
  (congrArg (fun x : State => x.eng.xlInvLease) h.1 :)
theorem ReportsOnly.eng_testFill {s u : State} (h : ReportsOnly s u) : u.eng.testFill = s.eng.testFill :=
  (congrArg (fun x : State => x.eng.testFill) h.1 :)
theorem ReportsOnly.eng_resetAt {s u : State} (h : ReportsOnly s u) : u.eng.resetAt = s.eng.resetAt :=
  (congrArg (fun x : State => x.eng.resetAt) h.1 :)

theorem ReportsOnly.getThr {s u : State} (h : ReportsOnly s u) (t : ThreadId) : getThr u t = getThr s t := by
  simp only [Machine.getThr, h.thr]
theorem ReportsOnly.getCore {s u : State} (h : ReportsOnly s u) (c : Nat) : getCore u c = getCore s c := by
  simp only [Machine.getCore, h.core]
theorem ReportsOnly.getCnt {s u : State} (h : ReportsOnly s u) (n : Nat) : getCnt u n = getCnt s n := by
  simp only [Machine.getCnt, h.cnt]
theorem ReportsOnly.getStr {s u : State} (h : ReportsOnly s u) (c : Nat) : getStr u c = getStr s c := by
  simp only [Machine.getStr, h.str]
theorem ReportsOnly.getSlot {s u : State} (h : ReportsOnly s u) (k : Nat) : getSlot u k = getSlot s k := by
  simp only [Machine.getSlot, h.gir]
theorem ReportsOnly.getCtl {s u : State} (h : ReportsOnly s u) (l : Nat) : getCtl u l = getCtl s l := by
  simp only [Machine.getCtl, h.lease_ctl]
theorem ReportsOnly.leaseWord {s u : State} (h : ReportsOnly s u) (l w : Nat) : leaseWord u l w = leaseWord s l w := by
  simp only [Machine.leaseWord, h.lease_active]
theorem ReportsOnly.stopping {s u : State} (h : ReportsOnly s u) : stopping u = stopping s := by
  simp only [Machine.stopping, h.eng_mode]
theorem ReportsOnly.memByte {s u : State} (h : ReportsOnly s u) (a : Nat) : memByte u a = memByte s a := by
  simp only [Machine.memByte, h.mem]

/-! ## Requests for memory of other endpoints -/



theorem isFar_congr {s u : State} (hm : u.map = s.map) (ha : u.abut.fabActive = s.abut.fabActive) (a : Nat) :
    isFar u a = isFar s a := by
  unfold isFar mapTarget ownAddr
  rw [hm, ha]

theorem ReportsOnly.requests {s u : State} (h : ReportsOnly s u) (hn : u.net = s.net) (ha : u.abut = s.abut) : RequestsOnly s u := by
  refine ⟨⟨(congrArg (fun x : State => { x with net := s.net, abut := { x.abut with port := s.abut.port } }) h.1 :), h.2⟩, ?_, ?_, ?_, ?_⟩
  · intro k _ _; simp only [getPort, ha]
  · intro k; simp only [getPort, ha]
  · rw [hn]
  · exact fun _ => ⟨by rw [hn], ha⟩

theorem RequestsOnly.map {s u : State} (h : RequestsOnly s u) : u.map = s.map := (congrArg State.map h.1.1 :)
theorem RequestsOnly.fabActive {s u : State} (h : RequestsOnly s u) : u.abut.fabActive = s.abut.fabActive :=
  (congrArg (fun x : State => x.abut.fabActive) h.1.1 :)

theorem RequestsOnly.trans {s u w : State} (h : RequestsOnly s u) (k : RequestsOnly u w) : RequestsOnly s w := by
  obtain ⟨⟨h1, h2⟩, h3, h4, h5, h6⟩ := h
  have hf := fun a => isFar_congr (RequestsOnly.map ⟨⟨h1, h2⟩, h3, h4, h5, h6⟩) (RequestsOnly.fabActive ⟨⟨h1, h2⟩, h3, h4, h5, h6⟩) a
  obtain ⟨⟨k1, k2⟩, k3, k4, k5, k6⟩ := k
  refine ⟨⟨?_, ?_⟩, ?_, ?_, ?_, ?_⟩
  · exact (congrArg (fun x : State => { x with
      net := s.net, abut := { x.abut with port := s.abut.port }, perf := s.perf, repQ := s.repQ, engSeq := s.engSeq, hw := s.hw
      lease := { x.lease with rt := s.lease.rt }, eng := { x.eng with faultLost := s.eng.faultLost } }) k1 :).trans h1
  · intro l
    have a := h2 l
    have b := k2 l
    change { getRt u l with repSeq := (getRt s l).repSeq } = getRt s l at a
    change { getRt w l with repSeq := (getRt u l).repSeq } = getRt u l at b
    change { getRt w l with repSeq := (getRt s l).repSeq } = getRt s l
    rw [← a, ← b]
  · intro j a b; rw [k3 j a b, h3 j a b]
  · intro j; rw [← h4 j, ← k4 j]
  · rw [k5, h5]
  · intro a
    have b := h6 a
    have c := k6 (fun x => (hf x).trans (a x))
    exact ⟨(congrArg (fun x : NetUnit => { x with got := s.net.got }) c.1).trans b.1, c.2.trans b.2⟩

theorem epOf_ownAddr (s : State) (e : Nat) (h : e < 16) : epOf (ownAddr s e) = e := by
  unfold epOf ownAddr bits
  rw [Nat.shiftRight_zero, BitVec.toNat_or, BitVec.toNat_and]
  show _ % 2 ^ 4 = e
  rw [Nat.or_mod_two_pow, Nat.and_mod_two_pow]
  have h1 : (0xFFFFF0 : BitVec 24).toNat % 2 ^ 4 = 0 := by decide
  have h2 : (BitVec.ofNat 24 (e % 16)).toNat % 2 ^ 4 = e := by
    rw [BitVec.toNat_ofNat]; omega
  rw [h1, h2, Nat.and_zero, Nat.zero_or]

theorem enqueue_requests (s : State) (q : Nat) (p : Packet) (n : NetUnit) (hn : n.rx = s.net.rx) (hq : q = 16 ∨ q = 17)
    (a : Nat) (ha : isFar s a = true) : RequestsOnly s { enqueue s q p with net := n } := by
  refine ⟨⟨rfl, fun _ => rfl⟩, ?_, ?_, hn, fun h => absurd (ha.symm.trans (h a)) (by decide)⟩
  · intro k h1 h2
    simp only [enqueue, setPort, getPort, Tab.get_set]
    rw [if_neg (by omega)]
  · intro k
    simp only [enqueue, setPort, getPort, Tab.get_set]
    by_cases h : k = q
    · rw [if_pos h, h]
    · rw [if_neg h]

/-- A request of the span for memory that another endpoint owns. -/
theorem sendRequest_requests (s : State) (typ : Nat) (d : BitVec 24) (cls : Nat) (aux : BitVec 16) (pl : List Byte) (what : ReqFor)
    (l a : Nat) (ha : isFar s a = true) : RequestsOnly s (sendRequest s 1 typ d cls aux pl what l) := by
  unfold sendRequest
  dsimp only
  rw [if_pos rfl]
  unfold sendPacket
  split
  · unfold emit
    rw [show epOf (mkPacket typ d (ownAddr (ownTag s (Tab.get 0 s.net.tags 1) l) 1) cls (Tab.get 0 s.net.tags 1) aux pl).src = 1 from
      epOf_ownAddr _ 1 (by decide)]
    refine enqueue_requests s _ _ _ rfl ?_ a ha
    split <;> simp
  · exact ⟨⟨rfl, fun _ => rfl⟩, fun _ _ _ => rfl, fun _ => rfl, rfl, fun h => absurd (ha.symm.trans (h a)) (by decide)⟩

theorem RequestsOnly.refl (s : State) : RequestsOnly s s :=
  ⟨⟨rfl, fun _ => rfl⟩, fun _ _ _ => rfl, fun _ => rfl, rfl, fun _ => ⟨rfl, rfl⟩⟩

theorem foldl_requests {β : Type} (f : State → β → State) (h : ∀ s b, RequestsOnly s (f s b)) (l : List β) (s : State) :
    RequestsOnly s (l.foldl f s) := by
  induction l generalizing s with
  | nil => exact RequestsOnly.refl s
  | cons b l ih => exact (h s b).trans (ih (f s b))

/-- Forming a request for memory that another endpoint owns. -/
theorem sendMemory_requests (s : State) (pa n : Nat) (c : Acc) (rep : Bool) (what : ReqFor) :
    RequestsOnly s (sendMemory s pa n c rep none what) := by
  unfold sendMemory
  split
  · exact RequestsOnly.refl s
  · rename_i d hd
    split
    · exact RequestsOnly.refl s
    · rename_i h
      exact sendRequest_requests s _ _ _ _ _ _ _ pa (by unfold isFar; rw [hd]; simpa using h)

theorem farRead_requests (s : State) (c : Acc) (a n : Nat) : RequestsOnly s (farRead s c a n) := by
  unfold farRead
  refine foldl_requests _ (fun s k => ?_) _ s
  split
  · exact RequestsOnly.refl s
  · exact sendMemory_requests ..

theorem farTake_requests (s : State) (l a n : Nat) : RequestsOnly s (farTake s l a n) :=
  ⟨⟨rfl, fun _ => rfl⟩, fun _ _ _ => rfl, fun _ => rfl, rfl, fun _ => ⟨rfl, rfl⟩⟩

theorem walkTake_requests (s : State) (c : Acc) (va : Word) : RequestsOnly s (walkTake s c va) :=
  foldl_requests _ (fun s a => farTake_requests s c.l a 8) _ s


theorem RequestsOnly.put {u w : State} (h : RequestsOnly u w) (a : Tab Thread) (b : Tab Core) (c : Nat) :
    RequestsOnly { u with thr := a, core := b, free := c } { w with thr := a, core := b, free := c } :=
  ⟨⟨(congrArg (fun x : State => { x with thr := a, core := b, free := c }) h.1.1 :), h.1.2⟩, h.2⟩

theorem QuietBut.trans {s u w : State} (h : QuietBut s u) (k : QuietBut u w) : QuietBut s w :=
  RequestsOnly.trans h (RequestsOnly.put k s.thr s.core s.free)

theorem RequestsOnly.quiet {s u : State} (h : RequestsOnly s u) : QuietBut s u := RequestsOnly.put h s.thr s.core s.free
theorem ReportsOnly.quiet {s u : State} (h : ReportsOnly s u) : QuietBut s u := (h.requests h.net h.abut).quiet
theorem setThr_quiet (s : State) (t : ThreadId) (x : Thread) : QuietBut s (setThr s t x) := RequestsOnly.refl s
theorem setCore_quiet (s : State) (c : Nat) (x : Core) : QuietBut s (setCore s c x) := RequestsOnly.refl s
theorem RequestsOnly.thr {s u : State} (h : RequestsOnly s u) : u.thr = s.thr := (congrArg State.thr h.1.1 :)


/-- A translation sends table reads or takes what they brought, and draws a free value. -/
theorem xlateIn_quiet (s : State) (cache : List TlbEntry) (c : Acc) (va : Word) (k : Access) :
    QuietBut s (xlateIn s cache c va k).2.2 ∧ (xlateIn s cache c va k).2.2.thr = s.thr := by
  unfold xlateIn
  split
  · have h := farRead_requests s c
    exact ⟨(h _ 8).quiet, (h _ 8).thr⟩
  · dsimp only
    have h := walkTake_requests s c va
    split
    · exact ⟨RequestsOnly.refl s, rfl⟩
    · exact ⟨h.quiet, h.thr⟩

/-- Counting a TLB miss counts, or does nothing. -/
theorem tlbMiss_only (s : State) (b : Bool) (x : Xl) (c : SampleSrc) : ReportsOnly s (tlbMiss s b x c) := by
  unfold tlbMiss
  split
  · exact ReportsOnly.refl s
  · exact event_only ..

/-- Translating a fetch changes an instruction TLB, draws a free value and sends table reads: no thread is touched. -/
theorem codeXlate_spec (s : State) (t : ThreadId) (va w) : QuietBut s (codeXlate s t va w).2 ∧ (codeXlate s t va w).2.thr = s.thr := by
  unfold codeXlate
  dsimp only
  have h := xlateIn_quiet s (getCore s t.core.val).itlb (accOf s (Machine.getThr s t).lease) va .x
  generalize xlateIn s (getCore s t.core.val).itlb (accOf s (Machine.getThr s t).lease) va .x = r at h ⊢
  have m := fun k => tlbMiss_only (setCore { r.2.2 with free := (tlbFit r.2.1 r.2.2.free).2 } t.core.val k)
    (holds (getCore s t.core.val).itlb (Machine.getThr s t).lease va) r.1 (srcThread (Machine.getThr s t) t w)
  have k : QuietBut r.2.2 { r.2.2 with free := (tlbFit r.2.1 r.2.2.free).2 } := RequestsOnly.refl r.2.2
  exact ⟨(h.1.trans (k.trans (setCore_quiet _ t.core.val _))).trans (m _).quiet, ((m _).thr).trans h.2⟩

/-! ## Fetch -/

/-- A thread's record after a fault: halted where it stands, registers and accesses as they were. -/
theorem preciseFault_spec (s : State) (t : ThreadId) (c : Byte) (d0 d1 : Word) (w : Half) :
    Machine.getThr (preciseFault s t c d0 d1 w) t = halted (Machine.getThr s t) c false .precise ∧
      OtherThreads s (preciseFault s t c d0 d1 w) t ∧ QuietBut s (preciseFault s t c d0 d1 w) := by
  unfold preciseFault
  dsimp only
  have h := fun l c th i hh pc w d0 d1 n x => leaseReport_only (setThr s t x) l c th i hh pc w d0 d1 n
  refine ⟨?_, ?_, ?_⟩
  · rw [(h ..).getThr]; simp
  · intro k hk; rw [(h ..).getThr]; simp [hk]
  · exact (setThr_quiet s t _).trans (h ..).quiet

/-- What fetching a thread's next instruction does: its record keeps its PC, registers and accesses, no other thread changes, and the
rest of the machine is quiet. -/
theorem fetchNext_spec (s : State) (t : ThreadId) :
    let u := fetchNext s t
    (getThr u t).pc = (getThr s t).pc ∧ (getThr u t).g = (getThr s t).g ∧ (getThr u t).loads = (getThr s t).loads ∧
    (getThr u t).stores = (getThr s t).stores ∧ (getThr u t).ras = (getThr s t).ras ∧ OtherThreads s u t ∧ QuietBut s u := by
  have hx : ∀ (u : State) (a : Word) (w : Half), u.thr = s.thr → QuietBut s u → (∀ k, getThr (codeXlate u t a w).2 k = getThr s k) ∧
      QuietBut s (codeXlate u t a w).2 ∧ (codeXlate u t a w).2.thr = s.thr := by
    intro u a w hu hq
    have h := codeXlate_spec u t a w
    exact ⟨fun k => by unfold getThr; rw [h.2, hu], hq.trans h.1, h.2.trans hu⟩
  have hp : ∀ (u : State) c d0 d1 w, (∀ k, getThr u k = getThr s k) → QuietBut s u →
      (getThr (preciseFault u t c d0 d1 w) t).pc = (getThr s t).pc ∧ (getThr (preciseFault u t c d0 d1 w) t).g = (getThr s t).g ∧
      (getThr (preciseFault u t c d0 d1 w) t).loads = (getThr s t).loads ∧
      (getThr (preciseFault u t c d0 d1 w) t).stores = (getThr s t).stores ∧
      (getThr (preciseFault u t c d0 d1 w) t).ras = (getThr s t).ras ∧ OtherThreads s (preciseFault u t c d0 d1 w) t ∧
      QuietBut s (preciseFault u t c d0 d1 w) := by
    intro u c d0 d1 w hu hq
    have h := preciseFault_spec u t c d0 d1 w
    refine ⟨?_, ?_, ?_, ?_, ?_, fun k hk => (h.2.1 k hk).trans (hu k), hq.trans h.2.2⟩ <;> rw [h.1, hu] <;> rfl
  have hv : ∀ (u : State), (∀ k, getThr u k = getThr s k) → QuietBut s u →
      let v := setThr u t (waiting (getThr s t) .fetch)
      (getThr v t).pc = (getThr s t).pc ∧ (getThr v t).g = (getThr s t).g ∧ (getThr v t).loads = (getThr s t).loads ∧
      (getThr v t).stores = (getThr s t).stores ∧ (getThr v t).ras = (getThr s t).ras ∧ OtherThreads s v t ∧ QuietBut s v := by
    intro u hu hq v
    have ht : getThr v t = waiting (getThr s t) .fetch := by simp [v]
    refine ⟨?_, ?_, ?_, ?_, ?_, fun k hk => (by simp [v, hk, hu k]), hq.trans (setThr_quiet u t _)⟩ <;> rw [ht] <;> rfl
  have hw : ∀ (u : State) e n c, (∀ k, getThr u k = getThr s k) → QuietBut s u →
      let v := event (setThr u t (waiting (getThr s t) .fetch)) e n c
      (getThr v t).pc = (getThr s t).pc ∧ (getThr v t).g = (getThr s t).g ∧ (getThr v t).loads = (getThr s t).loads ∧
      (getThr v t).stores = (getThr s t).stores ∧ (getThr v t).ras = (getThr s t).ras ∧ OtherThreads s v t ∧ QuietBut s v := by
    intro u e n c hu hq v
    have h := event_only (setThr u t (waiting (getThr s t) .fetch)) e n c
    have ht : getThr v t = waiting (getThr s t) .fetch := (h.getThr ..).trans (by simp)
    refine ⟨?_, ?_, ?_, ?_, ?_, fun k hk => ((h.getThr ..).trans (by simp [hk])).trans (hu k),
      hq.trans ((setThr_quiet u t _).trans h.quiet)⟩ <;> rw [ht] <;> rfl
  have h0 := fun w => hx s (getThr s t).pc w rfl (RequestsOnly.refl s)
  unfold fetchNext
  dsimp only
  split
  · exact ⟨rfl, rfl, rfl, rfl, rfl, fun _ _ => rfl, RequestsOnly.refl s⟩
  · split
    · rename_i w _
      have h0 := h0 w
      split
      · exact hv _ h0.1 h0.2.1
      · split
        · exact hp _ _ _ _ _ h0.1 h0.2.1
        · split
          · exact hp _ _ _ _ _ h0.1 h0.2.1
          · split
            · exact hw _ _ _ _ h0.1 h0.2.1
            · split
              · exact ⟨by rw [h0.1], by rw [h0.1], by rw [h0.1], by rw [h0.1], by rw [h0.1], fun k _ => h0.1 k, h0.2.1⟩
              · have h1 := fun a w => hx _ a w h0.2.2 h0.2.1
                split
                · exact hv _ (h1 ..).1 (h1 ..).2.1
                · split
                  · exact hp _ _ _ _ _ (h1 ..).1 (h1 ..).2.1
                  · exact ⟨by rw [(h1 ..).1], by rw [(h1 ..).1], by rw [(h1 ..).1], by rw [(h1 ..).1], by rw [(h1 ..).1],
                      fun k _ => (h1 ..).1 k, (h1 ..).2.1⟩
    · exact hw s _ _ _ (fun _ => rfl) (RequestsOnly.refl s)

/-! ## Device memory -/

theorem putBytes_wf (ws : List (Nat × Byte)) (m : Tab Byte) (h : Tab.wf 0 m = true) : Tab.wf 0 (putBytes m ws) = true := by
  induction ws generalizing m with
  | nil => exact h
  | cons w t ih => exact ih _ (Tab.wf_set 0 m w.1 w.2 h)

/-- A byte that a list of writes does not name keeps its value. -/
theorem putBytes_other (ws : List (Nat × Byte)) (m : Tab Byte) (a : Nat) (h : ∀ w ∈ ws, w.1 ≠ a) :
    Tab.get 0 (putBytes m ws) a = Tab.get 0 m a := by
  induction ws generalizing m with
  | nil => rfl
  | cons w t ih =>
    rw [putBytes, ih _ (fun x hx => h x (List.mem_cons_of_mem _ hx)), Tab.get_set,
      if_neg (fun e => h w (List.mem_cons_self ..) e.symm)]

/-- Every write of device memory keeps its canonical form. -/
theorem memWrite_wf (s : State) (ws : List (Nat × Byte)) (h : Memory.wf s.mem = true) :
    Memory.wf (memWrite s ws).mem = true := putBytes_wf ws s.mem h

theorem addrBytes_eq (a : Nat) (bs : List Byte) :
    addrBytes a bs = (List.range bs.length).zipWith (fun k b => (a + k, b)) bs := rfl

theorem putBytes_append (m : Tab Byte) (x y : List (Nat × Byte)) : putBytes m (x ++ y) = putBytes (putBytes m x) y := by
  induction x generalizing m with
  | nil => rfl
  | cons w t ih => exact ih _

theorem addrBytes_snoc (a : Nat) (bs : List Byte) (b : Byte) :
    addrBytes a (bs ++ [b]) = addrBytes a bs ++ [(a + bs.length, b)] := by
  unfold addrBytes
  rw [List.length_append, List.length_singleton, List.range_succ, List.zipWith_append (by simp)]
  rfl

/-- What device memory reads after a run of bytes has been written. -/
theorem memByte_memRun (s : State) (a : Nat) (bs : List Byte) (k : Nat) :
    memByte (memRun s a bs) k = if a ≤ k ∧ k < a + bs.length then bs.getD (k - a) 0 else memByte s k := by
  unfold memByte memRun memWrite
  dsimp only
  induction bs using List.reverseRecOn with
  | nil => simp [addrBytes, putBytes]
  | append_singleton bs b ih =>
    rw [addrBytes_snoc, putBytes_append]
    simp only [putBytes, Tab.get_set, ih, List.length_append, List.length_singleton]
    by_cases h : k = a + bs.length
    · subst h
      simp
    · rw [if_neg h]
      by_cases h2 : a ≤ k ∧ k < a + bs.length
      · rw [if_pos h2, if_pos (by omega), List.getD_append _ _ _ _ (by omega)]
      · rw [if_neg h2, if_neg (by omega)]

/-! ## Instructions of the keystone cores -/

/-- Retiring an instruction changes its own thread's PC and fetch state; the rest of the machine is quiet. -/
theorem retire_spec (s : State) (t : ThreadId) (x : Thread) (pc : Word) :
    let u := retire s t x pc
    (getThr u t).pc = pc ∧ (getThr u t).g = x.g ∧ (getThr u t).loads = x.loads ∧ (getThr u t).stores = x.stores ∧ (getThr u t).ras = x.ras ∧
    OtherThreads s u t ∧ QuietBut s u := by
  intro u
  have h := fetchNext_spec (setThr s t { x with pc := pc }) t
  simp only [getThr_setThr, if_true] at h
  obtain ⟨a, b, c, d, e, f, g⟩ := h
  exact ⟨a, b, c, d, e, fun k hk => (f k hk).trans (by simp [hk]), (setThr_quiet s t _).trans g⟩

/-- A register reads back what was written to it, but `g0`, which reads 0; every other register reads as before. -/
theorem rdReg_wrReg (x y : Thread) (rd : BitVec 5) (v : Word) (hg : y.g = (wrReg x rd v).g) (r : BitVec 5) :
    rdReg y r = if r = rd ∧ r ≠ 0 then v else rdReg x r := by
  unfold rdReg
  by_cases h0 : r = 0
  · rw [if_pos h0, if_neg (fun h => h.2 h0), if_pos h0]
  · rw [if_neg h0, if_neg h0, hg]
    unfold wrReg
    by_cases hd : rd = 0
    · rw [if_pos hd, if_neg (fun h => h0 (h.1.trans hd))]
    · rw [if_neg hd, Tab.get_set]
      by_cases hr : r = rd
      · rw [if_pos (congrArg BitVec.toNat hr), if_pos ⟨hr, h0⟩]
      · rw [if_neg (fun h => hr (BitVec.eq_of_toNat_eq h)), if_neg (fun h => hr h.1)]

/-- What an arithmetic instruction with its sources ready does. -/
theorem alu_spec (s : State) (t : ThreadId) (w : Half) (srcs : List (BitVec 5)) (rd : BitVec 5) (f : Thread → Word) (h : IssuesWord s t w srcs = true) :
    Retired s (alu s t w true srcs rd f) t rd (f (getThr s t)) ((getThr s t).pc + 4) := by
  unfold IssuesWord Issues at h
  simp only [Bool.and_eq_true, Bool.not_eq_true', List.all_eq_true] at h
  obtain ⟨h0, ⟨h1, h2⟩, h3⟩ := h
  have hf : srcs.find? (isUe (getThr s t)) = none := by
    rw [List.find?_eq_none]; intro r hr; simpa using h3 r hr
  have he := event_only s 0x060 1 (srcThread (getThr s t) t w)
  simp only [alu, issueReg, issue, issueMay, countInstr, h0, h1, h2, hf, not_true_eq_false, or_self, if_false, Bool.false_eq_true]
  have hr := retire_spec (event s 0x060 1 (srcThread (getThr s t) t w)) t (wrReg (getThr s t) rd (f (getThr s t))) ((getThr s t).pc + 4)
  obtain ⟨a, b, _, _, _, c, d⟩ := hr
  refine ⟨a, rdReg_wrReg _ _ _ _ b, ?_, ?_⟩
  · intro k hk; rw [c k hk, he.getThr]
  · exact he.quiet.trans d

end Sys2Proof.Machine
end

