-- ==== Sys2Proof/Laws/PerInstr.lean ====
section
/-! SUPPORT. One family of facts about commands as syntax, a lemma for each command: every packet that a well-formed command
carries holds as many payload bytes as its LEN says (R320). -/

namespace Sys2Proof.Laws.Carried

/-- The packets that a well-formed command carries have LEN bytes of payload. -/
def Statement (i : Instr) : Prop := i.wf = true → ∀ p ∈ i.packets, p.payload.length = p.len.toNat

/-- A command that carries no packet. -/
theorem of_none {i : Instr} (h : i.packets = []) : Statement i := fun _ p hp => by rw [h] at hp; cases hp

/-- A command that carries one packet, and is well formed only where the packet is. -/
theorem of_one {i : Instr} {q : Packet} (h : i.packets = [q]) (w : i.wf = true → q.wf = true) : Statement i := fun hw p hp => by
  rw [h, List.mem_singleton] at hp
  subst hp
  exact of_decide_eq_true (w hw)

theorem addk (t : ThreadId) (rd ra : BitVec 5) (imm : BitVec 16) : Statement (.addk t rd ra imm) := of_none rfl
theorem andk (t : ThreadId) (rd ra : BitVec 5) (imm : BitVec 16) : Statement (.andk t rd ra imm) := of_none rfl
theorem ork (t : ThreadId) (rd ra : BitVec 5) (imm : BitVec 16) : Statement (.ork t rd ra imm) := of_none rfl
theorem xork (t : ThreadId) (rd ra : BitVec 5) (imm : BitVec 16) : Statement (.xork t rd ra imm) := of_none rfl
theorem cmpkLt (t : ThreadId) (rd ra : BitVec 5) (imm : BitVec 16) : Statement (.cmpkLt t rd ra imm) := of_none rfl
theorem cmpkLtu (t : ThreadId) (rd ra : BitVec 5) (imm : BitVec 16) : Statement (.cmpkLtu t rd ra imm) := of_none rfl
theorem shlk (t : ThreadId) (rd ra : BitVec 5) (imm : BitVec 16) : Statement (.shlk t rd ra imm) := of_none rfl
theorem shrk (t : ThreadId) (rd ra : BitVec 5) (imm : BitVec 16) : Statement (.shrk t rd ra imm) := of_none rfl
theorem sark (t : ThreadId) (rd ra : BitVec 5) (imm : BitVec 16) : Statement (.sark t rd ra imm) := of_none rfl
theorem klane (t : ThreadId) (rd ra : BitVec 5) (imm : BitVec 16) : Statement (.klane t rd ra imm) := of_none rfl
theorem adrw (t : ThreadId) (rd ra : BitVec 5) (imm : BitVec 16) : Statement (.adrw t rd ra imm) := of_none rfl
theorem ldS8 (t : ThreadId) (rd ra : BitVec 5) (imm : BitVec 16) : Statement (.ldS8 t rd ra imm) := of_none rfl
theorem ldS16 (t : ThreadId) (rd ra : BitVec 5) (imm : BitVec 16) : Statement (.ldS16 t rd ra imm) := of_none rfl
theorem ldS32 (t : ThreadId) (rd ra : BitVec 5) (imm : BitVec 16) : Statement (.ldS32 t rd ra imm) := of_none rfl
theorem ldD (t : ThreadId) (rd ra : BitVec 5) (imm : BitVec 16) : Statement (.ldD t rd ra imm) := of_none rfl
theorem ldU8 (t : ThreadId) (rd ra : BitVec 5) (imm : BitVec 16) : Statement (.ldU8 t rd ra imm) := of_none rfl
theorem ldU16 (t : ThreadId) (rd ra : BitVec 5) (imm : BitVec 16) : Statement (.ldU16 t rd ra imm) := of_none rfl
theorem ldU32 (t : ThreadId) (rd ra : BitVec 5) (imm : BitVec 16) : Statement (.ldU32 t rd ra imm) := of_none rfl
theorem st8 (t : ThreadId) (rs ra : BitVec 5) (imm : BitVec 16) : Statement (.st8 t rs ra imm) := of_none rfl
theorem st16 (t : ThreadId) (rs ra : BitVec 5) (imm : BitVec 16) : Statement (.st16 t rs ra imm) := of_none rfl
theorem st32 (t : ThreadId) (rs ra : BitVec 5) (imm : BitVec 16) : Statement (.st32 t rs ra imm) := of_none rfl
theorem stD (t : ThreadId) (rs ra : BitVec 5) (imm : BitVec 16) : Statement (.stD t rs ra imm) := of_none rfl
theorem brEq (t : ThreadId) (ra rb : BitVec 5) (off : BitVec 16) : Statement (.brEq t ra rb off) := of_none rfl
theorem brNe (t : ThreadId) (ra rb : BitVec 5) (off : BitVec 16) : Statement (.brNe t ra rb off) := of_none rfl
theorem brLt (t : ThreadId) (ra rb : BitVec 5) (off : BitVec 16) : Statement (.brLt t ra rb off) := of_none rfl
theorem brGe (t : ThreadId) (ra rb : BitVec 5) (off : BitVec 16) : Statement (.brGe t ra rb off) := of_none rfl
theorem brLtu (t : ThreadId) (ra rb : BitVec 5) (off : BitVec 16) : Statement (.brLtu t ra rb off) := of_none rfl
theorem brGeu (t : ThreadId) (ra rb : BitVec 5) (off : BitVec 16) : Statement (.brGeu t ra rb off) := of_none rfl
theorem jmp (t : ThreadId) (off : BitVec 26) : Statement (.jmp t off) := of_none rfl
theorem jmpr (t : ThreadId) (rd ra : BitVec 5) (imm : BitVec 16) : Statement (.jmpr t rd ra imm) := of_none rfl
theorem call (t : ThreadId) (off : BitVec 26) : Statement (.call t off) := of_none rfl
theorem callr (t : ThreadId) (rd ra : BitVec 5) (imm : BitVec 16) : Statement (.callr t rd ra imm) := of_none rfl
theorem ret (t : ThreadId) (rd ra : BitVec 5) (imm : BitVec 16) : Statement (.ret t rd ra imm) := of_none rfl
theorem add (t : ThreadId) (rd ra rb rsv : BitVec 5) : Statement (.add t rd ra rb rsv) := of_none rfl
theorem sub (t : ThreadId) (rd ra rb rsv : BitVec 5) : Statement (.sub t rd ra rb rsv) := of_none rfl
theorem and (t : ThreadId) (rd ra rb rsv : BitVec 5) : Statement (.and t rd ra rb rsv) := of_none rfl
theorem or (t : ThreadId) (rd ra rb rsv : BitVec 5) : Statement (.or t rd ra rb rsv) := of_none rfl
theorem xor (t : ThreadId) (rd ra rb rsv : BitVec 5) : Statement (.xor t rd ra rb rsv) := of_none rfl
theorem shl (t : ThreadId) (rd ra rb rsv : BitVec 5) : Statement (.shl t rd ra rb rsv) := of_none rfl
theorem shr (t : ThreadId) (rd ra rb rsv : BitVec 5) : Statement (.shr t rd ra rb rsv) := of_none rfl
theorem sar (t : ThreadId) (rd ra rb rsv : BitVec 5) : Statement (.sar t rd ra rb rsv) := of_none rfl
theorem cmpLt (t : ThreadId) (rd ra rb rsv : BitVec 5) : Statement (.cmpLt t rd ra rb rsv) := of_none rfl
theorem cmpLtu (t : ThreadId) (rd ra rb rsv : BitVec 5) : Statement (.cmpLtu t rd ra rb rsv) := of_none rfl
theorem mulLo (t : ThreadId) (rd ra rb rsv : BitVec 5) : Statement (.mulLo t rd ra rb rsv) := of_none rfl
theorem mulHs (t : ThreadId) (rd ra rb rsv : BitVec 5) : Statement (.mulHs t rd ra rb rsv) := of_none rfl
theorem mulHu (t : ThreadId) (rd ra rb rsv : BitVec 5) : Statement (.mulHu t rd ra rb rsv) := of_none rfl
theorem min (t : ThreadId) (rd ra rb rsv : BitVec 5) : Statement (.min t rd ra rb rsv) := of_none rfl
theorem max (t : ThreadId) (rd ra rb rsv : BitVec 5) : Statement (.max t rd ra rb rsv) := of_none rfl
theorem minu (t : ThreadId) (rd ra rb rsv : BitVec 5) : Statement (.minu t rd ra rb rsv) := of_none rfl
theorem maxu (t : ThreadId) (rd ra rb rsv : BitVec 5) : Statement (.maxu t rd ra rb rsv) := of_none rfl
theorem popc (t : ThreadId) (rd ra rb rsv : BitVec 5) : Statement (.popc t rd ra rb rsv) := of_none rfl
theorem clz (t : ThreadId) (rd ra rb rsv : BitVec 5) : Statement (.clz t rd ra rb rsv) := of_none rfl
theorem ctz (t : ThreadId) (rd ra rb rsv : BitVec 5) : Statement (.ctz t rd ra rb rsv) := of_none rfl
theorem fence (t : ThreadId) (rd ra : BitVec 5) (imm8 : BitVec 8) : Statement (.fence t rd ra imm8) := of_none rfl
theorem yield (t : ThreadId) (rd ra : BitVec 5) (imm8 : BitVec 8) : Statement (.yield t rd ra imm8) := of_none rfl
theorem exit (t : ThreadId) (rd ra : BitVec 5) (imm8 : BitVec 8) : Statement (.exit t rd ra imm8) := of_none rfl
theorem trap (t : ThreadId) (rd ra : BitVec 5) (imm8 : BitVec 8) : Statement (.trap t rd ra imm8) := of_none rfl
theorem srr (t : ThreadId) (rd ra : BitVec 5) (imm8 : BitVec 8) : Statement (.srr t rd ra imm8) := of_none rfl
theorem beatw (t : ThreadId) (rd ra : BitVec 5) (imm8 : BitVec 8) : Statement (.beatw t rd ra imm8) := of_none rfl
theorem passFwd (t : ThreadId) (len : BitVec 2) (f : BitVec 20) : Statement (.passFwd t len f) := of_none rfl
theorem passDx (t : ThreadId) (len : BitVec 2) (f : BitVec 20) : Statement (.passDx t len f) := of_none rfl
theorem passDw (t : ThreadId) (len : BitVec 2) (f : BitVec 20) : Statement (.passDw t len f) := of_none rfl
theorem passPair (t : ThreadId) (len : BitVec 2) (f : BitVec 20) (w1 : BitVec 32) : Statement (.passPair t len f w1) := of_none rfl
theorem slotOpen (t : ThreadId) (len : BitVec 2) (f : BitVec 20) (w1 : BitVec 32) : Statement (.slotOpen t len f w1) := of_none rfl
theorem slotClose (t : ThreadId) (len : BitVec 2) (f : BitVec 20) : Statement (.slotClose t len f) := of_none rfl
theorem slotSpill (t : ThreadId) (len : BitVec 2) (f : BitVec 20) (w1 : BitVec 32) : Statement (.slotSpill t len f w1) := of_none rfl
theorem slotFill (t : ThreadId) (len : BitVec 2) (f : BitVec 20) (w1 : BitVec 32) : Statement (.slotFill t len f w1) := of_none rfl
theorem slotStat (t : ThreadId) (len : BitVec 2) (f : BitVec 20) : Statement (.slotStat t len f) := of_none rfl
theorem drain (t : ThreadId) (len : BitVec 2) (f : BitVec 20) : Statement (.drain t len f) := of_none rfl
theorem streamArm (t : ThreadId) (len : BitVec 2) (f : BitVec 20) : Statement (.streamArm t len f) := of_none rfl
theorem streamRearm (t : ThreadId) (len : BitVec 2) (f : BitVec 20) : Statement (.streamRearm t len f) := of_none rfl
theorem streamRearmRows (t : ThreadId) (len : BitVec 2) (f : BitVec 20) : Statement (.streamRearmRows t len f) := of_none rfl
theorem streamResume (t : ThreadId) (len : BitVec 2) (f : BitVec 20) : Statement (.streamResume t len f) := of_none rfl
theorem streamQuiesce (t : ThreadId) (len : BitVec 2) (f : BitVec 20) : Statement (.streamQuiesce t len f) := of_none rfl
theorem rowsetCommit (t : ThreadId) (len : BitVec 2) (f : BitVec 20) (w1 : BitVec 32) : Statement (.rowsetCommit t len f w1) := of_none rfl
theorem rotLoadMatrix (t : ThreadId) (len : BitVec 2) (f : BitVec 20) (w1 : BitVec 32) : Statement (.rotLoadMatrix t len f w1) := of_none rfl
theorem rotLoadSmooth (t : ThreadId) (len : BitVec 2) (f : BitVec 20) (w1 : BitVec 32) : Statement (.rotLoadSmooth t len f w1) := of_none rfl
theorem scaleUpdate (t : ThreadId) (len : BitVec 2) (f : BitVec 20) (w1 : BitVec 32) : Statement (.scaleUpdate t len f w1) := of_none rfl
theorem vecAdd (t : ThreadId) (len : BitVec 2) (f : BitVec 20) (w1 : BitVec 32) : Statement (.vecAdd t len f w1) := of_none rfl
theorem vecMul (t : ThreadId) (len : BitVec 2) (f : BitVec 20) (w1 : BitVec 32) : Statement (.vecMul t len f w1) := of_none rfl
theorem vecFma (t : ThreadId) (len : BitVec 2) (f : BitVec 20) (w1 : BitVec 32) : Statement (.vecFma t len f w1) := of_none rfl
theorem vecAxpb (t : ThreadId) (len : BitVec 2) (f : BitVec 20) (w1 : BitVec 32) : Statement (.vecAxpb t len f w1) := of_none rfl
theorem vecRsum (t : ThreadId) (len : BitVec 2) (f : BitVec 20) (w1 : BitVec 32) : Statement (.vecRsum t len f w1) := of_none rfl
theorem vecCsum (t : ThreadId) (len : BitVec 2) (f : BitVec 20) (w1 : BitVec 32) : Statement (.vecCsum t len f w1) := of_none rfl
theorem vecRssq (t : ThreadId) (len : BitVec 2) (f : BitVec 20) (w1 : BitVec 32) : Statement (.vecRssq t len f w1) := of_none rfl
theorem vecRsqrt (t : ThreadId) (len : BitVec 2) (f : BitVec 20) (w1 : BitVec 32) : Statement (.vecRsqrt t len f w1) := of_none rfl
theorem vecArgmax (t : ThreadId) (len : BitVec 2) (f : BitVec 20) (w1 : BitVec 32) : Statement (.vecArgmax t len f w1) := of_none rfl
theorem vecArgmin (t : ThreadId) (len : BitVec 2) (f : BitVec 20) (w1 : BitVec 32) : Statement (.vecArgmin t len f w1) := of_none rfl
theorem chainSend (t : ThreadId) (len : BitVec 2) (f : BitVec 20) (w1 w2 : BitVec 32) : Statement (.chainSend t len f w1 w2) := of_none rfl
theorem chainRecv (t : ThreadId) (len : BitVec 2) (f : BitVec 20) (w1 w2 : BitVec 32) : Statement (.chainRecv t len f w1 w2) := of_none rfl
theorem mcSend (t : ThreadId) (len : BitVec 2) (f : BitVec 20) (w1 : BitVec 32) : Statement (.mcSend t len f w1) := of_none rfl
theorem updIssue (t : ThreadId) (len : BitVec 2) (f : BitVec 20) (w1 : BitVec 32) : Statement (.updIssue t len f w1) := of_none rfl
theorem cntSig (t : ThreadId) (len : BitVec 2) (f : BitVec 20) : Statement (.cntSig t len f) := of_none rfl
theorem cntTake (t : ThreadId) (len : BitVec 2) (f : BitVec 20) : Statement (.cntTake t len f) := of_none rfl
theorem cntWait (t : ThreadId) (len : BitVec 2) (f : BitVec 20) : Statement (.cntWait t len f) := of_none rfl
theorem cntWtake (t : ThreadId) (len : BitVec 2) (f : BitVec 20) : Statement (.cntWtake t len f) := of_none rfl
theorem cntRdp (t : ThreadId) (len : BitVec 2) (f : BitVec 20) : Statement (.cntRdp t len f) := of_none rfl
theorem cntRdc (t : ThreadId) (len : BitVec 2) (f : BitVec 20) : Statement (.cntRdc t len f) := of_none rfl
theorem cntCap (t : ThreadId) (len : BitVec 2) (f : BitVec 20) : Statement (.cntCap t len f) := of_none rfl
theorem instructionCrossing : Statement (.instructionCrossing) := of_none rfl
theorem queueEntryFree (t : ThreadId) : Statement (.queueEntryFree t) := of_none rfl
theorem counterWaitEnd (n : Fin 192) : Statement (.counterWaitEnd n) := of_none rfl
theorem yieldEnd (t : ThreadId) : Statement (.yieldEnd t) := of_none rfl
theorem loadReturn (t : ThreadId) : Statement (.loadReturn t) := of_none rfl
theorem storeAck (t : ThreadId) : Statement (.storeAck t) := of_none rfl
theorem icacheLineArrive (t : ThreadId) : Statement (.icacheLineArrive t) := of_none rfl
theorem taskPlacement : Statement (.taskPlacement) := of_none rfl
theorem descriptorArrive (u : Nat) : Statement (.descriptorArrive u) := of_none rfl
theorem passStart (u : Nat) : Statement (.passStart u) := of_none rfl
theorem elementPeriod (dry back : Bool) : Statement (.elementPeriod dry back) := of_none rfl
theorem intervalEnd (d : Fin 319) (errs : List (Nat × Nat)) : Statement (.intervalEnd d errs) := of_none rfl
theorem passResume (l : Fin 16) : Statement (.passResume l) := of_none rfl
theorem passComplete : Statement (.passComplete) := of_none rfl
theorem pairHalfComplete (dw : Bool) : Statement (.pairHalfComplete dw) := of_none rfl
theorem arrayRampDown : Statement (.arrayRampDown) := of_none rfl
theorem passAbandon : Statement (.passAbandon) := of_none rfl
theorem slotOpenStart (u : Nat) : Statement (.slotOpenStart u) := of_none rfl
theorem slotCloseStart (u : Nat) : Statement (.slotCloseStart u) := of_none rfl
theorem girderMoverStart (x : Fin 32) : Statement (.girderMoverStart x) := of_none rfl
theorem moverResume : Statement (.moverResume) := of_none rfl
theorem spillComplete : Statement (.spillComplete) := of_none rfl
theorem fillComplete : Statement (.fillComplete) := of_none rfl
theorem scrubSegmentDone : Statement (.scrubSegmentDone) := of_none rfl
theorem drainStart (u : Nat) : Statement (.drainStart u) := of_none rfl
theorem drainComplete : Statement (.drainComplete) := of_none rfl
theorem peekAddr (v : BitVec 64) : Statement (.peekAddr v) := of_none rfl
theorem peekDone : Statement (.peekDone) := of_none rfl
theorem streamDescArrive (u : Nat) : Statement (.streamDescArrive u) := of_none rfl
theorem gateTake (x : Fin 32) : Statement (.gateTake x) := of_none rfl
theorem burstIssue : Statement (.burstIssue) := of_none rfl
theorem burstComplete (x : Fin 32) (n : Nat) (b : Nat) : Statement (.burstComplete x n b) := of_none rfl
theorem transferSignal (x : Fin 32) : Statement (.transferSignal x) := of_none rfl
theorem rearmTake (x : Fin 32) : Statement (.rearmTake x) := of_none rfl
theorem streamCtlResume (x : Fin 32) (v : BitVec 64) : Statement (.streamCtlResume x v) := of_none rfl
theorem streamContextUe (x : Fin 32) : Statement (.streamContextUe x) := of_none rfl
theorem vecStart (u : Nat) : Statement (.vecStart u) := of_none rfl
theorem vecComplete : Statement (.vecComplete) := of_none rfl
theorem rotLoadStart (u : Nat) : Statement (.rotLoadStart u) := of_none rfl
theorem rotLoadComplete : Statement (.rotLoadComplete) := of_none rfl
theorem scaleUpdateStart (u : Nat) : Statement (.scaleUpdateStart u) := of_none rfl
theorem scaleUpdateComplete : Statement (.scaleUpdateComplete) := of_none rfl
theorem rowsetCommitStart (u : Nat) : Statement (.rowsetCommitStart u) := of_none rfl
theorem rowsetCommitComplete (u : Nat) : Statement (.rowsetCommitComplete u) := of_none rfl
theorem chainStart (u : Nat) : Statement (.chainStart u) := of_none rfl
theorem chainChunkSend (u : Nat) : Statement (.chainChunkSend u) := of_none rfl
theorem chainChunk (p : Packet) : Statement (.chainChunk p) := of_one rfl id
theorem chainCredit (p : Packet) : Statement (.chainCredit p) := of_one rfl id
theorem chainTimeout (u : Nat) : Statement (.chainTimeout u) := of_none rfl
theorem update (c : UpdCmd) : Statement (.update c) := of_none rfl
theorem stepEnd (c : UpdCmd) : Statement (.stepEnd c) := of_none rfl
theorem pierChunkStage (p : Packet) : Statement (.pierChunkStage p) := of_one rfl id
theorem updateBegin (k : Nat) : Statement (.updateBegin k) := of_none rfl
theorem updateComplete (k : Nat) : Statement (.updateComplete k) := of_none rfl
theorem stepEndComplete (k : Nat) : Statement (.stepEndComplete k) := of_none rfl
theorem pierReadBurst (b : ReadBurst) : Statement (.pierReadBurst b) := of_none rfl
theorem pierWrite (a : BitVec 48) (data : List (BitVec 8)) (mask : List Bool) : Statement (.pierWrite a data mask) := of_none rfl
theorem pierReadResponse (lane : Fin 32) (tag : BitVec 10) (err : BitVec 2) : Statement (.pierReadResponse lane tag err) := of_none rfl
theorem pierWriteAck (lane : Fin 32) (tag : BitVec 10) : Statement (.pierWriteAck lane tag) := of_none rfl
theorem pierGroupReload (v : BitVec 64) : Statement (.pierGroupReload v) := of_none rfl
theorem groupReloadDone : Statement (.groupReloadDone) := of_none rfl
theorem repcacheFlush (v : BitVec 64) : Statement (.repcacheFlush v) := of_none rfl
theorem repcacheFlushDone : Statement (.repcacheFlushDone) := of_none rfl
theorem pierPcmap (v : BitVec 64) : Statement (.pierPcmap v) := of_none rfl
theorem stackReady (level : Bool) : Statement (.stackReady level) := of_none rfl
theorem stackFatal : Statement (.stackFatal) := of_none rfl
theorem stackNoResponse : Statement (.stackNoResponse) := of_none rfl
theorem flitReceive (p : LinkId) (m : Nat) (fl : Flit) : Statement (.flitReceive p m fl) := of_none rfl
theorem moduleRetrainDone (part : Part) (m : Nat) (r : TrainResult) : Statement (.moduleRetrainDone part m r) := of_none rfl
theorem kaTxReadyFall (part : Part) (m : Nat) : Statement (.kaTxReadyFall part m) := of_none rfl
theorem flitReplayTimeout (p : LinkId) : Statement (.flitReplayTimeout p) := of_none rfl
theorem portLinkDown (p : LinkId) : Statement (.portLinkDown p) := of_none rfl
theorem signalDetectLoss (lane : Fin 8) : Statement (.signalDetectLoss lane) := of_none rfl
theorem trainingStart (p : LinkId) : Statement (.trainingStart p) := of_none rfl
theorem trainingDone (p : LinkId) (ms : List (Nat × TrainResult)) : Statement (.trainingDone p ms) := of_none rfl
theorem trainingRetry (p : LinkId) : Statement (.trainingRetry p) := of_none rfl
theorem ident (p : LinkId) (pk : Packet) : Statement (.ident p pk) := of_one rfl id
theorem identResend (p : LinkId) : Statement (.identResend p) := of_none rfl
theorem portRetrain (p : Fin 16) (v : BitVec 64) : Statement (.portRetrain p v) := of_none rfl
theorem routerForward (p : Fin 16) (pk : Packet) : Statement (.routerForward p pk) := of_one rfl id
theorem dedupExpiry : Statement (.dedupExpiry) := of_none rfl
theorem write (pk : Packet) : Statement (.write pk) := of_one rfl id
theorem writeAck (pk : Packet) : Statement (.writeAck pk) := of_one rfl id
theorem read (pk : Packet) : Statement (.read pk) := of_one rfl id
theorem readResp (pk : Packet) : Statement (.readResp pk) := of_one rfl id
theorem signal (pk : Packet) : Statement (.signal pk) := of_one rfl id
theorem signalAck (pk : Packet) : Statement (.signalAck pk) := of_one rfl id
theorem event (pk : Packet) : Statement (.event pk) := of_one rfl id
theorem eventAck (pk : Packet) : Statement (.eventAck pk) := of_one rfl id
theorem updResp (pk : Packet) : Statement (.updResp pk) := of_one rfl id
theorem mcData (p : Fin 16) (pk : Packet) : Statement (.mcData p pk) := of_one rfl id
theorem mcDataWritten (l : Fin 16) (g : BitVec 10) (mseq off : BitVec 32) : Statement (.mcDataWritten l g mseq off) := of_none rfl
theorem mcAck (p : Fin 16) (pk : Packet) : Statement (.mcAck p pk) := of_one rfl id
theorem mcPrune (g : BitVec 10) (p : Fin 16) : Statement (.mcPrune g p) := of_none rfl
theorem missed (p : Fin 16) (pk : Packet) : Statement (.missed p pk) := of_one rfl id
theorem unreachable (pk : Packet) : Statement (.unreachable pk) := of_one rfl id
theorem mgmtRead (part : Part) (pk : Packet) : Statement (.mgmtRead part pk) := of_one rfl id
theorem mgmtWrite (part : Part) (pk : Packet) : Statement (.mgmtWrite part pk) := of_one rfl id
theorem mgmtResp (pk : Packet) : Statement (.mgmtResp pk) := of_one rfl id
theorem directed (p : Fin 16) (pk : Packet) : Statement (.directed p pk) := of_one rfl id
theorem ethFrame (p : Fin 16) (fr : EthFrame) : Statement (.ethFrame p fr) := of_none rfl
theorem cxlResponse (tag : BitVec 12) (completion poison : Bool) : Statement (.cxlResponse tag completion poison) := of_none rfl
theorem cxlTimeout (tag : BitVec 12) : Statement (.cxlTimeout tag) := of_none rfl
theorem ethLinkcfg (v : BitVec 64) : Statement (.ethLinkcfg v) := of_none rfl
theorem reportDequeue (part : Part) : Statement (.reportDequeue part) := of_none rfl
theorem engineEventDest (v : BitVec 64) : Statement (.engineEventDest v) := of_none rfl
theorem load (l : Fin 16) : Statement (.load l) := of_none rfl
theorem loadAfterScrub (l : Fin 16) : Statement (.loadAfterScrub l) := of_none rfl
theorem suspend (l : Fin 16) : Statement (.suspend l) := of_none rfl
theorem resume (l : Fin 16) : Statement (.resume l) := of_none rfl
theorem unload (l : Fin 16) : Statement (.unload l) := of_none rfl
theorem unloadProceed (l : Fin 16) : Statement (.unloadProceed l) := of_none rfl
theorem release (l : Fin 16) : Statement (.release l) := of_none rfl
theorem releaseTeardown (l : Fin 16) : Statement (.releaseTeardown l) := of_none rfl
theorem releaseComplete (l : Fin 16) : Statement (.releaseComplete l) := of_none rfl
theorem saveBufferWrite (c : Fin 4) : Statement (.saveBufferWrite c) := of_none rfl
theorem park (l : Fin 16) (window : Bool) : Statement (.park l window) := of_none rfl
theorem saveSequence (l : Fin 16) : Statement (.saveSequence l) := of_none rfl
theorem parkRestore (l : Fin 16) : Statement (.parkRestore l) := of_none rfl
theorem leaseGeneration (v : BitVec 64) : Statement (.leaseGeneration v) := of_none rfl
theorem leaseCommitTake : Statement (.leaseCommitTake) := of_none rfl
theorem mapGeneration (v : BitVec 64) : Statement (.mapGeneration v) := of_none rfl
theorem memmapCommitTake : Statement (.memmapCommitTake) := of_none rfl
theorem routerGeneration (v : BitVec 64) : Statement (.routerGeneration v) := of_none rfl
theorem routerCommitTake : Statement (.routerCommitTake) := of_none rfl
theorem beatEdge : Statement (.beatEdge) := of_none rfl
theorem beatLost : Statement (.beatLost) := of_none rfl
theorem beatGenerated : Statement (.beatGenerated) := of_none rfl
theorem beatSideband (part : Part) (low : BitVec 16) : Statement (.beatSideband part low) := of_none rfl
theorem beatLoad (v : BitVec 64) : Statement (.beatLoad v) := of_none rfl
theorem beatNominal (v : BitVec 64) : Statement (.beatNominal v) := of_none rfl
theorem meterPeriod (v : BitVec 64) : Statement (.meterPeriod v) := of_none rfl
theorem perfDumpPeriod (v : BitVec 64) : Statement (.perfDumpPeriod v) := of_none rfl
theorem perfWrap (n : Fin 16) (inc : Nat) (src : SampleSrc) : Statement (.perfWrap n inc src) := of_none rfl
theorem tempReading (codes : List (Nat × BitVec 10 × Bool)) : Statement (.tempReading codes) := of_none rfl
theorem droopTrip (m : Fin 16) : Statement (.droopTrip m) := of_none rfl
theorem droopHoldExpire : Statement (.droopHoldExpire) := of_none rfl
theorem rstNFall (part : Part) : Statement (.rstNFall part) := of_none rfl
theorem rstNRise (part : Part) (straps : BitVec 10) : Statement (.rstNRise part straps) := of_none rfl
theorem engineReset (v : BitVec 64) : Statement (.engineReset v) := of_none rfl
theorem resetPhaseEnd : Statement (.resetPhaseEnd) := of_none rfl
theorem clockPhaseEnd : Statement (.clockPhaseEnd) := of_none rfl
theorem fuseLoadDone : Statement (.fuseLoadDone) := of_none rfl
theorem bistDone (fd : List Finding) : Statement (.bistDone fd) := of_none rfl
theorem scrubDone : Statement (.scrubDone) := of_none rfl
theorem railOutOfTolerance (part : Part) : Statement (.railOutOfTolerance part) := of_none rfl
theorem girderBankFail (b : Fin 256) : Statement (.girderBankFail b) := of_none rfl
theorem girderSpareReady : Statement (.girderSpareReady) := of_none rfl
theorem storeBankFail (north : Bool) (b : Nat) (pages : List Nat) : Statement (.storeBankFail north b pages) := of_none rfl
theorem storeSpareReady (north : Bool) : Statement (.storeSpareReady north) := of_none rfl
theorem storeWordUe (north : Bool) (page : Nat) : Statement (.storeWordUe north page) := of_none rfl
theorem coreMismatch (c : Fin 4) : Statement (.coreMismatch c) := of_none rfl
theorem stopDeadline (kept : List Nat) : Statement (.stopDeadline kept) := of_none rfl
theorem extest (part : Part) : Statement (.extest part) := of_none rfl
theorem idcode (part : Part) : Statement (.idcode part) := of_none rfl
theorem samplePreload (part : Part) : Statement (.samplePreload part) := of_none rfl
theorem wrapper (part : Part) : Statement (.wrapper part) := of_none rfl
theorem ijtag (part : Part) : Statement (.ijtag part) := of_none rfl
theorem bypass (part : Part) : Statement (.bypass part) := of_none rfl
theorem trstN (part : Part) : Statement (.trstN part) := of_none rfl
theorem loopbackStart (part : Part) (n : Fin 16) (v : BitVec 64) : Statement (.loopbackStart part n v) := of_none rfl
theorem loopbackEnd (part : Part) (n : Fin 16) (v : BitVec 64) : Statement (.loopbackEnd part n v) := of_none rfl
theorem ksIcacheInv (v : BitVec 64) : Statement (.ksIcacheInv v) := of_none rfl
theorem icacheInvDone : Statement (.icacheInvDone) := of_none rfl
theorem xlateInv (v : BitVec 64) : Statement (.xlateInv v) := of_none rfl
theorem xlateInvDone : Statement (.xlateInvDone) := of_none rfl
theorem threadResume (t : ThreadId) : Statement (.threadResume t) := of_none rfl
theorem threadSkip (t : ThreadId) : Statement (.threadSkip t) := of_none rfl
theorem threadRestart (t : ThreadId) : Statement (.threadRestart t) := of_none rfl
theorem threadKill (t : ThreadId) : Statement (.threadKill t) := of_none rfl
theorem threadFrameWrite (t : ThreadId) (off : BitVec 9) (v : BitVec 64) : Statement (.threadFrameWrite t off v) := of_none rfl
theorem cntSignal (n : Fin 192) (v : BitVec 64) : Statement (.cntSignal n v) := of_none rfl
theorem cntCfg (n : Fin 192) (v : BitVec 64) : Statement (.cntCfg n v) := of_none rfl
theorem cntPcWrite (n : Fin 192) (half : Bool) (v : BitVec 64) : Statement (.cntPcWrite n half v) := of_none rfl
theorem registerWrite (part : Part) (a : BitVec 32) (v : BitVec 64) : Statement (.registerWrite part a v) := of_none rfl
theorem pierFail : Statement (.pierFail) := of_none rfl
theorem repeatCacheBankFail (ways : List (Nat × Nat)) : Statement (.repeatCacheBankFail ways) := of_none rfl
theorem girderLost : Statement (.girderLost) := of_none rfl
theorem fuseShadowWrite (a : BitVec 32) (v : BitVec 64) : Statement (.fuseShadowWrite a v) := of_none rfl
theorem testZeroFillDone : Statement (.testZeroFillDone) := of_none rfl

end Sys2Proof.Laws.Carried
end

