-- ==== Sys2Proof/Tests/Slice0.lean ====
section
/-! SUPPORT. Small tests: that ill-formed commands are refused by `Instr.wf`, that the hypotheses of the statements can be met,
and what one command does on a small state. Expected values are worked out by hand from the rules named. The witness of the hypotheses of a
statement is named after it, and after the part of it where a statement gathers several parts. -/

open Sys2Proof Sys2Proof.Machine

namespace Sys2Proof.Tests

-- One theorem at a time: every pending kernel evaluation would hold a thread.
set_option Elab.async false

/-! ## Small states -/

/-- Page tables that map the first 2 MiB onto themselves, readable, writable and executable. -/
def tables : Tab Byte := [(0x1000, 1), (0x1001, 0x20), (0x2000, 1), (0x2001, 0x30), (0x3000, 0x1F)]

/-- Lease 0's entry: all counters, 64 threads, all segments and slots, every context and page of the stores, tables at
0x1000, context area 0x80000, spill area 0x100000, tasks at 0x10000, a run window of all beats. -/
def leaseZero : Tab Word :=
  [(1, 0x1000C00080408100), (2, 0xFFFFFFFF00400000),
   (3, 0x0008000000400000), (4, 0x100000), (5, 0x80000), (6, 0x1000), (7, 0x10000), (9, 0xFFFFFFFFFFFFFFFF), (10, 0x90000),
   (12, 0xA0000), (15, 0xB0000)]

/-- A running engine set whose lease 0 is RESIDENT over memory that the tables map; nothing runs. -/
def base : State :=
  { State.reset with
    eng := { phase := 6, fuseDone := true, scrubDone := true, linksDone := true, mode := 1 }
    pins := { rstSpan := true, rstPier := true, rstAbut := true }
    lease := { active := leaseZero, ctl := [(0, { st := .resident })] }
    map := { active := [(1, 0x200000), (2, 0x8000000000000002)] }
    mem := tables
    gir := { segFree := 0xFFFFFFFFFFFFFFFF } }

/-- Core 0, thread 0. -/
def t0 : ThreadId := ⟨0, 0⟩

/-- `base` with a READY thread of lease 0 at 0x400 with some registers. -/
def ready0 (g : Tab Word) : State :=
  { base with thr := [(0, { g := g, pc := 0x400, st := .ready })] }

/-- A thread's record changed. -/
def onThr (s : State) (f : Thread → Thread) : State := setThr s t0 (f (getThr s t0))

/-- Words in device memory. -/
def withWords (s : State) (a : Nat) (ws : List Word) : State := { s with mem := putBytes s.mem (addrBytes a (wordBytes ws)) }

/-- All of memory another set's Pier's. -/
def farAll (s : State) : State := { s with map := { s.map with active := [(1, 0x200000), (2, 0x8000000000000102)] } }

/-- The page at 0x200000 another set's Pier's, and mapped as the others are. -/
def farPage (s : State) : State :=
  { s with map := { s.map with active := s.map.active ++ [(4, 0x200000), (5, 0x400000), (6, 0x8000000000000102)] }
           mem := s.mem ++ [(0x3008, 0x1F), (0x300A, 0x20)] }

/-- The state after one command. -/
def after (i : Instr) (s : State) : State :=
  match exec i s with
  | .next u => u
  | _ => s


/-! ## Scalar instructions -/

theorem test_addk_wraps : rdReg (getThr (after (.addk t0 3 1 0xFFFF) (ready0 [(1, 0)])) t0) 3 = 0xFFFFFFFFFFFFFFFF := by decide
theorem test_andk_zero_extends : rdReg (getThr (after (.andk t0 3 1 0xFFFF) (ready0 [(1, 0xFFFFFFFFFFFF0F0F)])) t0) 3 = 0x0F0F := by
  decide
theorem test_klane_keeps_other_lanes :
    rdReg (getThr (after (.klane t0 1 2 0xABCD) (ready0 [(1, 0x1111222233334444)])) t0) 1 = 0x1111ABCD33334444 := by decide
theorem test_g0_discards : rdReg (getThr (after (.addk t0 0 1 7) (ready0 [(1, 3)])) t0) 0 = 0 := by decide
theorem test_sark_sign : rdReg (getThr (after (.sark t0 3 1 4) (ready0 [(1, 0x8000000000000000)])) t0) 3 = 0xF800000000000000 := by
  decide
theorem test_mulHs_negative :
    rdReg (getThr (after (.mulHs t0 3 1 2 0) (ready0 [(1, 0xFFFFFFFFFFFFFFFF), (2, 2)])) t0) 3 = 0xFFFFFFFFFFFFFFFF := by decide +kernel
theorem test_clz_of_one : rdReg (getThr (after (.clz t0 3 1 0 0) (ready0 [(1, 1)])) t0) 3 = 63 := by decide +kernel
theorem test_minu_min :
    rdReg (getThr (after (.min t0 3 1 2 0) (ready0 [(1, 0xFFFFFFFFFFFFFFFF), (2, 2)])) t0) 3 = 0xFFFFFFFFFFFFFFFF ∧
      rdReg (getThr (after (.minu t0 3 1 2 0) (ready0 [(1, 0xFFFFFFFFFFFFFFFF), (2, 2)])) t0) 3 = 2 := by decide

theorem witness_ArithmeticResults_ImmediateGroupResults :
    let s := ready0 [(1, 5)]
    IssuesWord s t0 (wI 0x01 3 1 7) [1] = true ∧ (63 : BitVec 16).toNat < 64 ∧ IssuesWord s t0 (wI 0x07 3 1 63) [1] = true ∧
      (3 : BitVec 5).toNat < 4 ∧ IssuesWord s t0 (wI 0x0A 1 3 7) [1] = true ∧ IssuesWord s t0 (wI 0x0B 3 0 7) [] = true := by decide

theorem witness_ArithmeticResults_AluGroupResults :
    let s := ready0 [(1, 5), (2, 0)]
    IssuesWord s t0 (wA 0x00 3 1 2 0) [1, 2] = true ∧ IssuesWord s t0 (wA 0x12 3 1 0 0) [1] = true ∧
      (∀ j < 0, (5 : Word).getLsbD j = false) ∧ (5 : Word).getLsbD 0 = true ∧
      (5 : Word).getLsbD (63 - 61) = true ∧ (∀ j < 61, (5 : Word).getLsbD (63 - j) = false) ∧
      IssuesWord s t0 (wA 0x13 3 2 0 0) [2] = true ∧ rdReg (getThr s t0) 2 = 0 := by decide

theorem witness_ReservedFieldsAreIllegal_ReservedFieldIsIllegal :
    let s := ready0 []
    canIssue s t0 = true ∧ (1 : BitVec 5) ≠ 0 ∧ fetched s t0 0 (wA 0x00 1 1 1 1) = true ∧ fetched s t0 0 (wA 0x11 1 1 1 0) = true ∧
      64 ≤ (64 : BitVec 16).toNat ∧ fetched s t0 0 (wI 0x07 1 1 64) = true ∧ 4 ≤ (4 : BitVec 5).toNat ∧
      fetched s t0 0 (wI 0x0A 1 4 0) = true ∧ fetched s t0 0 (wI 0x0B 1 1 0) = true ∧ fetched s t0 0 (wS 0x04 1 1 0) = true ∧
      fetched s t0 0 (wS 0x00 1 0 0) = true ∧ fetched s t0 0 (wI 0x29 1 0 0) = true ∧ fetched s t0 0 (wI 0x2A 0 0 1) = true ∧
      (1 : BitVec 8) ≠ 0 ∧ fetched s t0 0 (wS 0x05 0 0 1) = true := by decide

theorem witness_ReservedFieldsAreIllegal_SpanReservedIsIllegal :
    let s := ready0 []
    canIssue s t0 = true ∧ (1 : BitVec 2) ≠ 0 ∧ fetched s t0 0 (wX 0x30 1 0 0) = true ∧ (0x100 : BitVec 20).getLsbD 8 = true ∧
      fetched s t0 0 (wX 0x3B 0 0 0x100) = true ∧ fld (0x8000 : BitVec 20) 15 5 ≠ (0 : BitVec 5) ∧
      fetched s t0 1 0x100 = true ∧ (0 : BitVec 2) ≠ 1 ∧ bits (0x100 : BitVec 32) 31 8 ≠ 0 ∧
      bits (0x0011E000 : BitVec 32) 12 0 = 0 ∧ bits (0x00010001 : BitVec 32) 22 20 = 0 ∧ bits (0x00100001 : BitVec 32) 19 16 = 0 ∧
      bits (0x200 : BitVec 32) 31 9 ≠ 0 ∧ ((1 : BitVec 32).getLsbD 8 = false ∧ bits (1 : BitVec 32) 7 0 ≠ 0) ∧
      fetched s t0 2 0 = true ∧ (1 : BitVec 2) ≠ 2 := by decide

theorem test_reserved_is_illegal :
    (getThr (after (.add t0 3 1 2 1) (ready0 [(1, 5)])) t0).haltCause = 0x01 ∧
      (getThr (after (.add t0 3 1 2 1) (ready0 [(1, 5)])) t0).g = [(1, 5)] ∧
      (getThr (after (.cntSig t0 0 0x100) (ready0 [])) t0).haltCause = 0x01 ∧
      (getThr (after (.passFwd t0 1 0) (ready0 [])) t0).haltCause = 0x01 := by decide

/-- Four loads and eight stores outstanding. -/
def fullQueues : State :=
  let q : LoadReq := { rd := 7, bytes := 8, signed := false, va := 0, pa := 0x4000, val := 0, poison := false, live := true, fixed := false, pc := 0x3F0 }
  onThr (ready0 [(1, 0x4000)]) (fun x => { x with loads := [q, q, q, q], stores := List.replicate 8 { pa := 0x4000, bytes := 8 } })

theorem witness_LoadsAndStores_LoadsIssue :
    let s := ready0 [(1, 0x4000)]
    let w := wI 0x13 5 1 0
    let va := rdReg (getThr s t0) 1 + (0 : BitVec 16).signExtend 64
    let u := onThr s (fun x => { x with ue := 2 })
    canIssue s t0 = true ∧ needsLoad (getThr s t0) [1] = false ∧ fetched s t0 0 w = true ∧ isUe (getThr s t0) 1 = false ∧
      va.toNat % 8 = 0 ∧ (dataXlate s t0 w va 8 .r).1 = .at 0x4000 ∧ (getThr s t0).loads.length < 4 ∧
      canIssue u t0 = true ∧ needsLoad (getThr u t0) [1] = false ∧ isUe (getThr u t0) 1 = true ∧
      canIssue (farAll s) t0 = true ∧ (dataXlate (farAll s) t0 w va 8 .r).1 = .wait ∧
      (dataXlate (farPage s) t0 w 0x200000 8 .r).1 = .at 0x200000 ∧ isFar (farPage s) 0x200000 = true ∧
      canIssue fullQueues t0 = true ∧ needsLoad (getThr fullQueues t0) [1] = false ∧ isUe (getThr fullQueues t0) 1 = false ∧
      4 ≤ (getThr fullQueues t0).loads.length ∧ (dataXlate fullQueues t0 w va 8 .r).1 = .at 0x4000 := by decide +kernel

theorem witness_LoadsAndStores_StoresWrite :
    let s := ready0 [(1, 0x4000), (2, 7)]
    let w := wI 0x1B 2 1 0
    let va := rdReg (getThr s t0) 1 + (0 : BitVec 16).signExtend 64
    let u := onThr s (fun x => { x with ue := 4 })
    canIssue s t0 = true ∧ needsLoad (getThr s t0) [1, 2] = false ∧ fetched s t0 0 w = true ∧ isUe (getThr s t0) 1 = false ∧
      isUe (getThr s t0) 2 = false ∧ va.toNat % 8 = 0 ∧ (dataXlate s t0 w va 8 .w).1 = .at 0x4000 ∧ (getThr s t0).stores.length < 8 ∧
      isUe (onThr s (fun x => { x with ue := 2 }) |> (getThr · t0)) 1 = true ∧ (dataXlate (farAll s) t0 w va 8 .w).1 = .wait ∧
      isUe (getThr u t0) 1 = false ∧ isUe (getThr u t0) 2 = true ∧ (dataXlate u t0 w va 8 .w).1 = .at 0x4000 ∧
      canIssue fullQueues t0 = true ∧ needsLoad (getThr fullQueues t0) [1, 2] = false ∧ isUe (getThr fullQueues t0) 2 = false ∧
      8 ≤ (getThr fullQueues t0).stores.length ∧ (dataXlate fullQueues t0 w va 8 .w).1 = .at 0x4000 := by decide +kernel

theorem witness_LoadsAndStores_AccessFaults :
    let s := ready0 [(1, 0x1FF007), (2, 0x300000)]
    IssuesWord s t0 (wI 0x11 5 1 0) [1] = true ∧ IssuesWord s t0 (wI 0x19 5 1 0) [1, 5] = true ∧
      (rdReg (getThr s t0) 1).toNat % 2 ≠ 0 ∧ (rdReg (getThr s t0) 1).toNat % 4 ≠ 0 ∧ (rdReg (getThr s t0) 1).toNat % 8 ≠ 0 ∧
      IssuesWord s t0 (wI 0x13 5 2 0) [2] = true ∧ IssuesWord s t0 (wI 0x1B 5 2 0) [2, 5] = true ∧
      (rdReg (getThr s t0) 2 + 0).toNat % 8 = 0 ∧ (dataXlate s t0 (wI 0x13 5 2 0) (rdReg (getThr s t0) 2 + 0) 8 .r).1 = .no ∧
      (dataXlate s t0 (wI 0x1B 5 2 0) (rdReg (getThr s t0) 2 + 0) 8 .w).1 = .no := by decide +kernel

theorem test_store_then_load :
    let s := ready0 [(1, 0x4000), (2, 0x1122334455667788)]
    let u := after (.stD t0 2 1 0) s
    memWord u 0x4000 = 0x1122334455667788 ∧ memByte u 0x4000 = 0x88 ∧ memByte u 0x4008 = 0 ∧
      ((getThr (after (.ldS8 t0 5 1 0) u) t0).loads.map (·.val)) = [] ∧
      ((getThr (after (.ldS8 t0 5 1 0) (withWords s 0x4000 [0x88])) t0).loads.map (·.val)) = [0xFFFFFFFFFFFFFF88] := by decide +kernel

theorem test_misaligned_load : (getThr (after (.ldD t0 5 1 1) (ready0 [(1, 0x4000)])) t0).haltCause = 0x04 := by decide +kernel

theorem witness_ControlTransfers_BranchTargets : IssuesWord (ready0 [(1, 1)]) t0 (wI 0x20 1 2 0xFFFF) [1, 2] = true := by decide

theorem witness_ControlTransfers_JumpsAndCalls :
    let s := ready0 [(1, 0x1000), (2, 0x1001), (31, 0x800)]
    IssuesWord s t0 (wJ 0x26 2) [] = true ∧ IssuesWord s t0 (wJ 0x28 2) [] = true ∧ IssuesWord s t0 (wI 0x27 3 1 0) [1] = true ∧
      (rdReg (getThr s t0) 1 + 0).toNat % 4 = 0 ∧ IssuesWord s t0 (wI 0x29 0 2 0) [2] = true ∧ (rdReg (getThr s t0) 2 + 0).toNat % 4 ≠ 0 ∧
      IssuesWord s t0 (wI 0x2A 0 0 0) [31] = true ∧ (rdReg (getThr s t0) 31).toNat % 4 = 0 ∧
      IssuesWord (ready0 [(31, 2)]) t0 (wI 0x2A 0 0 0) [31] = true ∧ (rdReg (getThr (ready0 [(31, 2)]) t0) 31).toNat % 4 ≠ 0 := by decide

theorem test_call_links :
    (getThr (after (.call t0 2) (ready0 [])) t0).pc = 0x408 ∧ rdReg (getThr (after (.call t0 2) (ready0 [])) t0) 31 = 0x404 := by
  decide

theorem witness_SystemGroupResults :
    let s := ready0 [(1, 7)]
    let q := onThr s (fun x => { x with stores := [{ pa := 0x4000, bytes := 8 }] })
    IssuesWord s t0 (wS 0x00 0 0 0) [] = true ∧ (getThr s t0).loads = [] ∧ (getThr s t0).stores = [] ∧
      IssuesWord q t0 (wS 0x00 0 0 0) [] = true ∧ (getThr q t0).stores ≠ [] ∧ IssuesWord s t0 (wS 0x01 0 0 0) [] = true ∧
      IssuesWord s t0 (wS 0x02 0 0 0) [] = true ∧ IssuesWord q t0 (wS 0x02 0 0 0) [] = true ∧
      (IssuesWord s t0 (wS 0x04 5 0 0x03) [] = true ∧ (0x03 : BitVec 8).toNat < 0x10 ∧ statusReg s t0 0 0x03 = some 0) ∧
      (IssuesWord s t0 (wS 0x03 0 0 127) [1] = true ∧ (127 : BitVec 8).toNat < 128 ∧ s.perf.ctl = [] ∧ s.repQ.length < 16 ∧
        IssuesWord s t0 (wS 0x03 0 0 128) [1] = true ∧ 128 ≤ (128 : BitVec 8).toNat) ∧
      (IssuesWord s t0 (wS 0x05 0 2 0) [2] = true ∧ (rdReg (getThr s t0) 2).toNat ≤ s.beat.count.toNat) ∧
      IssuesWord s t0 (wS 0x05 0 1 0) [1] = true ∧ s.beat.count.toNat < (rdReg (getThr s t0) 1).toNat := by decide

theorem witness_StatusRegisters_StatusRegisterValues : (0 : Nat) < 16 ∧ base.fuse.activeGroups ≤ 64 := by decide

theorem witness_StatusRegisters_PerfCounterReads :
    let s := { ready0 [] with perf := { ctl := [(3, 0x01001000)] } }
    let w := wS 0x04 5 0 (BitVec.ofNat 8 (0x10 + 3))
    IssuesWord s t0 w [] = true ∧ (∀ kc ∈ s.perf.ctl, perfMatches kc.2 0x060 (srcThread (getThr s t0) t0 w) = false) ∧
      (perfUser s 0 = true ∧ (Tab.get 0 s.perf.ctl 3).getLsbD 24 = true ∧ bits (Tab.get 0 s.perf.ctl 3) 23 20 = 0) ∧
      ¬ (perfUser s 0 = true ∧ (Tab.get 0 s.perf.ctl 4).getLsbD 24 = true ∧ bits (Tab.get 0 s.perf.ctl 4) 23 20 = 0) ∧
      s.repQ.length < 16 := by decide +kernel

theorem witness_SpanInstructionsOffered_SlotStatWaits : IssuesWord (ready0 []) t0 (wX 0x31 0 4 0) [] = true ∧ fRA 0 = 0 ∧ fRC 0 = 0 := by decide

theorem test_srr_denied : (getThr (after (.srr t0 5 0 0x14) (ready0 [])) t0).haltCause = 0x02 := by decide +kernel

/-- R193: a command that is not the word its thread has fetched is not issued. -/
theorem test_other_word_waits :
    let s := ready0 [(1, 5)]
    let c := setCore s 0 { getCore s 0 with icache := [{ lease := 0, line := 16, bytes := leBytes 4 (wI 0x01 3 1 7).toNat }] }
    getThr (after (.addk t0 3 1 8) c) t0 = getThr c t0 ∧ rdReg (getThr (after (.addk t0 3 1 7) c) t0) 3 = 12 := by decide +kernel

/-! ## Span instructions and counters -/

theorem witness_SpanInstructionsOffered :
    let s := ready0 [(1, 0x4000)]
    let f : BitVec 20 := 0x08000
    IssuesWord s t0 (wX 0x37 1 0 f) [1, 0, 0, 0] = true ∧ fetched s t0 1 0x100 = true ∧ fetched s t0 2 0 = true ∧
      IssuesWord s t0 (wX 0x33 0 4 f) [fRA f, fRB f, fRC f, 0] = true ∧ bits (0x08000 : BitVec 20) 2 0 = 0 ∧ fRB f = 0 ∧
      bits (0x10 : BitVec 32) 31 8 = 0 ∧ fRC f = 0 ∧
      (bits (0x00110001 : BitVec 32) 15 13 = 0 ∧ bits (0x00110001 : BitVec 32) 12 0 ≠ 0 ∧ bits (0x00110001 : BitVec 32) 22 20 ≠ 0 ∧
        bits (0x00110001 : BitVec 32) 19 16 ≠ 0) ∧ fRA 0 = 0 ∧ fLow f = 0 ∧
      (bits (0x105 : BitVec 32) 31 9 = 0 ∧ sigOk 0x105 = true) ∧
      (bits (0x505 : BitVec 32) 31 12 = 0 ∧ bits (0x505 : BitVec 32) 9 9 = 0 ∧ sigOk 0x505 = true) ∧
      (bits (0x1105 : BitVec 32) 11 9 = 0 ∧ sigOk 0x1105 = true) ∧
      (bits (0x00030105 : BitVec 32) 31 24 = 0 ∧ bits (0x00030105 : BitVec 32) 15 9 = 0 ∧ sigOk 0x00030105 = true) ∧
      chainOk 0 0 = true ∧ IssuesWord s t0 (wX 0x31 0 1 0) [0, 0, 0, 0] = true := by decide

theorem test_span_offer :
    let u := after (.vecAdd t0 1 0x08000 0x100) (ready0 [(1, 0x4000)])
    ((getCore u 0).offers.map (fun i => (i.op, i.a, i.w1, i.pc))) = [(.vec 0, 0x4000, 0x100, 0x400)] ∧
      (getThr u t0).pc = 0x408 := by decide +kernel

/-- A counter of capacity 10 that has produced 6 and consumed 4. -/
def withCnt (s : State) : State := setCnt s 9 { p := 6, c := 4, cap := 10 }

theorem witness_CounterInstructions :
    let s := withCnt (ready0 [(1, 3)])
    let c := getCnt s 9
    Issues s t0 [] = true ∧ Issues s t0 [1] = true ∧ cntInRange s 0 9 = true ∧ (∀ n : Fin 7, fetched s t0 0 (wX 0x3B 0 (BitVec.ofNat 4 n.val) (cntFields 0 8 true 9)) = true) ∧ (8 : Word) ≠ 0 ∧ c.p.toNat + 8 < 2 ^ 64 ∧
      c.p.toNat + 8 - c.c.toNat ≤ c.cap.toNat ∧ (2 : Word).toNat ≤ c.p.toNat - c.c.toNat ∧ (2 : Word).toNat ≤ c.cap.toNat ∧
      (10 : Word).toNat ≤ c.cap.toNat ∧ c.p.toNat - c.c.toNat < (3 : Word).toNat ∧ capOk s 9 2 = true := by decide +kernel

theorem test_counter_instructions :
    let s := withCnt (ready0 [(1, 3)])
    (getCnt (after (.cntSig t0 0 (cntFields 0 8 true 9)) s) 9).p = 14 ∧
      (getCnt (after (.cntTake t0 0 (cntFields 0 2 true 9)) s) 9).c = 6 ∧
      (getThr (after (.cntWait t0 0 (cntFields 0 3 true 9)) s) t0).reason = .counter ∧
      rdReg (getThr (after (.cntRdp t0 0 (cntFields 7 0 true 9)) s) t0) 7 = 6 ∧
      (getThr (after (.cntSig t0 0 (cntFields 0 9 true 9)) s) t0).haltCause = 0x08 ∧
      (getThr (after (.cntTake t0 0 (cntFields 0 3 true 9)) s) t0).haltCause = 0x07 ∧
      (getThr (after (.cntSig t0 0 (cntFields 0 1 true 200)) s) t0).haltCause = 0x02 := by decide +kernel

theorem witness_CounterFaults :
    let s := withCnt (ready0 [])
    let c := getCnt s 9
    Issues s t0 [] = true ∧ (∀ n : Fin 7, fetched s t0 0 (wX 0x3B 0 (BitVec.ofNat 4 n.val) (cntFields 0 8 true 9)) = true) ∧ cntInRange s 0 192 = false ∧ cntInRange s 0 191 = true ∧ cntInRange s 0 9 = true ∧
      c.cap.toNat < c.p.toNat + (9 : Word).toNat - c.c.toNat ∧ c.p.toNat - c.c.toNat < (3 : Word).toNat ∧
      c.cap.toNat < (11 : Word).toNat ∧ (1 : Word).toNat < c.p.toNat - c.c.toNat ∧
      2 ^ 64 ≤ (getCnt (setCnt s 9 { p := 0xFFFFFFFFFFFFFFFF, c := 0xFFFFFFFFFFFFFFFE, cap := 10 }) 9).p.toNat + 1 ∧
      2 ^ 32 ≤ (0x100000000 : Word).toNat := by decide +kernel

theorem witness_CounterDebugView :
    let s := withCnt (ready0 [])
    let c := getCnt s 9
    s.eng.scrubDone = true ∧ stopping s = false ∧ c.p.toNat + 8 - c.c.toNat ≤ c.cap.toNat ∧ c.p.toNat + 8 < 2 ^ 64 ∧
      c.cap.toNat < c.p.toNat + 9 - c.c.toNat ∧
      ((0x60000000A : Word).getLsbD 33 = true ∧ (0x60000000A : Word).getLsbD 34 = true ∧ fld (0x60000000A : Word) 0 32 = c.cap) ∧
      ((2 : Word).getLsbD 33 = false ∧ (2 : Word).getLsbD 34 = false ∧ fld (2 : Word) 0 32 ≠ c.cap ∧
        capOk s 9 ((2 : Word) &&& 0xFFFFFFFF) = true ∧ capOk s 9 ((1 : Word) &&& 0xFFFFFFFF) = false) ∧
      cntOwner s 9 ≠ none ∧ hwNow s .span (0x20010 + 32 * 9) = 0 ∧
      (let h := { s with hw := [⟨.span, 0x20010 + 32 * 9, 2 ^ 33, s.now⟩] }
       h.eng.scrubDone = true ∧ hwNow h .span (0x20010 + 32 * 9) = 2 ^ 33 ∧ fld (10 : Word) 0 32 = (getCnt h 9).cap) ∧
      (let r := { s with lease := {} }
       cntOwner r 9 = none ∧ c.c.toNat ≤ (14 : Word).toNat ∧ (14 : Word).toNat - c.c.toNat ≤ c.cap.toNat ∧
         (0 : Word).toNat ≤ c.p.toNat ∧ c.p.toNat - (0 : Word).toNat ≤ c.cap.toNat) := by decide +kernel

theorem test_counter_capacity_refused : (getCnt (after (.cntCfg 9 1) (withCnt (ready0 []))) 9).capRefused = true := by decide +kernel

/-! ## The crossing, waits, placement, host control of threads -/

/-- A VEC.ADD of lease 0 that signals counter `n`, with its descriptor at 0x4000. -/
def vecI (u n : Nat) : SpanI :=
  { u := u, op := .vec 0, lease := 0, th := t0, inst := 0, pc := 0x400, w0 := wX 0x37 1 0 0x08000
    w1 := BitVec.ofNat 32 (0x100 + n), w2 := 0, a := 0x4000, b := 0, c := 0, d := 0, root := 0x1000 }

/-- `ready0` with a VEC.ADD offered by core 0, and others in the VECTOR queue. -/
def offered (n q : Nat) : State :=
  { setCore (ready0 []) 0 { offers := [vecI 0 n] } with instrs := List.replicate q (vecI 1 9) }

/-- A SLOT.STAT of lease 0 on slot 3 into g5, offered by core 0. -/
def statI : SpanI :=
  { vecI 0 9 with op := .slotStat, w0 := wX 0x31 0 4 (0x01403 : BitVec 20), w1 := 0 }
def statOffered : State :=
  let s := ready0 []
  onThr (setCore s 0 { getCore s 0 with offers := [statI] }) (fun x => { x with st := .waiting, reason := .load })

theorem witness_CrossingOutcomes :
    stopping (offered 9 0) = false ∧ arbitrate (offered 9 0) = some (0, vecI 0 9) ∧ crossFault (offered 9 0) (vecI 0 9) = none ∧
      rearmBusy (offered 9 0) (vecI 0 9) = false ∧ (vecI 0 9).sure = false ∧ queueRoom (offered 9 0) 3 0 = true ∧
      arbitrate (offered 9 18) = some (0, vecI 0 9) ∧ crossFault (offered 9 18) (vecI 0 9) = none ∧
      queueRoom (offered 9 18) 3 0 = false ∧ (offered 9 18).mc.sends = [] ∧
      (∀ j ∈ (offered 9 18).instrs, queueOf j.op ≠ 2 ∧ queueOf j.op ≠ 4) ∧ issuer (offered 9 18) (vecI 0 9) = some t0 ∧
      arbitrate (offered 192 0) = some (0, vecI 0 192) ∧ crossFault (offered 192 0) (vecI 0 192) ≠ none ∧
      issuer (offered 192 0) (vecI 0 192) = some t0 ∧
      (stopping statOffered = false ∧ arbitrate statOffered = some (0, statI) ∧ crossFault statOffered statI = none ∧
        statI.op = .slotStat ∧ statOffered.mc.sends = [] ∧ statOffered.instrs = [] ∧ issuer statOffered statI = some t0) := by decide +kernel

/-- R227: the slot's word comes back into RD at the crossing, and the thread goes on. -/
theorem test_slot_stat_crosses :
    let u := after .instructionCrossing { statOffered with gir := { statOffered.gir with slots := [(3, { st := .active })] } }
    rdReg (getThr u t0) 5 = (slotStat { st := .active }).setWidth 64 ∧ rdReg (getThr u t0) 5 ≠ 0 ∧ (getThr u t0).pc = 0x404 ∧
      (getRt u 0).seq = (getRt base 0).seq + 1 := by decide +kernel

theorem test_crossing :
    (after .instructionCrossing (offered 9 0)).instrs.length = 1 ∧
      (getThr (after .instructionCrossing (offered 9 18)) t0).reason = .queue ∧
      (getThr (after .instructionCrossing (offered 192 0)) t0).haltCause = 0x02 := by decide +kernel

/-- `base` with thread 0 of core 0 waiting. -/
def waits (r : WaitReason) (arg amount : Word) (a : AfterWait) : State :=
  { base with thr := [(0, { pc := 0x400, st := .waiting, reason := r, arg := arg, amount := amount, after := a })] }

/-- An outstanding load of 8 bytes from 0x4000 into g5. -/
def ld5 : LoadReq := ⟨5, 8, false, 0x4000, 0x4000, 7, false, true, true, 0x3FC, 0, none⟩
/-- An outstanding store of 8 bytes at 0x4000. -/
def st8 : StoreReq := { pa := 0x4000, bytes := 8 }

theorem witness_WaitsEnd :
    queueFree (waits .queue 0 3 .resume) 0 3 = true ∧ (getThr (waits .queue 0 3 .resume) t0).reason = .queue ∧
      (getThr (waits .yield 0 0 .resume) t0).reason = .yield ∧
      (getThr (onThr (ready0 []) (fun x => { x with loads := [ld5] })) t0).loads = [ld5] ∧ ld5.live = true ∧ ld5.fixed = true ∧
      ld5.far = none ∧ st8.far = none ∧ loadPoisoned (onThr (ready0 []) (fun x => { x with loads := [ld5] })) ld5 = false ∧
      loadPoisoned (onThr (ready0 []) (fun x => { x with loads := [{ ld5 with poison := true }] })) { ld5 with poison := true } = true ∧
      (getThr (onThr (waits .fence 0 0 .leave) (fun x => { x with stores := [st8] })) t0).stores = [st8] ∧
      ({ ld5 with far := some 3 } : LoadReq).far.isSome = true ∧ ({ st8 with far := some 3 } : StoreReq).far.isSome = true := by decide +kernel

theorem witness_WaitsEnd_fetch :
    (let s := waits .fetch 0 0 .resume
     let r := codeXlate s t0 0x400 0
     missingLine s t0 = some 16 ∧ r.1 = .at 0x400 ∧ inMap r.2 0x400 64 = true ∧ farWaits r.2 0 0x400 64 = false ∧ cutOff r.2 0x400 64 = false) ∧
      (let s := farPage (onThr (waits .fetch 0 0 .resume) (fun x => { x with pc := 0x200000 }))
       let r := codeXlate s t0 0x200000 0
       missingLine s t0 = some 0x8000 ∧ r.1 = .at 0x200000 ∧ inMap r.2 0x200000 64 = true ∧ farWaits r.2 0 0x200000 64 = true) ∧
      (codeXlate (farAll (waits .fetch 0 0 .resume)) t0 0x400 0).1 = .wait ∧
      (let n := { waits .fetch 0 0 .resume with mem := Tab.set 0 tables 0x3000 0x0F }
       missingLine n t0 = some 16 ∧ (codeXlate n t0 0x400 0).1 = .no) := by decide +kernel

theorem test_load_returns :
    rdReg (getThr (after (.loadReturn t0) (onThr (ready0 []) (fun x => { x with loads := [ld5] }))) t0) 5 = 7 := by decide +kernel

/-- No thread but `t0` is other than a free one in a state that lists only `t0`. -/
theorem getThr_other (s : State) (x : Thread) (h : s.thr = [(0, x)]) (k : ThreadId) (hk : k ≠ t0) : getThr s k = {} := by
  have h0 : 0 ≠ thrKey k := by
    intro h0
    apply hk
    obtain ⟨⟨c, hc⟩, ⟨n, hn⟩⟩ := k
    simp only [thrKey] at h0
    have : c = 0 ∧ n = 0 := by omega
    obtain ⟨rfl, rfl⟩ := this
    rfl
  simp [getThr, h, Tab.get, h0]

theorem witness_WaitsEnd_CounterWaitEnds :
    let s := withCnt (waits .counter 9 2 .take)
    ((getThr s t0).st = .waiting ∧ (getThr s t0).reason = .counter ∧ bits (getThr s t0).arg 7 0 = (9 : Fin 192).val ∧
      (getThr s t0).amount ≠ 0 ∧ (getThr s t0).amount.toNat ≤ (getCnt s 9).p.toNat - (getCnt s 9).c.toNat) ∧
      ∀ k, k ≠ t0 → ¬ ((getThr s k).st = .waiting ∧ (getThr s k).reason = .counter ∧ bits (getThr s k).arg 7 0 = 9) := by
  intro s
  refine ⟨by decide +kernel, fun k hk => ?_⟩
  rw [getThr_other s _ rfl k hk]
  decide

/-- Two threads that wait to take 2 from counter 9, which holds 2. -/
def twoWait : State :=
  let s := withCnt (waits .counter 9 2 .take)
  { s with thr := s.thr ++ [(1, { getThr s t0 with inst := 1 })] }

theorem witness_WaitsEnd_CounterWaitEnds_two :
    let k : ThreadId := ⟨0, 1⟩
    ((getThr twoWait t0).st = .waiting ∧ (getThr twoWait k).st = .waiting ∧ (getThr twoWait k).reason = .counter ∧
      bits (getThr twoWait k).arg 7 0 = 9 ∧ thrKey t0 < thrKey k ∧ (getThr twoWait t0).after = .take ∧ (getThr twoWait k).after = .take ∧
      (getCnt twoWait 9).p.toNat - (getCnt twoWait 9).c.toNat < (getThr twoWait t0).amount.toNat + (getThr twoWait k).amount.toNat) ∧
      ∀ j ∈ allThreads, j ≠ t0 → j ≠ k → (getThr twoWait j).st = .free := by decide +kernel

theorem test_counter_wait_takes :
    let u := after (.counterWaitEnd 9) (withCnt (waits .counter 9 2 .take))
    (getCnt u 9).c = 6 ∧ (getThr u t0).pc = 0x404 := by decide +kernel

/-- A task of lease 0 that takes 1 from counter 9. -/
def task9 : Task := ⟨0x400, #v[1, 2, 3, 4], true, 1, 9⟩

theorem witness_TaskPlacement :
    let s := withCnt (setRt base 0 { tasks := [task9] })
    stopping s = false ∧ waitingFrames s = none ∧ nextCandidate s = some (0, 0) ∧ allThreads.find? (freeThread s) = some t0 ∧
      (getRt s 0).tasks[0]? = some task9 ∧ task9.amount ≠ 0 := by decide +kernel

theorem test_task_arguments :
    let u := after .taskPlacement (withCnt (setRt base 0 { tasks := [task9] }))
    (List.range 6).map (fun r => rdReg (getThr u t0) (BitVec.ofNat 5 r)) = [0, 1, 2, 3, 4, 0] ∧ (getCnt u 9).c = 5 := by
  decide +kernel

theorem witness_ThreadLimitCut :
    (let s := { withCnt (setRt (ready0 []) 0 { tasks := [task9] }) with
                lease := { (setRt (ready0 []) 0 { tasks := [task9] }).lease with
                           active := Tab.set 0 leaseZero 1 0x1000C00080018100 } }
     threadLimit s 0 ≤ threadsHeld s 0 ∧ (waitingFrames s).bind (restoreFrame s) = none) ∧
      (let s := withCnt (setRt base 0 { tasks := [task9] })
       threadsHeld s 0 < threadLimit s 0 ∧ (getRt s 0).tasks[0]? = some task9 ∧ task9.enable = true ∧ taskLive s 0 0 = false ∧
         lstate s 0 = .resident ∧ (getRt s 0).saving = false ∧ task9.amount.toNat ≤ avail (getCnt s task9.cnt.toNat)) := by
  decide +kernel

/-- `base` with thread 0 of core 0 halted. -/
def haltedBy (k : HaltKind) : State := { base with thr := [(0, { pc := 0x400, st := .halted, haltCause := 3, haltKind := k })] }

theorem witness_ThreadControl :
    ((haltedBy .precise).eng.scrubDone = true ∧ (getThr (haltedBy .precise) t0).st = .halted ∧
      (getThr (haltedBy .precise) t0).haltKind = .precise ∧
      cachedWord (getCore (haltedBy .precise) 0) (getThr (haltedBy .precise) t0).lease 0x400 = none ∧ (31 : BitVec 5) ≠ 0 ∧
      (0x404 : Word).toNat % 4 = 0 ∧ (0x402 : Word).toNat % 4 ≠ 0) ∧
      ((haltedBy .trap).eng.scrubDone = true ∧ (getThr (haltedBy .trap) t0).st = .halted ∧ (getThr (haltedBy .trap) t0).haltKind = .trap) ∧
      ((haltedBy .imprecise).eng.scrubDone = true ∧ (getThr (haltedBy .imprecise) t0).st = .halted ∧
        (getThr (haltedBy .imprecise) t0).haltKind = .imprecise) ∧
      ((ready0 []).eng.scrubDone = true ∧ (getThr (ready0 []) t0).st ≠ .free ∧ (getThr (ready0 []) t0).stores = [] ∧
        (getThr (ready0 []) t0).st ≠ .halted) ∧
      (let s := onThr (ready0 []) (fun x => { x with stores := [st8] })
       s.eng.scrubDone = true ∧ (getThr s t0).st ≠ .free ∧ (getThr s t0).stores ≠ []) := by decide

theorem test_thread_control :
    (getThr (after (.threadResume t0) (haltedBy .precise)) t0).st = .waiting ∧
      (getThr (after (.threadRestart t0) (haltedBy .imprecise)) t0).st = .waiting ∧
      (getThr (after (.threadResume t0) (haltedBy .trap)) t0).refused = true ∧
      (getThr (after (.threadSkip t0) (haltedBy .trap)) t0).pc = 0x404 ∧
      (getThr (after (.threadKill t0) (ready0 [])) t0).st = .free ∧
      rdReg (getThr (after (.threadFrameWrite t0 0x0F0 5) (haltedBy .precise)) t0) 31 = 5 := by decide +kernel

/-! ## The array -/

/-- A PASS.FWD descriptor: K 32, N 1, M 1, one block of 32, no folds, slot 3, counter 9. -/
def passD : List Word := [0, 0, 0, 0, 0x0000002000010001, 0x10000, 0x0004418000000009, 0]

/-- A PASS.FWD of lease 0 with its descriptor at 0x4000, and its AO form with `ao` 0x10. -/
def passI (ao a : Nat) : SpanI :=
  { u := 1, op := .passFwd, lease := 0, th := t0, inst := 0, pc := 0x400, w0 := wX 0x30 0 0 (BitVec.ofNat 20 (0x08000 + ao))
    w1 := 0, w2 := 0, a := BitVec.ofNat 64 a, b := 0, c := 0, d := 0, root := 0x1000 }

/-- `ready0` with the descriptor in memory and instructions in the span. -/
def withPass (is : List SpanI) : State := { withWords (ready0 []) 0x4000 passD with instrs := is }

/-- What `OwnWrites` asks, where no status word is to be written. -/
theorem ownWrites_of (s : State) (i : SpanI) (h : writesOut s i.u = false ∧ i.statusPa = none) : OwnWrites s i :=
  ⟨h.1, fun a ha => by rw [h.2] at ha; cases ha⟩

/-- The words a read of a descriptor gives; none where it fails. -/
def okWords (r : Except MemErr (List Word) × State) : List Word := match r.1 with | .ok d => d | .error _ => []

/-- A PASS.PAIR of two descriptors, and a DRAIN, of lease 0. -/
def pairI (ao a b : Nat) : SpanI :=
  { passI ao a with op := .passPair, w0 := wX 0x30 1 3 (BitVec.ofNat 20 (0x08000 + ao)), w1 := 0x10, b := BitVec.ofNat 64 b }
def drainD : List Word := [0, 0, 0, 0, 0, 0, 0, 0, 0x1800000000000000, 0x0100000000000009, 0x0000000100000001, 0, 0, 0, 0, 0]
def drainQ (ao a : Nat) : SpanI := { passI ao a with op := .drain, w0 := wX 0x32 0 0 (BitVec.ofNat 20 (0x08000 + ao)) }
def pairD : List Word := [0, 0, 0, 0, 0x0000002000010001, 0x10000, 0x000462000000000A, 0]
def withPair (i : SpanI) : State := { withWords (withWords (ready0 []) 0x4000 passD) 0x4040 pairD with instrs := [i] }
def withDrain (i : SpanI) : State := { withWords (ready0 []) 0x4080 drainD with instrs := [i] }

theorem test_descriptor_arrives :
    ((getInstr (after (.descriptorArrive 1) (withPass [passI 0 0x4000])) 1).map (fun j => (j.ready, j.desc))) = some (true, passD) ∧
      ((getInstr (after (.descriptorArrive 1) (withPair (pairI 0 0x4000 0x4040))) 1).map (fun j => (j.ready, j.desc2))) = some (true, pairD) ∧
      ((getInstr (after (.descriptorArrive 1) (withDrain (drainQ 0 0x4080))) 1).map (fun j => (j.ready, j.desc))) = some (true, drainD) ∧
      (let u := after (.descriptorArrive 1) (withDrain (drainQ 0 0x4040))
       getInstr u 1 = none ∧ (getThr u t0).st = .halted ∧ (u.repQ.map (fun r => (r.cause, r.detail0, r.detail1))) = [(0x03, 3, 0x4040)]) := by
  decide +kernel

theorem witness_PassTakesArray_DescriptorArrival :
    (let s := withPass [passI 0 0x4000]
     let i := passI 0 0x4000
     getInstr s 1 = some i ∧ unitTakes s i = true ∧ isPass i.op = true ∧ i.op ≠ .passPair ∧ i.a.toNat % 64 = 0 ∧
       okWords (readDesc s (accI i) i.a 64 (isReload i)) = passD ∧ passVerdict i passD [] = .ok ∧ isAO i = false ∧ i.desc2 = []) ∧
      (let i := passI 0x10 0x4000
       let s := withPass [i]
       getInstr s 1 = some i ∧ isAO i = true ∧ unitTakes s i = true ∧ okWords (readDesc s (accI i) i.a 64 (isReload i)) = passD ∧
         passVerdict i passD [] = .ok) ∧
      (let i := passI 0 0x4004
       unitTakes (withPass [i]) i = true ∧ i.a.toNat % 64 ≠ 0 ∧ instThread (withPass [i]) 0 0 = some t0) := by decide +kernel

theorem witness_PassTakesArray_DescriptorArrival_pair :
    (∀ ao ∈ [0, 0x10],
      let i := pairI ao 0x4000 0x4040
      let s := withPair i
      let r := readDesc s (accI i) i.a 64 (isReload i)
      getInstr s 1 = some i ∧ unitTakes s i = true ∧ i.op = .passPair ∧ i.a.toNat % 64 = 0 ∧ i.b.toNat % 64 = 0 ∧
        okWords r = passD ∧ okWords (readDesc r.2 (accI i) i.b 64 (isReload i)) = pairD ∧ passVerdict i passD pairD = .ok ∧
        isAO i = decide (ao ≠ 0)) ∧
      (∀ ab ∈ [(0x4004, 0x4040), (0x4000, 0x4044)],
        let i := pairI 0 ab.1 ab.2
        unitTakes (withPair i) i = true ∧ (i.a.toNat % 64 ≠ 0 ∨ (i.a.toNat % 64 = 0 ∧ i.b.toNat % 64 ≠ 0))) := by decide +kernel

theorem witness_PassTakesArray_DescriptorArrival_drain :
    (∀ ao ∈ [0, 0x10],
      let i := drainQ ao 0x4080
      let s := withDrain i
      getInstr s 1 = some i ∧ unitTakes s i = true ∧ i.op = .drain ∧ i.a.toNat % 128 = 0 ∧
        okWords (readDesc s (accI i) i.a 128 (isReload i)) = drainD ∧ drainStatic drainD (!isAO i && statusSkew i) i.a = .ok ∧
        isAO i = decide (ao ≠ 0)) ∧
      (let i := drainQ 0 0x4040
       unitTakes (withDrain i) i = true ∧ i.a.toNat % 128 ≠ 0) := by decide +kernel

/-- A page tag of FP8 elements in blocks of 32. -/
def tag8 (axis : Bool) : PageTag := { valid := true, fmt := 1, axis := axis, p := 32, rows := 32, cols := 32, validRows := 32, validCols := 32 }

/-- The pass with its descriptor, and a state in which it may take the array. -/
def passR : SpanI := { passI 0 0x4000 with stage := .taken, ready := true, desc := passD }
def mayPass : State :=
  { withPass [passR] with
    gir := { base.gir with slots := [(3, { st := .open, segs := [0], cols := 512 })], segFree := 0xFFFFFFFFFFFFFFFE }
    store := { tags := [(0, tag8 false), (4096, tag8 true)] } }

theorem witness_PassTakesArray :
    let s := mayPass
    let i := passR
    getInstr s 1 = some i ∧ isPass i.op = true ∧ isAO i = false ∧ i.ready = true ∧ i.stage ≠ .running ∧ takes s i.lease = true ∧
      passHeld s i = false ∧ slotsClear s i ((opSlots s i).getD []) = true ∧ passUnderWay s i = false ∧ standsNext s = some i.lease ∧
      s.arr.run = none ∧ arrayOut s = false ∧ statusWaits s i = false ∧ (passPlan s i).1.1 = .ok ∧
      (∀ p ∈ (passPlan s i).1.2, partN p ≠ 0) ∧ (passPlan s i).1.2 ≠ [] ∧
      (let j := { i with mask := some (planMask (passPlan s i).1.2) }
       (armStatus (putInstr (passPlan s i).2 j) j).1 = false) ∧
      (∀ p ∈ (passPlan s i).1.2, (getSlot s p.slot).st ≠ .spilled) := by decide +kernel

/-- The pass as it runs, with its stop and its starvation. -/
def running (f : PassRun → PassRun) : State :=
  let s := after (.passStart 1) mayPass
  { s with arr := { s.arr with run := s.arr.run.map f } }

theorem test_pass_starts : ((running id).arr.run.map (fun r => (r.u, r.t, r.q, runTotal r, edgeGoal r))) = some (1, 0, 0, 1, 1) := by
  decide +kernel

/-- The first period has been sent. -/
def underWay : State := after (.elementPeriod false false) (running id)

theorem witness_ElementPeriodsAndIntervals_ElementPeriods :
    (let s := underWay
     (s.arr.run.bind nextPart).map (fun x => (x.1, x.2.2)) = some (0, 0) ∧
       (s.arr.run.any (fun r => decide (r.t < edgeGoal r) && decide (r.q ≠ 0) &&
         (nextPart r).any (fun x => decide (r.q + 1 < x.2.1.p)))) = true ∧
       s.arr.run.any (fun r => takesMade r && !bankStall s r) = true ∧ throttleLevel s ≤ bitrev4 s.arr.phase) ∧
      (let s := { underWay with mon := { hostFloor := 15 }, arr := { underWay.arr with phase := 0 } }
       (s.arr.run.any (fun r => decide (r.t < edgeGoal r) && takesMade r && (nextPart r).isSome)) = true ∧ bitrev4 s.arr.phase < throttleLevel s) := by decide +kernel

/-- The pass with its one interval sent. -/
def sentAll : State :=
  { underWay with arr := { underWay.arr with run := underWay.arr.run.map (fun r =>
      { r with t := 1, first := 0, q := 0, times := [(0, (List.range 32).map (fun k => 4 * k))], sent := 128 }) } }

theorem witness_ElementPeriodsAndIntervals_IntervalEnds :
    (sentAll.arr.run.any (fun r => mayEnd r 0 && decide (r.stop = none) && !diagonalStall sentAll r 0 &&
        !(errorCells sentAll r 0 (r.counts.getD 0 0) [(0, 0)]).isEmpty)) = true := by decide +kernel

theorem witness_ElementPeriodsAndIntervals_PromotionWrites :
    sentAll.arr.run.any (fun r => r.parts.any (fun p =>
      let x := getSlot sentAll p.slot
      let c := Tab.get {} r.blocks 0
      mayEnd r 0 && !diagonalStall sentAll r 0 && decide (r.counts.getD 0 0 = 0) && decide (r.parts[(runSched r 0).1]? = some p) &&
        decide (x.fr = p.fr ∧ x.fc = p.fc ∧ p.fr = 1 ∧ p.fc = 1 ∧ x.segs = [0]) && (diagonal r.groups 0).contains (0, 0) &&
        decide (0 < p.rows ∧ 0 < p.cols) && (bandBlock p (runSched r 0).2 0).isSome && rowOk p 0 && (Tab.get {} c.west 0).live &&
        !suppressed r 0 0 0 && decide ((getEnt sentAll 0 0).chk = 0) && !x.poisonRows.getLsbD 0)) = true := by decide +kernel

theorem test_interval_end_commits :
    ((after (.intervalEnd 0 []) sentAll).arr.run.map (fun r => (r.counts.getD 0 0, r.counts.getD 1 0))) = some (1, 0) ∧
      ((after (.intervalEnd 0 [(0, 0)]) sentAll).arr.run.map (fun r => (r.counts.getD 0 0, r.stop))) = some (0, some .fault) := by
  decide +kernel

/-- The run of `mayPass`, held by its lease after it gave the array up. -/
def heldRun (s : State) : Option PassRun := s.arr.run.map (fun r => { r with stop := some .abandon })

theorem witness_PassStopsAndResumes :
    (let s := running (fun r => { r with stop := some .fault })
     s.arr.run.any (fun r => decide (r.lease = 0 ∧ r.stop = some .fault)) = true ∧ takes s 0 = true ∧ s.store.badWest = [] ∧
       s.store.badNorth = []) ∧
      (let r := running id
       let s := setRt { r with arr := { warm := true } } 0 { getRt r 0 with held := heldRun r }
       s.arr.run = none ∧ (heldReady s 0).isSome = true ∧ standsNext s = some 0 ∧ arrayOut s = false ∧
         ((heldReady s 0).all (fun r => r.parts.all (fun p => decide ((getSlot s p.slot).st ≠ .spilled)))) = true) ∧
      ((running (fun r => { r with starved := 3 })).arr.run.any (fun r => decide (r.stop = none ∧ stallLimit (running id) r.lease + 3 ≤ r.starved)) = true) ∧
      (let s := { base with arr := { warm := true, idle := 65 } }
       s.arr.run = none ∧ 65 ≤ s.arr.idle) := by decide +kernel

theorem test_pass_abandoned :
    let u := after .passAbandon (running (fun r => { r with starved := 3 }))
    u.arr.run = none ∧ ((getRt u 0).held.map (·.stop)) = some (some .abandon) := by decide +kernel

/-- The pass with every diagonal past its one interval. -/
def allEnded : State := setCnt (running (fun r => { r with t := 1, counts := List.replicate 319 1 })) 9 { cap := 10 }

/-- A pair of two tiles of which the first has ended. -/
def pairEnded : State :=
  setCnt (running (fun r => { r with t := 1, counts := List.replicate 319 1
                                     parts := r.parts ++ r.parts.map (fun p => { p with kind := .dw, slot := 4, cnt := 10 }) })) 9 { cap := 10 }

/-- The same once the first half has signalled. -/
def pairLast : State :=
  let s := setCnt pairEnded 10 { cap := 10 }
  { s with arr := { s.arr with run := s.arr.run.map (fun r => { r with t := runTotal r, counts := List.replicate 319 (runTotal r), parts := r.parts.mapIdx (fun k p => { p with signalled := decide (k = 0) }) }) } }

theorem witness_PassCompletion :
    (stopping allEnded = false ∧ allEnded.arr.run.any (fun r => decide (r.parts.length = 1) && r.parts.all (fun p => !p.signalled && decide (p.cnt = 9) &&
        decide (partN p ≠ 0)) && r.counts.all (fun c => decide (runTotal r ≤ c)) && takesMade r && (getInstr allEnded r.u).any (fun i =>
        !writesOut allEnded i.u && i.statusPa.isNone)) = true ∧ hears allEnded 9 = true ∧
      sigCnt (getCnt allEnded 9) 1 = some { p := 1, cap := 10 }) ∧
      (stopping pairEnded = false ∧ pairEnded.arr.run.any (fun r => decide (r.parts.length = 2) && r.parts.all (fun p => !p.signalled &&
        decide (partN p ≠ 0)) && (lastOf r 0).any (fun t => r.counts.all (fun c => decide (t < c)))) = true ∧ hears pairEnded 9 = true ∧
      sigCnt (getCnt pairEnded 9) 1 = some { p := 1, cap := 10 }) ∧
      pairLast.arr.run.any (fun r => (r.parts.map (·.signalled)) == [true, false] && r.counts.all (fun c => decide (runTotal r ≤ c)) &&
        takesMade r) = true ∧ stopping pairLast = false ∧ hears pairLast 10 = true ∧ (sigCnt (getCnt pairLast 10) 1).isSome = true := by decide +kernel

theorem test_pass_completes :
    let u := after .passComplete allEnded
    u.arr.run = none ∧ u.instrs = [] ∧ (getCnt u 9).p = 1 := by decide +kernel

/-- R220: the last half of a pair signals its own counter and frees the array. -/
theorem test_pair_completes :
    let u := after .passComplete pairLast
    u.arr.run = none ∧ u.instrs = [] ∧ (getCnt u 10).p = 1 ∧ (getCnt u 9).p = 0 := by decide +kernel

/-! ## The Girder die -/

/-- A Girder instruction of lease 0 on slot 3. -/
def girI (op : SpanOp) (sub : BitVec 4) (w1 : Half) : SpanI :=
  { u := 1, op := op, lease := 0, th := t0, inst := 0, pc := 0x400, w0 := wX 0x31 1 sub 0x3, w1 := w1, w2 := 0, a := 0, b := 0
    c := 0, d := 0, root := 0x1000 }
def withGir (i : SpanI) (v : Slot) : State :=
  { ready0 [] with instrs := [i], gir := { base.gir with slots := Tab.set {} [] 3 v } }
/-- An open slot of lease 0 with one segment. -/
def openV : Slot := { st := .open, segs := [0], cols := 512 }

theorem witness_SlotLifecycle :
    (let i := girI .slotOpen 0 0x00110200
     let s := withGir i {}
     getInstr s 1 = some i ∧ i.op = .slotOpen ∧ takes s 0 = true ∧ slotWaits s i 3 = false ∧ i.stage = .queued ∧ bits i.w0 4 0 = 3 ∧
       openVerdict s i 3 = .ok ∧ writesOut s i.u = false ∧ i.statusPa = none ∧ segsHeld s 0 + segsNeeded (openedSlot i) ≤ segQuota s 0 ∧
       segsNeeded (openedSlot i) ≤ (freeSegs s).length) ∧
      (let i := girI .slotClose 1 0
       let s := withGir i openV
       girderInstr s 1 .slotClose = some i ∧ slotForeign s 0 3 = false ∧ (getSlot s 3).st ≠ .free ∧ slotMoving (getSlot s 3) = false ∧ writesOut s i.u = false ∧ i.statusPa = none) ∧
      ({ base with gir := { scrubQ := [63, 0] } }).gir.scrubQ = [63, 0] := by decide +kernel

theorem test_slot_open_and_close :
    (getSlot (after (.slotOpenStart 1) (withGir (girI .slotOpen 0 0x00110200) {})) 3).segs = [0] ∧
      (after (.slotOpenStart 1) (withGir (girI .slotOpen 0 0x00110200) {})).gir.segFree = 0xFFFFFFFFFFFFFFFE ∧
      (after (.slotCloseStart 1) (withGir (girI .slotClose 1 0) openV)).gir.scrubQ = [0] := by decide +kernel

theorem witness_MoverMoves :
    (let s := withGir (girI .slotClose 1 0) { openV with st := .spilling, evicting := true }
     stopping s = false ∧ slotMoving (getSlot s 3) = true ∧ s.gir.mover = none ∧ moverTurn s 0 = true) ∧
      (let i := girI .slotSpill 2 0
       let s := withGir i { openV with st := .spilled, segs := [] }
       slotMoving (getSlot s 3) = false ∧ moverInstr s 3 = some i ∧ (getSlot s 3).st = .spilled ∧
         statusWaits s i = false ∧ moverVerdict s i 3 (armStatus s i).1 = .ok ∧ sigList i = [] ∧ writesOut s i.u = false ∧
         (armStatus s i).2.1.statusPa = none) ∧
      (let m : Mover := { slot := 3, fill := false, pos := 255, halted := true, u := none, lease := 0 }
       let s := { withGir (girI .slotClose 1 0) { openV with st := .spilling } with
                  gir := { base.gir with slots := [(3, { openV with st := .spilling })], mover := some m }
                  map := { active := [(1, 0x4000000), (2, 0x8000000000000002)] } }
       s.gir.mover = some m ∧ m.halted = true ∧ stopping s = false ∧ m.pos < imagePages (getSlot s 3) ∧ inMap s (imageAddr s m) 4096 = true ∧
         moverStuck s m = false ∧ cutOff s (imageAddr s m) 4096 = false ∧ poisoned s (imageAddr s m) 4096 = false) ∧
      (let m : Mover := { slot := 3, fill := false, pos := 256, halted := false, u := none, lease := 0 }
       let s := { base with gir := { base.gir with slots := [(3, { openV with st := .spilling })], mover := some m } }
       moved s false = some m ∧ slotBusy s 3 = false ∧ m.u = none) ∧
      (let m : Mover := { slot := 3, fill := true, pos := 256, halted := false, u := none, lease := 0 }
       let s := { base with gir := { base.gir with slots := [(3, { openV with st := .filling })], mover := some m } }
       moved s true = some m ∧ m.u = none) := by decide +kernel

/-- A mover that an instruction asked for, done or halted. -/
def asked (fill : Bool) (pos : Nat) (halted : Bool) : State :=
  let i := { girI (if fill then .slotFill else .slotSpill) (if fill then 3 else 2) 0 with stage := .running }
  { ready0 [] with
    instrs := [i]
    gir := { base.gir with slots := [(3, { openV with st := if fill then .filling else .spilling })]
                           mover := some { slot := 3, fill := fill, pos := pos, halted := halted, u := some 1, lease := 0 } } }

theorem witness_MoverMoves_asked :
    (∀ f ∈ [false, true],
      let s := asked f 256 false
      (moved s f).any (fun m => m.u == some 1) = true ∧ slotBusy s 3 = false ∧ stopping s = false ∧
        (getInstr s 1).any (fun i => !writesOut s i.u && i.statusPa.isNone) = true) ∧
      (let s := { asked true 255 true with map := { active := [(1, 0x4000000), (2, 0x8000000000000102)] } }
       s.gir.mover.any (fun m => m.halted && decide (m.pos < imagePages (getSlot s m.slot)) && inMap s (imageAddr s m) 4096 &&
         moverStuck s m) = true ∧ stopping s = false) := by decide +kernel

/-- R226: the instruction that asked for the fill completes and signals with it. -/
theorem test_asked_fill_completes :
    let u := after .fillComplete (asked true 256 false)
    (getSlot u 3).st = .open ∧ u.instrs = [] ∧ u.gir.mover = none := by decide +kernel

theorem test_spill_completes :
    let m : Mover := { slot := 3, fill := false, pos := 256, halted := false, u := none, lease := 0 }
    let u := after .spillComplete { base with gir := { base.gir with slots := [(3, { openV with st := .spilling })], mover := some m } }
    (getSlot u 3).st = .spilled ∧ u.gir.scrubQ = [0] ∧ u.gir.mover = none := by decide +kernel

/-- A peek of slot 3's plane 0, row 0, column 5 under way. -/
def peeking (acc : Bool) (v : Slot) : State :=
  { base with
    gir := { base.gir with slots := Tab.set {} [] 3 v, ent := [(5, { s := 0x3F800000, c := 0x33800000 })], peekBusy := true, peekAddr := 0x0000000300000005 }
    lease := { base.lease with active := if acc then Tab.set 0 leaseZero 1 0x1800C00080408100 else leaseZero } }

theorem witness_PeekWindow :
    base.eng.scrubDone = true ∧ base.gir.peekBusy = false ∧ (peeking true openV).gir.peekBusy = true ∧ peekWaits (peeking true openV) 3 = false ∧
      accDebug (peeking true openV) 0 = true ∧ (0 : Nat) < 1 * 1 ∧ (0 : Nat) < 256 / 1 ∧ 5 < openV.cols ∧
      entryAt openV 0 0 5 = some (0, 5) ∧ (readEntry (peeking true openV) openV 0 0 5).chk = 0 ∧
      accDebug (peeking false openV) 0 = false ∧ (getSlot (peeking false {}) 3).st = .free := by decide +kernel

theorem test_peek :
    (after .peekDone (peeking true openV)).gir.peekData = 0x338000003F800000 ∧
      (after .peekDone (peeking false openV)).gir.peekDenied = true ∧ (after .peekDone (peeking false {})).gir.peekNotRes = true := by
  decide +kernel

/-- A DRAIN of slot 3, one element, counter 9. -/
def drainI (st : Stage) : SpanI :=
  { girI .drain 0 0 with w0 := wX 0x32 0 0 0, stage := st, ready := true, desc := drainD }
def draining : State := setCnt { withGir (drainI .running) openV with drn := some ⟨1, 0, [3], [], 0, 9⟩ } 9 { cap := 10 }

theorem witness_DrainRuns :
    (let i := drainI .taken
     let s := withGir i openV
     let m := armStatus s i
     let r := drainTables m.2.2 m.2.1
     getInstr s 1 = some i ∧ i.op = .drain ∧ takes s 0 = true ∧ drainWaits s i = false ∧ statusWaits s i = false ∧ r.1.1 = .ok ∧ drainVerdict r.2 m.2.1 m.1 = .ok ∧
       (ddDests i.desc).all (fun ad => destReady r.2 ad.2) = true ∧ ddRows i.desc ≠ 0 ∧ ddCols i.desc ≠ 0 ∧
       (∀ x ∈ ddSlots i.desc, (getSlot s x).st ≠ .spilled) ∧ s.drn = none ∧ drainTurn r.2 i.u = true) ∧
      (draining.drn.any (fun d => d.ctxs.all (fedDone draining) && (getInstr draining d.u).any (fun i =>
        !writesOut draining i.u && i.statusPa.isNone))) = true ∧ hears draining 9 = true ∧
      stopping draining = false ∧ sigCnt (getCnt draining 9) 1 = some { p := 1, cap := 10 } := by decide +kernel

theorem test_drain_completes : (getCnt (after .drainComplete draining) 9).p = 1 ∧ (after .drainComplete draining).drn = none := by
  decide +kernel

/-! ## Streams -/

/-- A ring descriptor: one row of 64 INT8 elements at 0x8000, a ring of one page, counter 9; with `gate`, gated by counter 10. -/
def ringD (gate : Bool) : List Word :=
  [0x8000, 0, 0, 0x100000, 0x0000004000000001, 0x40, 0x0001000000400001, if gate then 0x0A09820000000006 else 0x0009020000000006]
/-- The same as a DRAIN_OUT. -/
def outD : List Word := [0x8000, 0, 0, 0x100000, 0x0000004000000001, 0x40, 0x0001000000400001, 0x0009020000080006]

def strI (op : SpanOp) (sub : BitVec 4) (a : Word) : SpanI :=
  { u := 1, op := op, lease := 0, th := t0, inst := 0, pc := 0x400, w0 := wX 0x33 0 sub 5, w1 := 0, w2 := 0, a := a, b := 0, c := 0
    d := 0, root := 0x1000 }
/-- The words of bytes read; none where the read fails. -/
def okBytes (r : Except MemErr (List Byte)) : List Word := match r with | .ok bs => words64 bs | .error _ => []
def armed (d : List Word) : Stream := { st := .running, desc := d, descAddr := 0x4000, rows := 1 }
/-- `ready0` with context 5 and the ring's descriptor in memory, counter 9 of capacity 10. -/
def withStr (x : Stream) (is : List SpanI) : State :=
  { setCnt (withWords (ready0 []) 0x4000 (ringD false)) 9 { cap := 10 } with str := Tab.set {} [] 5 x, instrs := is }

theorem witness_StreamArmAndRearm :
    (let i := strI .streamArm 0 0x4000
     let s := withStr {} [i]
     let rd := readVirt s (accI i) i.a.toNat 64
     let m := armStatus rd.2 i
     getInstr s 1 = some i ∧ bits i.w0 4 0 = 5 ∧ (streamHead s 5).map (·.u) = some 1 ∧ takes s 0 = true ∧ (getStr s 5).st ≠ .quiescing ∧
       i.a.toNat % 64 = 0 ∧ okBytes rd.1 = ringD false ∧ statusWaits rd.2 i = false ∧
       armVerdict m.2.2 i 5 (ringD false) m.1 = .ok ∧ writesOut m.2.2 m.2.1.u = false ∧ m.2.1.statusPa = none ∧
       StreamsIdleBut s 1 = true) ∧
      (let s := setCnt (withStr (armed (ringD true)) []) 10 { p := 1, cap := 1 }
       ctxOwner s 5 = some 0 ∧ takes s 0 = true ∧ (getStr s 5).stopped = false ∧ stGate (getStr s 5) = some 10 ∧
         (getStr s 5).gated = false ∧ mayStart s (getStr s 5) = true ∧ 0 < avail (getCnt s 10)) ∧
      (let i := { strI .streamRearm 1 64 with stage := .running }
       let r : Rearm := ⟨64, none, 1⟩
       let s := withStr { armed (ringD false) with start := 1, rearm := some r } [i]
       (getStr s 5).start = (getStr s 5).base + transfers (getStr s 5) ∧ (getStr s 5).xfers.all whollyIssued = true ∧
         (ctxOwner s 5).any (takes s) = true ∧ getInstr s 1 = some i ∧ rearmVerdict s i (getStr s 5) r false = .ok ∧
         writesOut s i.u = false ∧ i.statusPa = none ∧ StreamsIdleBut s 1 = true) := by decide +kernel

theorem test_stream_arm :
    let u := after (.streamDescArrive 1) (withStr {} [strI .streamArm 0 0x4000])
    (getStr u 5).st = .running ∧ (getStr u 5).desc = ringD false ∧ u.instrs = [] := by decide +kernel

/-- A burst of 64 bytes at 0x8000. -/
def b64 (issued : Bool) (data : List Byte) : Burst := { addr := 0x8000, len := 64, parts := [(0, 64)], issued := issued, pa := if issued then 0x8000 else 0, data := data }
def xfer0 (b : Burst) : Xfer := { n := 0, tile := 0, bursts := [b], gen := none }
def inXfer (d : List Word) (b : Burst) : State := withStr { armed d with start := 1, xfers := [xfer0 b] } []

theorem witness_BurstsAndSignals :
    (let s := inXfer (ringD false) (b64 false [])
     StreamsIdle s = true ∧ grant (wakeAll s) = some (5, 0) ∧ nextBurst (wakeAll s) (getStr (wakeAll s) 5) = some (0, 0) ∧
       getBurst (getStr (wakeAll s) 5) 0 0 = some (b64 false []) ∧ (b64 false []).addr < 2 ^ 64 ∧
       stIsRing (getStr (wakeAll s) 5) = true ∧ (xlate (wakeAll s) (accOf (wakeAll s) 0) 0x8000 .r).1 = .at 0x8000 ∧ inMap s 0x8000 64 = true) ∧
      (let s := inXfer (ringD false) (b64 true [])
       StreamsIdle s = true ∧ s.eng.mode ≠ 3 ∧ ctxOwner s 5 = some 0 ∧ getBurst (getStr s 5) 0 0 = some (b64 true []) ∧
         inFlight (b64 true []) = true ∧ stIsRing (getStr s 5) = true ∧ (b64 true []).bad = false ∧ poisoned s 0x8000 64 = false) ∧
      (let s := inXfer outD (b64 true [7])
       StreamsIdle s = true ∧ s.eng.mode ≠ 3 ∧ ctxOwner s 5 = some 0 ∧ getBurst (getStr s 5) 0 0 = some (b64 true [7]) ∧ inFlight (b64 true [7]) = true ∧
         stIsRing (getStr s 5) = false) ∧
      (let s := inXfer (ringD false) { b64 true [] with done := true }
       StreamsIdle s = true ∧ stopping s = false ∧ (getStr s 5).st ≠ .unarmed ∧
         (getStr s 5).xfers = [xfer0 { b64 true [] with done := true }] ∧ (xfer0 { b64 true [] with done := true }).bursts.all (·.done) = true ∧
         (xfer0 { b64 true [] with done := true }).again = false ∧ hears s 9 = true ∧ stData (getStr s 5) = 9 ∧ sigCnt (getCnt s 9) 1 = some { p := 1, cap := 10 }) := by decide +kernel

theorem test_bursts :
    ((getStr (after .burstIssue (inXfer (ringD false) (b64 false []))) 5).xfers.map (fun t => t.bursts.map (fun b => (b.issued, b.pa)))) =
        [[(true, 0x8000)]] ∧
      memByte (after (.burstComplete 5 0 0) (inXfer outD (b64 true [7]))) 0x8000 = 7 ∧
      (getCnt (after (.transferSignal 5) (inXfer (ringD false) { b64 true [] with done := true })) 9).p = 1 := by decide +kernel

theorem witness_StreamRecovery :
    (let s := withStr { armed (ringD false) with st := .halted } []
     StreamsIdle s = true ∧ s.eng.scrubDone = true ∧ (1 : Word).getLsbD 0 = true ∧ (getStr s 5).st = .halted ∧
       nextBurst s (getStr s 5) = none) ∧
      (let s := withStr { armed (ringD false) with st := .halted, start := 1, xfers := [xfer0 (b64 false [])] } []
       StreamsIdle s = true ∧ s.eng.scrubDone = true ∧ (getStr s 5).st = .halted ∧ ctxOwner s 5 = some 0 ∧ takes s 0 = true ∧
         looping s .span 2 = false ∧ (getStr s 5).stopped = false ∧ creditsHeld s 0 < creditShare s 0 ∧
         nextBurst s (getStr s 5) = some (0, 0) ∧ getBurst (getStr s 5) 0 0 = some (b64 false []) ∧ (b64 false []).addr < 2 ^ 64 ∧
         stIsRing (getStr s 5) = true ∧ (xlate s (accOf s 0) 0x8000 .r).1 = .at 0x8000 ∧ inMap s 0x8000 64 = true) ∧
      (let s := withStr (armed (ringD false)) []
       StreamsIdle s = true ∧ s.eng.scrubDone = true ∧ (getStr s 5).st ≠ .halted ∧ stopping s = false ∧ s.strSpares ≠ 0 ∧
         ctxOwner s 5 = some 0 ∧ (getStr s 5).st ≠ .unarmed ∧
         okBytes (readVirt s (accOf s 0) 0x4000 64).1 = ringD false) ∧
      (let s := withStr { armed (ringD false) with descAddr := 0x400000 } []
       StreamsIdle s = true ∧ stopping s = false ∧ s.strSpares ≠ 0 ∧ ctxOwner s 5 = some 0 ∧ (getStr s 5).st ≠ .unarmed ∧
         (match (readVirt s (accOf s 0) 0x400000 64).1 with | .ok _ => false | .error e => e != .wait) = true) ∧
      (let s := farAll (withStr (armed (ringD false)) [])
       (match (readVirt s (accOf s 0) 0x4000 64).1 with | .ok _ => false | .error e => e == .wait) = true) ∧
      (let s := withStr {} []
       StreamsIdle s = true ∧ stopping s = false ∧ s.strSpares ≠ 0 ∧ (getStr s 5).st = .unarmed) ∧
      (let s := { withStr (armed (ringD false)) [] with strSpares := 0 }
       StreamsIdle s = true ∧ stopping s = false ∧ s.strSpares = 0) := by decide +kernel

theorem test_stream_context_lost :
    (after (.streamContextUe 5) { withStr (armed (ringD false)) [] with strSpares := 0 }).eng.stopReason = 8 ∧
      (after (.streamContextUe 5) (withStr (armed (ringD false)) [])).strSpares + 1 = (withStr {} []).strSpares := by decide +kernel

/-! ## The Spandrel -/

/-- A VEC.ADD of one row of `n` binary32 columns at 0x8000 and 0x8100 into 0x8200. -/
def vecD (n : Word) : List Word := [0x8000, 0x8100, 0, 0x8200, n <<< 32 ||| 1, 0, 0x0909090900000000, 0]
/-- A state in which the instruction may start, with words at 0x4000. -/
def withVec (i : SpanI) (ws : List Word) : State := { withWords (ready0 []) 0x4000 ws with instrs := [i] }

theorem witness_VectorStarts :
    (let i := vecI 1 9
     let s := withVec i (vecD 0)
     let r := readVirt s (accI i) i.a.toNat 64
     let m := armStatus r.2 i
     vecInstr s 1 isVec = some i ∧ i.a.toNat % 64 = 0 ∧ stopping s = false ∧ okBytes r.1 = vecD 0 ∧ statusWaits r.2 i = false ∧
       firstCheck i.a (vecChecks 0 (vecD 0) (statusSkew i) ++ [(30, m.1)]) = .ok ∧ vdCols (vecD 0) = 0 ∧
       writesOut m.2.2 m.2.1.u = false ∧ m.2.1.statusPa = none) ∧
      (let i := vecI 1 9
       let s := withVec i (vecD 2)
       let r := readVirt s (accI i) i.a.toNat 64
       let m := armStatus r.2 i
       let a := vecRead m.2.2 m.2.1 0 (vecD 2) 0
       let b := vecRead a.2 m.2.1 0 (vecD 2) 1
       let c := vecRead b.2 m.2.1 0 (vecD 2) 2
       vecInstr s 1 isVec = some i ∧ i.a.toNat % 64 = 0 ∧ stopping s = false ∧ okBytes r.1 = vecD 2 ∧ statusWaits r.2 i = false ∧
         firstCheck i.a (vecChecks 0 (vecD 2) (statusSkew i) ++ [(30, m.1)]) = .ok ∧ vdRows (vecD 2) ≠ 0 ∧
         vdCols (vecD 2) ≠ 0 ∧ a.1.toOption = some (List.replicate 8 0) ∧ b.1.toOption = some (List.replicate 8 0) ∧ c.1.toOption = some [] ∧
         (resultWrites (accI m.2.1) [(vdAddr (vecD 2) 3, vecBytes 0 (vecD 2) i.leg (List.replicate 8 0) (List.replicate 8 0) [])]
           c.2).1.toOption.isSome = true) := by decide +kernel

/-- 1.5 + 2.25 and −1 + 1 in binary32. -/
theorem test_vec_add :
    let s := withWords (withWords (withVec (vecI 1 9) (vecD 2)) 0x8000 [0xBF8000003FC00000]) 0x8100 [0x3F80000040100000]
    memWord (after .vecComplete (after (.vecStart 1) s)) 0x8200 = 0x0000000040700000 := by decide +kernel

def rotI (op : SpanOp) (sub : BitVec 4) (w1 : Half) : SpanI :=
  { vecI 1 9 with op := op, w0 := wX 0x35 1 sub 0x08000, w1 := w1, b := 0x8000, d := 0xA000 }

theorem witness_RotationAndScaleStarts_RotationStarts :
    (let i := rotI .rotSmooth 1 0x1000
     let s := withVec i [0x3F800000]
     let m := armStatus s i
     let r := readVirt m.2.2 (accI m.2.1) i.a.toNat 4
     vecInstr s 1 isRot = some i ∧ stopping s = false ∧ i.a.toNat % 64 = 0 ∧ i.b.toNat % 64 = 0 ∧ i.d.toNat % 64 = 0 ∧
       statusSkew i = false ∧ statusWaits s i = false ∧ m.1 = false ∧ bits i.w1 31 12 = 1 ∧ r.1.toOption = some [0, 0, 0x80, 0x3F] ∧
       (resultWrites (accI m.2.1) [(0xA000, [0, 0, 0, 0]), (0x8000, [0, 0, 0, 0])] r.2).1.toOption.isSome = true) ∧
      (let i := rotI .rotSmooth 1 0
       let s := withVec i []
       let m := armStatus s i
       vecInstr s 1 isRot = some i ∧ stopping s = false ∧ i.a.toNat % 64 = 0 ∧ i.b.toNat % 64 = 0 ∧
         i.d.toNat % 64 = 0 ∧ statusSkew i = false ∧ statusWaits s i = false ∧ bits i.w1 31 12 = 0 ∧ m.1 = false ∧
         writesOut m.2.2 m.2.1.u = false ∧ m.2.1.statusPa = none) := by decide +kernel

/-- A result whose pages are mapped writable can be written, whatever its bytes. -/
theorem resultWrites_ok (s : State) (c : Acc) (a : Nat) (bs : List Byte) (ps : List (Nat × Nat))
    (h : (xlatePieces c .w (pieces a bs.length) s).1 = .ok ps) : ∃ ws, (resultWrites c [(a, bs)] s).1 = .ok ws := by
  simp [resultWrites, writeVirt, h, Except.map]

theorem witness_RotationAndScaleStarts_RotationStarts_matrix :
    let i := rotI .rotMatrix 0 0x400
    let s := withVec i []
    let m := armStatus s i
    let r := readVirt m.2.2 (accI m.2.1) i.a.toNat 4096
    vecInstr s 1 isRot = some i ∧ i.op = .rotMatrix ∧ stopping s = false ∧ i.a.toNat % 64 = 0 ∧ i.b.toNat % 64 = 0 ∧ statusSkew i = false ∧
      statusWaits s i = false ∧ m.1 = false ∧ r.1.toOption.isSome = true ∧
      (xlatePieces (accI m.2.1) .w (pieces 0x8000 4096) r.2).1.toOption = some [(0x8000, 4096)] := by decide +kernel

/-- A scale record: a history of zeros, power-of-two scale 1, HISTORY 1. -/
def scaleRec : List Word := List.replicate 8 0 ++ [0x000000013F800000] ++ List.replicate 7 0

theorem witness_RotationAndScaleStarts_ScaleUpdateStarts :
    let i : SpanI := { vecI 1 9 with op := .scaleUpdate, w0 := wX 0x36 1 0 0x08000, w1 := 0 }
    let s := withVec i scaleRec
    let m := armStatus s i
    let r := readVirt m.2.2 (accI i) i.a.toNat 128
    vecInstr s 1 isScale = some i ∧ i.a.toNat % 128 = 0 ∧ statusSkew i = false ∧ statusWaits s i = false ∧ m.1 = false ∧
      bits i.w1 23 16 < gatherCount s 0 ∧
      (r.1.toOption.map words64) = some scaleRec ∧ firstCheck i.a (recordChecks (words32 (wordBytes scaleRec))) = .ok ∧
      (resultWrites (accI i) [(0x4000, halfBytes (scaleUpdateRec (words32 (wordBytes scaleRec)) (Tab.get {} s.gather (gatherBase s 0 + 0))))] r.2).1.toOption.isSome = true := by decide +kernel

/-- An instruction that runs on the Spandrel, with one byte to write. -/
def onVec (i : SpanI) (rot : Option (Nat × RotSlot)) : State :=
  { ready0 [] with instrs := [{ i with stage := .running }], vec := some { u := 1, lease := 0, writes := [(0x8000, 7)], rot := rot } }

theorem witness_SpandrelCompletes :
    (let s := onVec (vecI 1 9) none
     s.vec.any (fun r => r.writes.all (fun w => !isFar s w.1)) = true ∧ (getInstr s 1).any (fun i => isVec i.op && !writesOut s i.u && i.statusPa.isNone) = true ∧
       stopping s = false) ∧
      (let s := onVec (rotI .rotMatrix 0 0x400) (some (1, { mark := false }))
       (getInstr s 1).any (fun i => isRot i.op) = true ∧ (s.vec.bind (·.rot)).isSome = true) ∧
      (let s := onVec { vecI 1 9 with op := .scaleUpdate } none
       (getInstr s 1).any (fun i => isScale i.op) = true) ∧
      (let s := farPage (onVec { vecI 1 9 with statusPa := some 0x200000 } none)
       stopping s = false ∧ writesOut s 1 = false ∧ s.vec.any (fun r => r.writes.all (fun w => !isFar s w.1)) = true ∧
         isFar s 0x200000 = true) := by decide +kernel

/-- R214, R258: the signal waits for a status word that another endpoint has not acknowledged. -/
theorem test_far_status_waits :
    let s := setCnt (farPage (onVec { vecI 1 9 with statusPa := some 0x200000 } none)) 9 { cap := 10 }
    let u := after .vecComplete s
    (getCnt u 9).p = 0 ∧ ((getInstr u 1).map (·.owes)) = some (some (none, [9])) ∧ u.vec = none := by decide +kernel

theorem test_rotation_replaced :
    Tab.get {} (getRt (after .rotLoadComplete (onVec (rotI .rotMatrix 0 0x400) (some (1, { mark := false })))) 0).rot 1 = { mark := false } := by
  decide +kernel

/-- A ROWSET.COMMIT of one operation: sequence 5 of length 3 joins. -/
def rsI : SpanI := { vecI 1 9 with op := .rowsetCommit, w0 := wX 0x34 1 0 0x08000, w1 := 0 }
def rsList : List Word := [1, 0, 0x8000000000000005, 3]

theorem witness_RowsetCommits :
    let s := withVec rsI rsList
    let m := armStatus s rsI
    let h := readVirt m.2.2 (accI rsI) 0x4000 16
    getInstr s 1 = some rsI ∧ rsI.op = .rowsetCommit ∧ rsI.stage = .queued ∧ takes s 0 = true ∧ commitWaits s rsI = false ∧
      statusWaits s rsI = false ∧ rsI.a.toNat % 64 = 0 ∧ statusSkew rsI = false ∧ m.1 = false ∧ h.1.toOption = some (wordBytes [1, 0]) ∧
      bits ((words64 (wordBytes [1, 0])).getD 0 0) 31 0 = 1 ∧ (readVirt h.2 (accI rsI) 0x4000 32).1.toOption = some (wordBytes rsList) ∧
      bits ((words64 (wordBytes rsList)).getD 0 0) 63 32 = 0 ∧ (words64 (wordBytes rsList)).getD 1 0 = 0 ∧
      rsBad [] [] (rsOps ((words64 (wordBytes rsList)).drop 2)) = false := by decide +kernel

/-- Where no window is valid, no address is another endpoint's. -/
theorem near_of_no_window (s : State) (h : s.map = {}) (a : Nat) : isFar s a = false := by
  have hn : (List.range 24).find? (fun _ => false) = none := by decide
  simp [isFar, mapTarget, h, winValid, winTarget, Tab.get, hn]

theorem witness_RowsetCommits_ends :
    let s := { withVec { rsI with stage := .running } [] with rs := [⟨1, 0, [], [], 0⟩], map := {} }
    ((getInstr s 1).any (fun i => !writesOut s i.u && i.statusPa.isNone) = true ∧ s.rs.find? (fun r => r.u == 1) = some ⟨1, 0, [], [], 0⟩ ∧
      stopping s = false) ∧ ∀ k < 0x4440, isFar s (rowsetTable s 0 + k) = false :=
  ⟨by decide +kernel, fun k _ => near_of_no_window _ rfl _⟩

theorem test_rowset_generation :
    (getRt (after (.rowsetCommitComplete 1) { withVec { rsI with stage := .running } [] with rs := [⟨1, 0, [], [], 0⟩] }) 0).rsGen = 1 := by
  decide +kernel

/-! ## Chains -/

/-- A chain descriptor: hop `hop` of 3, one row of 8 columns; `cred` credits; chain 7, epoch 1, time-out 2. -/
def chainD (hop cred cols : Word) : List Word :=
  [if hop = 0 then 0x0000001201000007 else 0x1101001201000007, hop <<< 40 ||| 0x0000000300000000 ||| cred <<< 24 ||| 0x20100,
   0x0000000100000000 ||| cols, 0, 0, 0, 0, 0]
def chainI (op : SpanOp) (sub : BitVec 4) : SpanI :=
  { vecI 1 9 with op := op, w0 := wX 0x38 2 sub 0x08000, w1 := 0x06000000, w2 := 0x109 }
def withChain (i : SpanI) (d : List Word) : State :=
  { withVec i d with gir := { base.gir with slots := [(3, openV)] }, chnFree := 100 }

/-- What `ChainStarts` asks of a hop whose descriptor comes with its start, beside what depends on its chunks. -/
def mayStartHop (i : SpanI) (s : State) (d : List Word) : Bool :=
  let r := readVirt s (accI i) i.a.toNat 64
  let m := armStatus r.2 i
  let j := { m.2.1 with ready := true, desc := d }
  let s1 := putInstr m.2.2 j
  getInstr s 1 == some i && chainTurn s i && !i.ready && decide (i.a.toNat % 64 = 0) && okBytes r.1 == d && !statusWaits r.2 i &&
    decide (chainArrive m.2.2 i d m.1 = .ok) && (slotsNamed i).all (fun x => !slotWaits s1 j x && !slotMoving (getSlot s1 x)) &&
    decide (chainVerdict s1 j d = .ok) && (slotsNamed i).all (fun x => !slotBehind s1 j x && decide ((getSlot s x).st ≠ .spilled)) &&
    !writesOut s1 j.u && j.statusPa.isNone

theorem witness_Chains_ChainStarts :
    (let i := chainI .chainSend 0
     mayStartHop i (withChain i (chainD 0 0 8)) (chainD 0 0 8) = true ∧ cdTotal (chainD 0 0 8) ≠ 0 ∧ isRecv i = false ∧
       mayStartHop i (withChain i (chainD 0 0 0)) (chainD 0 0 0) = true ∧ cdTotal (chainD 0 0 0) = 0) ∧
      (let i := chainI .chainRecv 1
       mayStartHop i (withChain i (chainD 1 4 8)) (chainD 1 4 8) = true ∧ isRecv i = true ∧ cdTotal (chainD 1 4 8) ≠ 0 ∧
         cdCredits (chainD 1 4 8) ≤ (withChain i (chainD 1 4 8)).chnFree) := by decide +kernel

theorem witness_Chains_ChainStarts_ready :
    let i := { chainI .chainSend 0 with ready := true, desc := chainD 0 0 8 }
    let s := withChain i (chainD 0 0 8)
    getInstr s 1 = some i ∧ chainTurn s i = true ∧ (slotsNamed i).all (fun x => !slotWaits s i x && !slotMoving (getSlot s x) &&
      decide ((getSlot s x).st ≠ .spilled)) = true ∧ chainVerdict s i i.desc = .ok ∧ cdTotal i.desc ≠ 0 ∧ isRecv i = false := by decide +kernel

/-- A state whose engine set has an address. -/
def addressedAs (s : State) : State :=
  { s with abut := { s.abut with fabActive := 0x110000 }, map := { active := [(1, 0x200000), (2, 0x8000000000110002)] } }

/-- A hop that runs. -/
def hopping (recv : Bool) (f : ChainRun → ChainRun) : State :=
  let d := chainD (if recv then 1 else 0) (if recv then 4 else 0) 8
  addressedAs { withChain { chainI (if recv then .chainRecv else .chainSend) (if recv then 1 else 0) with stage := .running } d with
    chn := [f { u := 1, lease := 0, recv := recv, desc := d, slots := [3] }] }
/-- The chunk that the receiving hop expects, one of another width, and a credit for a hop. -/
def chunkOf (cols : Word) : Packet :=
  mkPacket 0x09 0x110000 (cdUp (chainD 1 4 8)) 1 0 0 (wordBytes [0x0007010000000000, 0x0001000000000007 ||| cols <<< 32, 0, 0, 0, 0, 0, 0])
def chunkP : Packet := chunkOf 8
def creditP (n : Word) : Packet := mkPacket 0x0A 0x110000 (cdDown (chainD 0 0 8)) 1 0 0 (wordBytes [0x0007010000000000, n])
/-- The own chunk of the region: eight ones. -/
def ownC : Chunk := ⟨0, 0, List.replicate 8 0x3F800000, 0⟩

theorem witness_Chains_ChainHops :
    (let s := hopping false (fun r => { r with credits := 1, grant := 1, own := [ownC] })
     stopping s = false ∧ addressed s = true ∧ (getChain s 1).any (fun r => maySend s r && (nextChunk r).isSome) = true) ∧
      (stopping (addressedAs base) = false ∧ addressed (addressedAs base) = true ∧ chunkFor (addressedAs base) chunkP = none) ∧
      (∀ own ∈ [[], [ownC]],
        let s := hopping true (fun r => { r with own := own })
        stopping s = false ∧ addressed s = true ∧ (chunkFor s chunkP).any (fun r => !r.got.contains (chRow chunkP, chQuarter chunkP) &&
          !chunkBad r chunkP && r.up == [] &&
          ((r.own.find? (fun o => decide (o.row = chRow chunkP ∧ o.quarter = chQuarter chunkP))).isSome == decide (own ≠ []))) = true) ∧
      (let s := hopping true id
       addressed s = true ∧ (chunkFor s (chunkOf 4)).any (fun r => !r.got.contains (chRow (chunkOf 4), chQuarter (chunkOf 4)) &&
         chunkBad r (chunkOf 4) && (getInstr s r.u).isSome) = true ∧ s.perf.ctl = []) ∧
      (let s := hopping false id
       stopping s = false ∧ addressed s = true ∧ (s.chn.find? (fun r => creditFor r (creditP 2))).any (fun r =>
         decide ((takeCredit r (creditP 2)).sent < cdTotal r.desc)) = true) ∧
      (let s := hopping false (fun r => { r with credits := 1, grant := 1, sent := 1 })
       stopping s = false ∧ (s.chn.find? (fun r => creditFor r (creditP 2))).any (fun r =>
         (let q := takeCredit r (creditP 2)
          decide (q.sent = cdTotal q.desc ∧ q.grant ≠ 0 ∧ q.grant + q.sent ≤ q.credits))) = true ∧
         (getInstr s 1).any (fun i => !writesOut s i.u && i.statusPa.isNone) = true) ∧
      (let s := hopping false (fun r => { r with idleBeats := 4 })
       stopping s = false ∧ (getChain s 1).any (fun r => decide (cdTimeout r.desc + 2 ≤ r.idleBeats) && (getInstr s r.u).isSome) = true) := by decide +kernel

/-- R300, R302: the receiving hop adds 1 + 1 in each column; the first hop's chunk leaves by the Abutment's link. -/
theorem test_chain_chunks :
    (let p := { chunkP with payload := chunkP.payload.take 32 ++ halfBytes (List.replicate 8 0x3F800000) }
     ((getChain (after (.chainChunk p) (hopping true (fun r => { r with own := [ownC] }))) 1).map (fun r => r.ready.map (·.vals))) =
       some [List.replicate 8 0x40000000]) ∧
      ((getPort (after (.chainChunkSend 1) (hopping false (fun r => { r with credits := 1, grant := 1, own := [ownC] }))) 16).txq.map (·.typ)) = [0x09] := by
  decide +kernel

/-! ## The Pier -/

/-- A group of 32 × 32 with program SGD and binary32 states, its flags beside VALID, and its entry in memory at 0x10000. -/
def grpW (flags : Word) : List Word :=
  [0x20000, 0x30000] ++ List.replicate 10 0 ++ [0x0000002000000020] ++ List.replicate 6 0 ++ [0x1009000000001000 ||| flags] ++
    List.replicate 12 0
def withGroup (flags : Word) : State :=
  addressedAs { base with
    pier := { groups := [(2, { valid := true, words := grpW flags, step := 4, base := 0xFE00 })], groupBase := 0xFE00 }
    pins := { base.pins with stackReady := true } }
/-- A command of group 2: an UPDATE (1) of the whole tile with TAG 5, or a STEP_END (2); DONE_CNT 9 at 0x110101. -/
def updC (opc : Word) : UpdCmd :=
  { words := #v[opc <<< 56 ||| 0x0002000000000009 ||| (if opc = 1 then 0x500000000 else 0), 0x80110101, 0,
      if opc = 1 then 0x002000203F800000 else 0, 0, 0, 0, 0]
    lease := 0, domain := 0, legacy := false, src := 0x110101, tag := 3 }
def tile5 : StagedTile := { tag := 5, domain := 0, epoch := 1, chain := 7, src := 0x110101, rows := 32, cols := 32, chunks := [(0, 0)], count := 1024 }

/-- The Pier with 64 commands. -/
def fullPier : State :=
  { withGroup 0 with pier := { (withGroup 0).pier with cmds := (List.range 64).map (fun k => { k := k, cmd := updC 1 }), nextCmd := 64 } }

theorem witness_UpdateCommands :
    pierTakes (withGroup 0) = true ∧ cmdAnswered (withGroup 0) (updC 3) = none ∧ cmdAnswered (withGroup 0) (updC 1) = none ∧
      cmdAnswered (withGroup 0) (updC 2) = none ∧ updRefused (withGroup 0) (updC 3) = true ∧
      updRefused (withGroup 0) (updC 1) = false ∧ (withGroup 0).pier.cmds.length < 64 ∧ getCmd (withGroup 0) 0 = none ∧
      (withGroup 0).pier.nextCmd = 0 ∧ ucOpc (updC 1) = 1 ∧ ucOpc (updC 2) = 2 ∧ updRefused (withGroup 0) (updC 2) = false ∧
      (withGroup 0).pier.cmds.all (fun y => decide (ucGroup y.cmd ≠ ucGroup (updC 2))) = true ∧
      gFrozen (getGroup (withGroup 0) 2).words = false ∧
      (pierTakes fullPier = true ∧ cmdAnswered fullPier (updC 1) = none ∧ 64 ≤ fullPier.pier.cmds.length) := by decide +kernel

theorem test_step_end :
    let u := after (.stepEnd (updC 2)) (withGroup 0)
    (getGroup u 2).step = 5 ∧ memWord u 0x100B0 = 5 ∧ (u.pier.port.map (fun r => (r.addr, r.write))) = [(0x10080, true)] := by
  decide +kernel

def withCmd (flags : Word) (x : PierCmd) : State :=
  { withGroup flags with pier := { (withGroup flags).pier with cmds := [x], nextCmd := 1, tiles := [tile5] } }

/-- A command that waits to begin, and one whose results are formed. -/
def newX (opc : Word) : PierCmd := { k := 0, cmd := updC opc }
def formedX (opc : Word) : PierCmd := { k := 0, cmd := updC opc, begun := true, formed := true }

theorem witness_UpdateCommands_UpdateRuns :
    getCmd (withCmd 0 (newX 1)) 0 = some (newX 1) ∧ ucOpc (newX 1).cmd = 1 ∧ (newX 1).begun = false ∧
      tileReady (withCmd 0 (newX 1)) (newX 1).cmd = true ∧ cmdWaits (withCmd 0 (newX 1)) (newX 1) = false ∧
      (getGroup (withCmd 0 (newX 1)) 2).valid = true ∧ ucGroup (newX 1).cmd = 2 ∧
      gFrozen (getGroup (withCmd 0 (newX 1)) 2).words = false := by decide +kernel

theorem witness_UpdateCommands_UpdateRuns_frozen :
    gFrozen (getGroup (withCmd 0x10000 (newX 1)) 2).words = true ∧ gStrict (getGroup (withCmd 0x10000 (newX 1)) 2).words = false ∧
      tileReady (withCmd 0x10000 (newX 1)) (newX 1).cmd = true ∧ cmdWaits (withCmd 0x10000 (newX 1)) (newX 1) = false := by
  decide +kernel

theorem witness_UpdateCommands_UpdateRuns_complete :
    getCmd (withCmd 0 (formedX 1)) 0 = some (formedX 1) ∧ (formedX 1).begun = true ∧ (formedX 1).formed = true ∧
      (formedX 1).writes = [] ∧ (formedX 2).writes = [] ∧ stopping (withCmd 0 (formedX 2)) = false ∧
      portBusy (withCmd 0 (formedX 1)) (.cmd 0) = false ∧ stopping (withCmd 0 (formedX 1)) = false ∧
      ucDoneEn (formedX 1).cmd = true ∧ ucOpc (formedX 1).cmd = 1 ∧ getCmd (withCmd 0 (formedX 2)) 0 = some (formedX 2) ∧
      portBusy (withCmd 0 (formedX 2)) (.cmd 0) = false ∧ ucDoneEn (formedX 2).cmd = true ∧ ucOpc (formedX 2).cmd = 2 := by
  decide +kernel

/-- A chunk of one row of 8 columns with TAG 5, epoch `e`. -/
def stageP (e cols : Word) : Packet :=
  mkPacket 0x09 0x120100 0x110101 1 0 0 (wordBytes [0x0007000200000005 ||| e <<< 40, 0x0001000000000007 ||| cols <<< 32, 0, 0, 0, 0, 0, 0])
def tile8 : StagedTile := { tag := 5, domain := 0, epoch := 2, chain := 7, src := 0x110101, rows := 1, cols := 8 }
def withTile : State := { withGroup 0 with pier := { (withGroup 0).pier with tiles := [tile8] } }

/-- The rest of a tile of two rows that is being discarded. -/
def stageTwo (e : Word) : Packet :=
  mkPacket 0x09 0x120100 0x110101 1 0 0 (wordBytes [0x0007000200000005 ||| e <<< 40, 0x0002000800000007, 0, 0, 0, 0, 0, 0])
def withDup : State := { withGroup 0 with pier := { (withGroup 0).pier with dups := [{ dupOf (stageTwo 2) with left := 2 }] } }

theorem witness_ChunksStage :
    (pierTakes (withGroup 0) = true ∧ stageShape (stageP 2 9) = false ∧
      domainFits (addressedAs base) (stageP 2 8) = false ∧ pierTakes (addressedAs base) = true) ∧
      (let s := withDup
       pierTakes s = true ∧ stageShape (stageTwo 2) = true ∧ domainFits s (stageTwo 2) = true ∧ s.pier.dups.any (dupHolds (stageTwo 2)) = true) ∧
      (stageShape (stageP 2 8) = true ∧ domainFits (withGroup 0) (stageP 2 8) = true ∧ (withGroup 0).pier.dups = [] ∧
        (withGroup 0).pier.tiles.find? (fun t => t.tag == chTag (stageP 2 8)) = none ∧
        stagedBytes (withGroup 0) + 4 * chRows (stageP 2 8) * chCols (stageP 2 8) ≤ 2 ^ 24) := by decide +kernel

theorem witness_ChunksStage_again :
    pierTakes withTile = true ∧ withTile.pier.dups = [] ∧
      (∀ p ∈ [stageP 1 8, stageP 2 8, stageP 3 8], stageShape p = true ∧ domainFits withTile p = true ∧
        withTile.pier.tiles.find? (fun t => t.tag == chTag p) = some tile8 ∧ tile8.domain = chDomain p ∧
        tile8.src = p.src ∧ tile8.chain = chId p) ∧
      (tile8.epoch = chEpoch (stageP 2 8) ∧ tile8.rows = chRows (stageP 2 8) ∧ tile8.cols = chCols (stageP 2 8) ∧
        tile8.chunks.contains (chRow (stageP 2 8), chQuarter (stageP 2 8)) = false) ∧
      (newerEpoch tile8.epoch (chEpoch (stageP 1 8)) = true ∧ newerEpoch (chEpoch (stageP 1 8)) tile8.epoch = false) := by decide +kernel

theorem witness_ChunksStage_newer :
    tile8.count < tile8.rows * tile8.cols ∧ newerEpoch (chEpoch (stageP 3 8)) tile8.epoch = true ∧
      withTile.pier.tiles.filter (fun x => x != tile8) = [] ∧ 0 + 4 * chRows (stageP 3 8) * chCols (stageP 3 8) ≤ 2 ^ 24 := by decide +kernel

theorem witness_ChunksStage_twice :
    (let p := { stageP 1 8 with src := 0x110201 }
     stageShape p = true ∧ domainFits withTile p = true ∧ withTile.pier.tiles.find? (fun t => t.tag == chTag p) = some tile8 ∧
       tile8.src ≠ p.src ∧ newerEpoch (chEpoch p) tile8.epoch = false ∧ withTile.pier.repQ.length < 16) ∧
      (let p := stageTwo 1
       let t := { tile8 with domain := 5 }
       let s := { withTile with pier := { withTile.pier with tiles := [t] } }
       pierTakes s = true ∧ stageShape p = true ∧ domainFits s p = true ∧ s.pier.tiles.find? (fun t => t.tag == chTag p) = some t ∧
         t.domain ≠ chDomain p ∧ 1 < chRows p * cdiv (chCols p) 1024) := by decide +kernel

/-- R279: a tile whose tag is staged is discarded and reported, and its later chunks with it. -/
theorem test_tag_twice :
    let p := { stageTwo 1 with src := 0x110201 }
    let u := after (.pierChunkStage p) withTile
    u.pier.tiles = [tile8] ∧ (u.pier.repQ.map (·.cause)) = [0x23] ∧ u.pier.dups.any (dupHolds p) = true ∧
      (after (.pierChunkStage p) u).pier.dups = [] := by decide +kernel

def ln0 : RcLine := ⟨0x8000, 7, List.replicate 512 0, 0⟩
def bst : ReadBurst := ⟨0x8040, 64, 7, true, 0⟩

theorem witness_PierTraffic :
    partRuns base .pier = true ∧
      rcLine { base with pier := { lines := [ln0] } } bst.addr.toNat bst.domain = some ln0 ∧
      bst.wf = true ∧ offStack { base with pier := { lines := [ln0] } } bst.addr.toNat bst.len = false ∧
      rcLine base bst.addr.toNat bst.domain = none ∧ offStack base bst.addr.toNat bst.len = false ∧ fillOf base bst = none ∧
      getJob base base.pier.nextCmd = none ∧
      (let s := { base with pier := { jobs := [{ k := 0, burst := some bst, lines := [0x8000] }], nextCmd := 1 } }
       partRuns s .pier = true ∧ offStack s bst.addr.toNat bst.len = false ∧ fillOf s bst = some 0) := by decide +kernel

/-- One request on a lane. -/
def onPort (w : Bool) (who : PortWho) (f : PierUnit → PierUnit) : State :=
  { base with pier := f { port := [⟨3, 5, 0x8040, w, who⟩] } }

theorem witness_PierTraffic_PierResponses :
    base.pier.port.all (fun r => !(r.lane == (3 : Fin 32).val && r.tag == (5 : BitVec 10).toNat)) = true ∧
      (let s := onPort false (.job 0) (fun p => { p with jobs := [{ k := 0, burst := some bst }] })
       s.pier.port = [⟨3, 5, 0x8040, false, .job 0⟩] ∧ s.pier.cmds = [] ∧ s.pier.jobs = [{ k := 0, burst := some bst, lines := [] }]) ∧
      (let s := onPort false (.job 0) (fun p => { p with jobs := [{ k := 0, burst := some bst, lines := [0x8000] }] })
       s.pier.port = [⟨3, 5, 0x8040, false, .job 0⟩] ∧ s.pier.cmds = [] ∧ s.pier.jobs = [{ k := 0, burst := some bst, lines := [0x8000] }] ∧
         (List.range 16).any (fun w => !s.pier.badWays.contains (rcSet (0x8000 / 512 * 512), w)) = true) ∧
      (let s := onPort false (.cmd 0) (fun p => { p with cmds := [{ k := 0, cmd := updC 1 }] })
       s.pier.port.find? (fun r => r.lane == 3 && r.tag == 5 && !r.write) = some ⟨3, 5, 0x8040, false, .cmd 0⟩ ∧
         (getCmd s 0).isSome = true ∧ 2 ≤ (2 : BitVec 2).toNat) ∧
      (let s := onPort true (.job 0) (fun p => { p with jobs := [{ k := 0 }] })
       s.pier.port = [⟨3, 5, 0x8040, true, .job 0⟩] ∧ s.pier.cmds = [] ∧ s.pier.jobs = [{ k := 0, req := none, old := [] }]) := by
  decide +kernel

theorem test_pier_write :
    let u := after (.pierWrite 0x8040 [1, 2] [true, false]) { base with pier := { lines := [ln0] } }
    memByte u 0x8040 = 1 ∧ memByte u 0x8041 = 0 ∧ u.pier.lines = [] := by decide +kernel

/-- `base` with the group's entry in memory, a reload of group 2 under way. -/
def reloading (ws : List Word) : State :=
  withWords { base with pier := { reloadBusy := true, reloadGroup := 2, groupBase := 0xFE00 } } 0x10000 ws

theorem witness_PierRegistersAndStack_PierRegisters :
    partWrites base .pier = true ∧ hwNow base .pier 0x40010 = 0 ∧
      (let s := { base with hw := [⟨.pier, 0x40010, 2 ^ 30, base.now⟩] }
       partWrites s .pier = true ∧ hwNow s .pier 0x40010 = 2 ^ 30) ∧
      partWrites (reloading (grpW 0)) .pier = true ∧ partWrites (reloading (grpW 0x40)) .pier = true ∧
      (reloading (grpW 0)).pier.cmds = [] ∧ (reloading (grpW 0)).pier.jobs = [] ∧ (reloading (grpW 0)).pier.reloadBusy = true ∧
      (match checkGroup (reloading (grpW 0)) 2 with | .ok x => decide (x.valid = true) | .error _ => false) = true ∧
      (match checkGroup (reloading (grpW 0x40)) 2 with | .ok _ => 0 | .error d => d) = 0x98 ∧ base.pier.flushBusy = false ∧
      ({ base with pier := { flushBusy := true } }).pier.flushBusy = true ∧
      ({ base with pier := { pcmapLocked := true } }).pier.pcmapLocked = true ∧ base.pier.pcmapLocked = false ∧
      (pcSels 0x2706080907).all (fun b => decide (6 ≤ b ∧ b ≤ 39)) = true ∧ (pcSels 0x2706080907).Nodup := by decide +kernel

theorem test_pcmap_range :
    (after (.pierPcmap 0x2806080907) base).pier.pcmap = base.pier.pcmap ∧ (after (.pierPcmap 0x2706080907) base).pier.pcmap = 0x2706080907 ∧
      (after (.pierPcmap 0x2706060907) base).pier.pcmap = base.pier.pcmap := by decide +kernel

theorem witness_PierRegistersAndStack_StackEvents :
    (stopping base = false ∧ partRuns base .pier = true) ∧
      (let s := { withGroup 0 with pier := { (withGroup 0).pier with readySeen := true } }
       stopping s = false ∧ partRuns s .pier = true ∧ s.pins.stackReady = true ∧ s.eng.linksDone = true) ∧
      (stopping (onPort true (.job 0) id) = false ∧ (onPort true (.job 0) id).pier.port ≠ []) ∧
      (let s := { base with pins := { base.pins with rstPier := false } }
       stopping s = false ∧ partRuns s .pier = false) ∧ (8191 : Nat) < 8192 ∧ (15 : Nat) < 16 := by decide +kernel

theorem test_stack_fatal : (after .stackFatal base).eng.mode = 2 ∧ (after .stackFatal base).eng.stopReason = 2 := by decide +kernel

/-! ## Links -/

/-- A flit of zeros with SEQ, ACK, VC and count, and its CRC. -/
def flitOf (seq ack : BitVec 12) (vc cnt : Nat) (good : Bool) : Flit :=
  let low : BitVec 32 := seq ++ ack ++ BitVec.ofNat 3 vc ++ BitVec.ofNat 5 cnt
  let data := List.replicate 504 0
  ⟨data, (crc32 (data ++ leBytes 4 low.toNat) ^^^ (if good then 0 else 1)) ++ low⟩
/-- Port 3 in a state. -/
def withPort (x : Port) : State := setPort base 3 x
def upP : Port := { st := .up, features := 0x7F, rxSeq := 7, partnerAddr := 0x130100, replay := [⟨flitOf 4 0 0 0 true, [], 0⟩] }

theorem toNat_flitWord (c low : BitVec 32) : BitVec.toNat (show Word from c ++ low) = c.toNat * 2 ^ 32 + low.toNat := by
  show (BitVec.append c low).toNat = _
  rw [show BitVec.append c low = c ++ low from rfl, BitVec.toNat_append, Nat.shiftLeft_eq,
    Nat.mul_comm, ← Nat.two_pow_add_eq_or_of_lt low.isLt]

theorem ctrl_flitOf (seq ack : BitVec 12) (vc cnt : Nat) (good : Bool) : ∃ c low : BitVec 32,
    (flitOf seq ack vc cnt good).data = List.replicate 504 0 ∧ low = seq ++ ack ++ BitVec.ofNat 3 vc ++ BitVec.ofNat 5 cnt ∧
      c = crc32 (List.replicate 504 0 ++ leBytes 4 low.toNat) ^^^ (if good then 0 else 1) ∧
      (flitOf seq ack vc cnt good).ctrl.toNat = c.toNat * 2 ^ 32 + low.toNat :=
  ⟨_, _, rfl, rfl, rfl, toNat_flitWord _ _⟩

theorem low_toNat (seq ack : BitVec 12) (vc cnt : Nat) :
    (seq ++ ack ++ BitVec.ofNat 3 vc ++ BitVec.ofNat 5 cnt).toNat = seq.toNat * 2 ^ 20 + ack.toNat * 2 ^ 8 + vc % 8 * 2 ^ 5 + cnt % 32 := by
  have a := (BitVec.ofNat 5 cnt).isLt
  have b := (BitVec.ofNat 3 vc).isLt
  have e := ack.isLt
  rw [BitVec.toNat_append, BitVec.toNat_append, BitVec.toNat_append, Nat.shiftLeft_eq, Nat.shiftLeft_eq, Nat.shiftLeft_eq,
    Nat.mul_comm _ (2 ^ 5), Nat.mul_comm _ (2 ^ 3), Nat.mul_comm _ (2 ^ 12),
    ← Nat.two_pow_add_eq_or_of_lt e, ← Nat.two_pow_add_eq_or_of_lt b, ← Nat.two_pow_add_eq_or_of_lt a]
  simp only [BitVec.toNat_ofNat]
  omega

/-- Reading the fields of a control word that is CRC, SEQ, ACK, VC and count. -/
theorem bits_low (x : Word) (c low : BitVec 32) (h : x.toNat = c.toNat * 2 ^ 32 + low.toNat) : bits x 31 0 = low.toNat := by
  have := low.isLt
  rw [bits, h]; omega

theorem fld_high (x : Word) (c low : BitVec 32) (h : x.toNat = c.toNat * 2 ^ 32 + low.toNat) : fld x 32 32 = c := by
  apply BitVec.eq_of_toNat_eq
  have := c.isLt; have := low.isLt
  simp only [fld, BitVec.extractLsb'_toNat, h, Nat.shiftRight_eq_div_pow]
  omega

theorem crc_flips (z : BitVec 32) : (z ^^^ 1 == z) = false := by
  rw [beq_eq_false_iff_ne]
  intro q
  have h : z ^^^ (z ^^^ 1) = z ^^^ z := by rw [q]
  rw [← BitVec.xor_assoc, BitVec.xor_self] at h
  revert h; simp

theorem crcOk_of (fl : Flit) (c low : BitVec 32) (hd : fl.data = List.replicate 504 0) (h : fl.ctrl.toNat = c.toNat * 2 ^ 32 + low.toNat) :
    crcOk fl = (c == crc32 (List.replicate 504 0 ++ leBytes 4 low.toNat)) := by
  rw [crcOk, flitCrc, bits_low _ _ _ h, fld_high _ _ _ h, hd, List.length_replicate, decide_eq_true rfl, Bool.true_and]

/-- The flits above have the CRC that they say. -/
theorem crcOk_flitOf (seq ack : BitVec 12) (vc cnt : Nat) (good : Bool) : crcOk (flitOf seq ack vc cnt good) = good := by
  obtain ⟨c, low, hd, hl, hc, h⟩ := ctrl_flitOf seq ack vc cnt good
  rw [crcOk_of _ c low hd h, hc]
  generalize crc32 _ = z
  cases good
  · exact crc_flips z
  · simp

theorem flSeq_of (fl : Flit) (seq ack : BitVec 12) (d : BitVec 32) (vc cnt : Nat)
    (h : fl.ctrl.toNat = d.toNat * 2 ^ 32 + (seq.toNat * 2 ^ 20 + ack.toNat * 2 ^ 8 + vc % 8 * 2 ^ 5 + cnt % 32)) :
    flSeq fl = seq ∧ flCvc fl = vc % 8 := by
  constructor
  · apply BitVec.eq_of_toNat_eq
    have := ack.isLt; have := seq.isLt
    simp only [flSeq, fld, BitVec.extractLsb'_toNat, h, Nat.shiftRight_eq_div_pow]
    omega
  · rw [flCvc, bits, h, Nat.shiftRight_eq_div_pow]
    omega

theorem fields_flitOf (seq ack : BitVec 12) (vc cnt : Nat) (good : Bool) :
    flSeq (flitOf seq ack vc cnt good) = seq ∧ flCvc (flitOf seq ack vc cnt good) = vc % 8 := by
  obtain ⟨c, low, -, hl, -, h⟩ := ctrl_flitOf seq ack vc cnt good
  rw [hl, low_toNat] at h
  exact flSeq_of _ seq ack c vc cnt h

theorem witness_FlitsArrive :
    (getPort (withPort upP) 3).st = .up ∧ linkLooped (withPort upP) 3 0 = false ∧ (getMod (withPort upP) (keyPart 3) 0).crcFails.length < 15 ∧ upP.rxSeq = 7 ∧
      behind (6 : BitVec 12) upP.rxSeq = true ∧ behind (9 : BitVec 12) upP.rxSeq = false ∧ linkKey (.abut 3) = 3 ∧
      isEth (linkKey (.abut 6)) = true ∧ upP.replay ≠ [] ∧ upP.resends < 15 ∧
      upP.early = [] ∧ 15 ≤ ({ upP with resends := 15 }).resends ∧ ({ upP with resends := 15 }).replay ≠ [] ∧
      LinksIdle (withPort { upP with resends := 15 }) = true ∧ (3 : Nat) < 16 ∧
      linkLooped { withPort upP with loop := [(32, { run := true, path := 7, index := 3 })] } 3 0 = true := by
  decide +kernel

/-- A flit with a wrong CRC, one out of turn, one already had and one in its turn. -/
theorem witness_FlitsArrive_flits :
    crcOk (flitOf 7 4 0 5 false) = false ∧ ({ upP with early := [(1, flitOf 8 4 0 5 true)] }).early = [(1, flitOf 8 4 0 5 true)] ∧
      (flSeq (flitOf 8 4 0 5 true) = 8 ∧ flCvc (flitOf 8 4 0 5 true) = 0) ∧ (crcOk (flitOf 9 4 0 5 true) = true ∧ flSeq (flitOf 9 4 0 5 true) = 9) ∧
      (crcOk (flitOf 6 4 0 5 true) = true ∧ flSeq (flitOf 6 4 0 5 true) = 6) ∧
      crcOk (flitOf 7 4 0 5 true) = true ∧ flSeq (flitOf 7 4 0 5 true) = 7 ∧ flCvc (flitOf 7 4 0 5 true) = 0 :=
  ⟨crcOk_flitOf .., rfl, fields_flitOf .., ⟨crcOk_flitOf .., (fields_flitOf ..).1⟩, ⟨crcOk_flitOf .., (fields_flitOf ..).1⟩, crcOk_flitOf ..,
    (fields_flitOf ..).1, (fields_flitOf ..).2⟩

theorem test_replay_limit :
    (getPort (after (.flitReplayTimeout (.abut 3)) (withPort { upP with resends := 15 })) 3).st = .down := by decide +kernel

/-- A module that trained, and one that did not. -/
def tr (ok : Bool) : TrainResult := { ok := ok, rate := 0, reversed := false, failed := 0, repaired := 0 }

theorem witness_LinkStart_LinkTraining :
    (let s := withPort {}
     (getPort s 3).st = .down ∧ mayTrain (seeSignal s 3) 3 = true ∧ s.eng.fuseDone = true ∧ partRuns s (keyPart 3) = true) ∧
      (let s := withPort { st := .training }
       (getPort s 3).st = .training ∧
         (([((0 : Nat), tr true)].filter (fun m => !moduleLooped s (keyPart 3) m.1)).filter (fun m => joins m.2)).map (·.1) = [0] ∧
         (([((0 : Nat), tr false)].filter (fun m => !moduleLooped s (keyPart 3) m.1)).filter (fun m => joins m.2)).map (·.1) = [] ∧ isEth 3 = false) ∧
      (let s := setPort base 6 { st := .training }
       (getPort s 6).st = .training ∧ isEth 6 = true ∧ hasSignal s 6 = false ∧
         hasSignal { s with pins := { s.pins with sigDetect := 0xFF } } 6 = true) ∧
      (let s := { setPort base 17 { st := .training } with eng := { base.eng with phase := 5, linksDone := false } }
       modPort s .span 0 = some 17 ∧ s.eng.linksDone = false ∧ farInReset s 17 = false) := by decide +kernel

theorem test_training_ends :
    (getPort (after (.trainingDone (.abut 3) [(0, tr true)]) (withPort { st := .training })) 3).mods = [0] ∧
      (getPort (after (.trainingDone (.abut 3) [(0, tr false)]) (withPort { st := .training })) 3).st = .down := by decide +kernel

/-- An IDENT of versions, address 0x130100 and features. -/
def identP (vmax vmin feats : Word) : Packet :=
  mkPacket 0x14 0xFFFFFF 0x130100 3 0 0 (wordBytes [vmax <<< 56 ||| vmin <<< 48 ||| 0x0000130100000000, feats <<< 32, 0, 0])

theorem witness_LinkStart_LinkNegotiation :
    let good := identP 0x13 0x10 0x7F
    let bad := identP 0x13 0x13 0x7F
    let s := withPort { st := .negotiating }
    badHeader good = false ∧ badHeader bad = false ∧ badHeader { good with rsv0 := 1 } = true ∧
      (getPort s 3).st = .negotiating ∧ (getPort s 3).identGot = false ∧ wrongPart 3 good = false ∧
      bits (payloadWord good 0) 55 48 ≤ min 0x12 (bits (payloadWord good 0) 63 56) ∧ 0x10 ≤ min 0x12 (bits (payloadWord good 0) 63 56) ∧
      bits (payloadWord good 0) 63 56 / 16 = 1 ∧
      (fld (payloadWord good 1) 32 32 &&& (0x7F : Half) &&& 0x7F).getLsbD 0 = true ∧ addressed s = false ∧
      min 0x12 (bits (payloadWord bad 0) 63 56) < bits (payloadWord bad 0) 55 48 ∧ wrongPart 17 good = true ∧
      (let c := { s with abut := { s.abut with fabActive := fld (payloadWord good 0) 24 24 } }
       (getPort c 3).st = .negotiating ∧ addressed c = true ∧ fld (payloadWord good 0) 24 24 = c.abut.fabActive &&& 0xFFFFF0 ∧
         c.abut.repQ.length < 15) := by decide +kernel

theorem test_ident :
    (getPort (after (.ident (.abut 3) (identP 0x13 0x10 0xFF)) (withPort { st := .negotiating })) 3).version = 0x12 ∧
      (getPort (after (.ident (.abut 3) (identP 0x11 0x10 0xFF)) (withPort { st := .negotiating })) 3).features = 0x3F ∧
      (getPort (after (.ident (.abut 3) (identP 0x13 0x13 0x7F)) (withPort { st := .negotiating })) 3).st = .failed := by decide +kernel

theorem witness_LinkLosses :
    partWrites base .abut = true ∧ LinksIdle base = true ∧ (0 : Word).getLsbD 4 = false ∧ (0x10 : Word).getLsbD 4 = true ∧ mayTrain base 3 = true ∧
      (getPort (withPort upP) (linkKey (.abut 3))).st = .up ∧ LinksIdle (withPort upP) = true ∧
      (let s := setMod (withPort { upP with mods := [2] }) .abut 2 { out := true }
       (getMod s .abut 2).out = true ∧ modPort s .abut 2 = some 3 ∧ moduleLooped s .abut 2 = false) := by decide +kernel

theorem test_port_ctl : (getPort (after (.portRetrain 3 0x000000FF00000000) base) 3).replayTimeout = 256 := by decide +kernel

/-! ## The fabric -/

/-- `base` as engine set 0x1100, ports 0 and 3 UP with every feature, and a route for 0x13010 by port 3. -/
def fab (f : State → State) : State :=
  f { setPort (setPort base 3 upP) 0 { upP with replay := [] } with
      map := { active := [(1, 0x200000), (2, 0x8000000000110102)] }
      abut := { (setPort (setPort base 3 upP) 0 { upP with replay := [] }).abut with
                fabActive := 0x110100, routeActive := [(0, 0x8000000000000008 ||| 0x13010 <<< 43 ||| 0xFFFFF <<< 23)] } }
/-- A request to an endpoint of this engine set from 0x130101. -/
def reqP (typ : Nat) (ep : BitVec 24) (aux : BitVec 16) (ws : List Word) : Packet :=
  { mkPacket typ (0x110100 ||| ep) 0x130101 1 6 aux (wordBytes ws) with ttl := 9 }
def farP : Packet := { reqP 0x01 0 0 [0x0008000000008000, 0, 7] with dest := 0x130102 }

theorem witness_RouterAndEthernet_RouterForwards :
    failedTakes (fab id) 5 farP = true ∧ failedTakes (fab id) 5 (reqP 0x01 0 0 []) = true ∧ failedTakes (fab id) 5 { farP with rsv1 := 1 } = true ∧
      unrouted farP = false ∧ unrouted (reqP 0x01 0 0 []) = false ∧ 1 < (reqP 0x01 0 0 []).ttl.toNat ∧
      linkLocal farP = false ∧ addressed (fab id) = true ∧ badPacket farP = false ∧ 1 < farP.ttl.toNat ∧
      routeOf (fab id) 5 farP = .port 3 ∧ routeOf (fab id) 5 (reqP 0x01 0 0 []) = .mine ∧ linkLocal (reqP 0x01 0 0 []) = false ∧
      badPacket (reqP 0x01 0 0 []) = false ∧ badPacket { farP with rsv1 := 1 } = true ∧ linkLocal { farP with rsv1 := 1 } = false := by
  decide +kernel

theorem test_router_ttl :
    ((getPort (after (.routerForward 5 farP) (fab id)) 3).txq.map (fun p => (p.dest, p.ttl))) = [(0x130102, 8)] := by decide +kernel

def frame (fcs : Bool) : EthFrame :=
  { dst := 0, src := 0, vlan := none, etype := 0, encap := 0x1201000000000000, flits := [flitOf 0 0 0 0 true], fcsOk := fcs
    control := false }

theorem witness_RouterAndEthernet_EthernetPorts :
    isEth (6 : Fin 16).val = true ∧ ethBad base 6 (frame false) = true ∧ ethBad base 6 (frame true) = false ∧
      ({ frame true with encap := 0x1202000000000000, flits := [flitOf 0 0 0 0 true, flitOf 1 0 0 0 true] }).flits.length = 2 ∧
      ethBad base 6 { frame true with encap := 0x1202000000000000, flits := [flitOf 0 0 0 0 true, flitOf 1 0 0 0 true] } = false ∧
      partWrites base .abut = true ∧ partWrites (setPort base 8 upP) .abut = true ∧
      (List.range 8).all (fun k => decide ((getPort base (6 + k)).st = .down)) = true ∧
      (List.range 8).any (fun k => decide ((getPort (setPort base 8 upP) (6 + k)).st ≠ .down)) = true := by decide +kernel

/-- A frame with the next flit of a port that is UP. -/
theorem witness_RouterAndEthernet_EthernetPorts_good :
    let s := setPort base 6 { upP with rxSeq := 0, early := [] }
    ethBad s 6 (frame true) = false ∧ (frame true).flits = [flitOf 0 0 0 0 true] ∧ (getPort s 6).st = .up ∧ crcOk (flitOf 0 0 0 0 true) = true ∧
      flSeq (flitOf 0 0 0 0 true) = (getPort s 6).rxSeq ∧ flCvc (flitOf 0 0 0 0 true) ≠ 7 ∧ (getPort s 6).early = [] ∧ linkLooped s 6 0 = false := by
  refine ⟨by decide +kernel, rfl, by decide +kernel, crcOk_flitOf .., ?_, ?_, by decide +kernel, by decide +kernel⟩
  · rw [(fields_flitOf ..).1]; decide +kernel
  · rw [(fields_flitOf ..).2]; decide +kernel

/-- A WRITE of 7 to 0x8000 and a READ of 8 bytes there. -/
def wrP (ep : BitVec 24) : Packet := reqP 0x01 ep 0 [0x0008000000008000, 7]
def rdP (ep : BitVec 24) : Packet := reqP 0x03 ep 0 [0x0008000000008000, 0]

theorem witness_FabricMemory :
    arrives (fab id) (wrP 0) 0x01 = true ∧ dedupHit (fab id) (wrP 0) = none ∧ epOf (wrP 0).dest = 0 ∧ epOf (wrP 2).dest = 2 ∧ partRuns (fab id) .pier = true ∧
      arrives (fab id) (wrP 2) 0x01 = true ∧ dedupHit (fab id) (wrP 2) = none ∧ offStack (fab id) (pkAddr (wrP 2)) (pkLen (wrP 2)) = false ∧
      offStack (fab id) (pkAddr (rdP 2)) (pkLen (rdP 2)) = false ∧ dedupHit (fab id) (rdP 0) = none ∧
      (dedupHit (fab (fun s => { s with abut := { s.abut with dedup := [⟨2, 0x130101, 6, wrP 2, 0⟩] } })) { wrP 2 with retry := true }).isSome = true ∧
      arrives (fab (fun s => { s with abut := { s.abut with dedup := [⟨2, 0x130101, 6, wrP 2, 0⟩] } })) { wrP 2 with retry := true } 0x01 = true ∧
      arrives (fab id) (rdP 2) 0x03 = true ∧ dedupHit (fab id) (rdP 2) = none ∧ epOf (rdP 2).dest = 2 ∧
      (let s := { fab id with pier := { lines := [⟨0x8000, 0, List.replicate 512 0, 0⟩] } }
       arrives s (rdP 2) 0x03 = true ∧ partRuns s .pier = true ∧ dedupHit s (rdP 2) = none ∧ offStack s (pkAddr (rdP 2)) (pkLen (rdP 2)) = false ∧
         missesOf s (burstOf (rdP 2)) = []) ∧ epOf (rdP 0).dest = 0 ∧ pkLen (rdP 0) ≠ 0 ∧ getCxl (fab id) (fab id).abut.nextJob = none ∧
      arrives (fab id) (rdP 0) 0x03 = true := by decide +kernel

theorem test_fabric_write :
    memByte (after (.write (wrP 2)) (fab id)) 0x8000 = 7 ∧
      ((after (.read (rdP 0)) (fab id)).abut.cxl.map (fun r => (r.tag, r.unit, r.write))) = [(0, 0x8000, false)] := by decide +kernel

def cxlS (beats : Nat) (p : Packet) : State :=
  fab (fun s => { s with abut := { s.abut with cxl := [⟨9, 0x8000, cxlWrites { k := 0, req := p, todo := [] }, 0⟩]
                                               cxlJobs := [{ k := 0, req := p, todo := [], beats := beats }] } })

theorem witness_FabricMemory_CxlTraffic :
    (let j : CxlJob := { k := 0, req := rdP 0, todo := [] }
     (cxlS 0 (rdP 0)).abut.cxl = [⟨(9 : BitVec 12).toNat, 0x8000, cxlWrites j, j.k⟩] ∧ (cxlS 0 (rdP 0)).abut.cxlJobs = [j] ∧ j.todo = []) ∧
      (cxlS 65 (rdP 0)).abut.cxl.find? (fun r => r.tag == (9 : BitVec 12).toNat) = some ⟨9, 0x8000, false, 0⟩ ∧
      (cxlS 65 (rdP 0)).abut.repQ.length < 16 ∧ (cxlS 65 (rdP 0)).abut.cxlJobs = [{ k := 0, req := rdP 0, todo := [], beats := 65 }] ∧
      (getCxl (cxlS 65 (rdP 0)) 0).any (fun j => decide ((cxlS 65 (rdP 0)).abut.cxlTimeout.toNat < j.beats)) = true := by decide +kernel

/-- A SIGNAL of 3 to counter `n` of lease `l`. -/
def sigP (l n : Word) : Packet := reqP 0x05 1 0 [3, l <<< 8 ||| n]

theorem witness_SignalsArrive :
    let s := fab withCnt
    arrives s (sigP 0 9) 0x05 = true ∧ dedupHit s (sigP 0 9) = none ∧ epOf (sigP 0 9).dest = 1 ∧ signalStatus s (sigP 0 9) = 0 ∧ hears s 9 = true ∧
      sgCounter (sigP 0 9) = 9 ∧
      sigCnt (getCnt s 9) (sgAmount (sigP 0 9)) = some { p := 9, c := 4, cap := 10 } ∧ signalStatus s (sigP 1 9) = 1 ∧
      signalStatus s (sigP 0 200) = 2 ∧ signalStatus s { sigP 0 9 with payload := wordBytes [3, 0x10009] } = 3 ∧
      signalStatus s { sigP 0 9 with payload := wordBytes [9, 9] } = 4 ∧
      arrives s { sigP 0 9 with payload := wordBytes [9, 9] } 0x05 = true ∧ dedupHit s { sigP 0 9 with payload := wordBytes [9, 9] } = none := by decide +kernel

theorem test_signal : (getCnt (after (.signal (sigP 0 9)) (fab withCnt)) 9).p = 9 := by decide +kernel

/-- A request of context 5's burst outstanding under TAG 6 of endpoint 1. -/
def burstOut (d : List Word) (b : Burst) (f : State → State) : State :=
  let s := inXfer d b
  f { fab id with str := s.str, cnt := s.cnt, net := { out := [(65536 + 6, .burst 5 0 0)] } }

theorem witness_FabricAnswers :
    arrives (fab id) (reqP 0x06 1 0 []) 0x06 = true ∧ arrives (fab id) (reqP 0x08 1 0 []) 0x08 = true ∧
      arrives (fab id) (reqP 0x13 1 0 []) 0x13 = true ∧ arrives (fab id) (reqP 0x07 1 0 []) 0x07 = true ∧
      dedupHit (fab id) (reqP 0x07 1 0 []) = none ∧ epOf (reqP 0x07 1 0 []).dest < 3 ∧
      (let s := burstOut (ringD false) (b64 true []) id
       outstanding s (reqP 0x04 1 0 []) = some (.burst 5 0 0) ∧ ctxOwner s 5 = some 0 ∧ getBurst (getStr s 5) 0 0 = some (b64 true []) ∧
         inFlight (b64 true []) = true ∧ StreamsIdle s = true ∧ arrives s (reqP 0x04 1 0 []) 0x04 = true ∧ stIsRing (getStr s 5) = true ∧
         bits (reqP 0x04 1 0 []).aux 1 0 < 2 ∧ (b64 true []).bad = false ∧ outstanding s (reqP 0x10 1 0 []) = some (.burst 5 0 0) ∧ arrives s (reqP 0x10 1 0 []) 0x10 = true ∧
         (getStr s 5).st = .running) ∧
      (let s := burstOut outD (b64 true [7]) id
       outstanding s (reqP 0x02 1 0 []) = some (.burst 5 0 0) ∧ arrives s (reqP 0x02 1 0 []) 0x02 = true ∧ stIsRing (getStr s 5) = false ∧
         ctxOwner s 5 = some 0 ∧ inFlight (b64 true [7]) = true ∧ StreamsIdle s = true ∧ getBurst (getStr s 5) 0 0 = some (b64 true [7])) ∧
      (let s := { fab id with net := { out := [(65536 + 6, .table 0 0x9000 8)] } }
       arrives s (reqP 0x04 1 0 [7]) 0x04 = true ∧ outstanding s (reqP 0x04 1 0 [7]) = some (.table 0 0x9000 8) ∧
         bits (reqP 0x04 1 0 [7]).aux 1 0 < 2 ∧ arrives s (reqP 0x04 1 2 []) 0x04 = true ∧
         outstanding s (reqP 0x04 1 2 []) = some (.table 0 0x9000 8) ∧ 2 ≤ bits (reqP 0x04 1 2 []).aux 1 0) ∧
      (let i := { vecI 1 9 with op := .updIssue }
       let s := { fab id with net := { out := [(65536 + 6, .upd 1)] }, instrs := [i] }
       arrives s (reqP 0x10 1 3 []) 0x10 = true ∧ outstanding s (reqP 0x10 1 3 []) = some (.upd 1) ∧ getInstr s 1 = some i) := by
  decide +kernel

/-- An instruction whose results' last write is out; `w` is the status word it still owes. -/
def owing (w : Option Word) : SpanI := { vecI 1 9 with stage := .running, owes := some (w, [9]), statusPa := w.map (fun _ => 0x8100) }
def owed (w : Option Word) : State :=
  { fab id with net := { out := [(65536 + 6, .result 1)] }, instrs := [owing w] }

theorem witness_FabricAnswers_result :
    [none, some 1].all (fun w => decide
      (arrives (owed w) (reqP 0x02 1 0 []) 0x02 = true ∧ outstanding (owed w) (reqP 0x02 1 0 []) = some (.result 1) ∧
        getInstr (owed w) 1 = some (owing w) ∧ (owing w).owes = some (w, sigList (owing w)) ∧
        ((owed w).net.out.filter (fun e => e.1 != 65536 * 1 + 6)).all (fun e => e.2 != .result 1) = true ∧
        stopping (owed w) = false ∧ StreamsIdleBut (owed w) 1 = true)) = true := by decide +kernel

theorem witness_FabricAnswers_status :
    epOf (reqP 0x02 1 0 []).dest = 1 ∧ (reqP 0x02 1 0 []).tag.toNat = 6 ∧ (owing (some 1)).statusPa = some 0x8100 ∧
      (List.range 8).all (fun k => !isFar (owed (some 1)) (0x8100 + k)) = true := by decide +kernel

/-- An UPD.ISSUE whose answer comes. -/
theorem witness_FabricAnswers_UpdateAnswered :
    let i := { vecI 1 9 with op := .updIssue }
    let s := { fab id with net := { out := [(65536 + 6, .upd 1)] }, instrs := [i] }
    arrives s (reqP 0x0C 1 34 []) 0x0C = true ∧ outstanding s (reqP 0x0C 1 34 []) = some (.upd 1) ∧ getInstr s 1 = some i ∧
      outstanding s (reqP 0x0C 1 0 []) = some (.upd 1) ∧ arrives s (reqP 0x0C 1 0 []) 0x0C = true ∧ stopping s = false ∧
      LinksIdleBut s 1 = true ∧ (reqP 0x0C 1 0 []).aux = 0 ∧ (reqP 0x0C 1 34 []).aux ≠ 0 ∧ writesOut s i.u = false ∧
      i.statusPa = none := by decide +kernel

/-- A report that waits in the span's queue, with the engine set's address for reports. -/
def reported : State := fab (fun s => engineReport { s with eng := { s.eng with eventDest := 0x130108 } } 0x51 0 1)

theorem witness_FabricAnswers_report :
    (repQueue reported .span).length = 1 ∧ (repQueue reported .span).all (fun r => decide (reportDest reported .span r ≠ 0)) = true ∧
      addressed reported = true := by decide +kernel

theorem test_report_leaves :
    (after (.reportDequeue .span) reported).repQ = [] ∧
      ((after (.reportDequeue .span) reported).net.out.map (·.2)) = [.event] := by decide +kernel

/-! ## Multicast -/

/-- Group 4 at this router: upstream port 3, downstream the span and port 3; a root where asked. -/
def grouped4 (root : Bool) (f : State → State) : State :=
  fab (fun s => f { s with abut := { s.abut with mcActive := [(4, 0x8000180000000009 ||| (if root then 0x40000000000 else 0))] } })
def mdP : Packet := { reqP 0x0D 0 0 [0x0000000000000001, 0x10, 5, 6] with dest := 4 }

/-- Lease 0 binds group 4 to counter 9. -/
def bind4 : McBind := ⟨0x8000, 0x8000, 4, true, 9⟩
/-- Group 4 at its root, downstream the span, which lease 0 binds. -/
def rooted : State := setRt (fab (fun s => { s with abut := { s.abut with mcActive := [(4, 0x80001C0000000001)] } })) 0 { binds := [bind4] }
def okWrites (r : Except MemErr (List (Nat × Byte))) : List (Nat × Byte) := match r with | .ok ws => ws | .error _ => []

theorem witness_Multicast_MulticastForwards :
    mdP.typ = 0x0D ∧ (fab id).eng.startFail = false ∧ recvWaits (fab id) mdP = none ∧ mdGroup mdP = 4 ∧ mcBad mdP = false ∧
      meValid (mcEntry (fab id) 4) = false ∧
      (let s := grouped4 false id
       s.eng.startFail = false ∧ recvWaits s mdP = none ∧ meValid (mcEntry s 4) = true ∧ meRoot (mcEntry s 4) = false ∧
         (5 : Fin 16).val ≠ meUp (mcEntry s 4) ∧ meUp (mcEntry s 4) ≠ 0 ∧ branchLive s (meUp (mcEntry s 4)) = true) ∧
      (let s := setPort (grouped4 false id) 3 { upP with st := .down, partnerAddr := 0 }
       s.eng.startFail = false ∧ recvWaits s mdP = none ∧ meValid (mcEntry s 4) = true ∧ meRoot (mcEntry s 4) = false ∧
         (5 : Fin 16).val ≠ meUp (mcEntry s 4) ∧ branchLive s (meUp (mcEntry s 4)) = false) ∧
      (let s := grouped4 true (fun s => { s with abut := { s.abut with mcActive := [(4, 0x80001C0000000008)] } })
       let e := mcEntry s 4
       s.eng.startFail = false ∧ recvWaits s mdP = none ∧ meValid e = true ∧ meRoot e = true ∧
         (prunedBranches s 4).all (fun q => q == (5 : Fin 16).val) = true ∧
         0 ∉ (meDown e).filter (fun q => q != 5 && branchLive s q) ∧ (meDown e).filter (fun q => q != 5 && branchLive s q) ≠ []) ∧
      (let s := rooted
       let e := mcEntry s 4
       s.eng.startFail = false ∧ recvWaits s mdP = none ∧ meValid e = true ∧ meRoot e = true ∧
         (prunedBranches s 4).all (fun q => q == (5 : Fin 16).val) = true ∧
         0 ∈ (meDown e).filter (fun q => q != 5 && branchLive s q) ∧ addressed s = true ∧ bindings s 4 = [(0, bind4)] ∧
         (okWrites (recvAt s 0 bind4 mdP).1).length = 16 ∧ ∀ x ∈ okWrites (recvAt s 0 bind4 mdP).1, isFar s x.1 = false) := by
  decide +kernel

/-- A packet of group 4 passed on, its answer owed by branch 3. -/
def wait4 : McWait := { group := 4, pk := mdP, mseq := 1, off := 0, upPort := 5, waiting := [3], beats := 100000 }
def waited : State := grouped4 false (fun s => { s with mc := { wait := [wait4] } })
def ackP : Packet := { mcAckFor mdP with src := 4 }
def recv4 : McRecv := { lease := 0, group := 4, src := 0x130101, mseq := 1, total := 0x10, arrived := [(0, mdP)] }
def bound : State := withCnt (setRt (grouped4 false (fun s => { s with mc := { recv := [recv4] } })) 0 { binds := [bind4] })
def missP : Packet := { reqP 0x0F 1 0 [0x0000001000000001, 0x1301010004] with aux := 0 }

theorem witness_Multicast_MulticastAnswers :
    LinksIdle waited = true ∧ stopping waited = false ∧ waited.eng.startFail = false ∧ addressed waited = true ∧
      branchPort waited 5 = none ∧ branchPort (setPort waited 5 upP) 5 = some 5 ∧ ackP.typ = 0x0E ∧ badHeader ackP = false ∧ 1 < ackP.ttl.toNat ∧
      waited.mc.wait.find? (fun w => waitIs w (bits ackP.src 9 0) ackP.dest (mdMseq ackP) (mdOff ackP) &&
        w.waiting.any (fun q => q == (3 : Fin 16).val || branchPort waited q == some (3 : Fin 16).val)) = some wait4 ∧
      wait4.waiting = [(3 : Fin 16).val] ∧ waited.mc.wait = [wait4] ∧ wait4.upPort ≠ 0 ∧
      meValid (mcEntry waited 4) = true ∧ (mcEntry waited 4).getLsbD 3 = true ∧
      waited.mc.wait.any (fun x => x.group == 4 && x.waiting.contains 3 && decide (pruneBeats waited 4 3 ≤ x.beats)) = true ∧
      LinksIdle bound = true ∧ stopping bound = false ∧ bound.eng.startFail = false ∧ 1 < missP.ttl.toNat ∧ recvOut bound 0 = false ∧ missP.typ = 0x0F ∧ missP.aux.getLsbD 0 = false ∧ isOwn bound missP.dest = true ∧
      epOf missP.dest = 1 ∧ badPacket missP = false ∧ addressed bound = true ∧ bindings bound (bits (payloadWord missP 1) 15 0) = [(0, bind4)] ∧
      bound.mc.recv.find? (fun r => r.lease == 0 && r.group == 4 && r.mseq == 1 && r.arrived.any (fun a => a.1 == 0)) = some recv4 ∧
      recv4.arrived.find? (fun a => a.1 == 0) = some (0, mdP) ∧ recv4.written.all (fun w => w.1 != 0) = true ∧ recv4.done = false ∧
      recv4.missed = false ∧ recv4.total ≤ sumL (recv4.written.map (·.2)) + (mdData mdP).length ∧
      sumL (recv4.written.map (·.2)) + (mdData mdP).length < ({ recv4 with total := 0x11 }).total ∧
      (bindings bound 4).find? (fun lb => lb.1 == 0) = some (0, bind4) ∧ hears bound 9 = true ∧
      sigCnt (getCnt bound 9) 1 = some { p := 7, c := 4, cap := 10 } := by decide +kernel

theorem test_multicast :
    (after (.mcAck 3 ackP) waited).mc.wait = [] ∧ (after (.mcPrune 4 3) waited).mc.pruned = [67] ∧
      (getCnt (after (.mcDataWritten 0 4 1 0) bound) 9).p = 7 := by decide +kernel

/-! ## Commits and leases -/

/-- A commit register at its beat. -/
def dueReg : CommitReg := { pending := true, due := true }

/-- Shadow entries of some positions, committed at the beat. -/
def shadowed (written : BitVec 16) (sh : Tab Word) : State :=
  { base with lease := { base.lease with gen := dueReg, written := written, shadow := sh } }

theorem witness_Commits_CommitRegisters :
    base.eng.scrubDone = true ∧ partWrites base .abut = true ∧ (0x10000 : Word).getLsbD 16 = true ∧ ({} : CommitReg).pending = false := by
  decide +kernel

/-- The tables of a lease whose shadow entry names tasks, all of memory another set's. -/
def farTables : State := farAll (shadowed 2 [(16 + 7, 0x10000), (16 + 11, 0x0000080000000000)])

theorem witness_Commits_CommitsTaken :
    (shadowed 2 []).lease.gen.due = true ∧ (shadowed 2 [(16 + 4, 1)]).lease.gen.due = true ∧ tablesWait (shadowed 2 []) = false ∧
      tablesWait (shadowed 2 [(16 + 4, 1)]) = false ∧ lowestFail (commitFails (shadowed 2 [])) = none ∧
      lowestFail (commitFails (shadowed 2 [(16 + 4, 1)])) = some (1, 0x20) ∧
      farTables.lease.gen.due = true ∧ tablesWait farTables = true := by decide +kernel

theorem witness_Commits_CommitsTaken_maps :
    ({ base with map := { base.map with gen := dueReg } }).map.gen.due = true ∧ mapBad base.map.active = false ∧
      mapBad [(1, 0x200000), (2, 0x8000000000000001)] = true ∧
      ({ base with abut := { base.abut with gen := dueReg } }).abut.gen.due = true ∧
      routerBad { base.abut with fabShadow := 0x110100 } = false ∧ routerBad { base.abut with fabShadow := 0xFFFF00 } = true := by
  decide +kernel

theorem test_lease_commit :
    leaseWord (after .leaseCommitTake (shadowed 2 [(16 + 4, 0x3000)])) 1 4 = 0x3000 ∧
      leaseWord (after .leaseCommitTake (shadowed 2 [(16 + 4, 1)])) 1 4 = 0 ∧
      (after .leaseCommitTake (shadowed 2 [(16 + 4, 1)])).lease.gen.refused = true := by decide +kernel

/-- `base` with lease 0 in a state of its position. -/
def leaseIn (c : LeaseCtl) (r : LeaseRt) : State := { base with lease := { base.lease with ctl := [(0, c)], rt := [(0, r)] } }

/-- A position that waits for the scrub of its store pages, and the command that LOAD goes on with then. -/
def scrubbing : State := leaseIn { st := .loading, busy := true } { scrubWait := true }
/-- The state in which the command LOAD tries. -/
def loading1 (s : State) : State := setCmd (setLState s 0 .loading true) 0 1

theorem witness_LeaseLoads :
    base.eng.scrubDone = true ∧ leaseShut base = false ∧ lstate base 0 ≠ .empty ∧ lstate (leaseIn {} {}) 0 = .empty ∧
      (getCtl (leaseIn {} {}) 0).busy = false ∧ windowsDirty (leaseIn {} { fills := [(false, 0, 1)] }) 0 = true ∧
      readTasks (leaseIn {} {}) (taskBase base 0) (taskCount base 0) (cntBase base 0) (cntCount base 0) = .ok [] ∧
      readBinds (leaseIn {} {}) (mcBindBase base 0) (mcCount base 0) (cntBase base 0) (cntCount base 0) = .ok [] ∧
      areaValid (leaseIn {} {}) 0 = false ∧ readsOut (leaseIn {} {}) 0 = false ∧ windowsDirty (leaseIn {} {}) 0 = false ∧
      (loadRuns (leaseIn {} {}) 0).all (fun r => !farWaits (leaseIn {} {}) 0 r.1 r.2) = true ∧ StreamsIdle (leaseIn {} {}) = true ∧
      LinksIdle (leaseIn {} {}) = true ∧ lstate scrubbing 0 = .loading ∧ (getRt scrubbing 0).scrubWait = true ∧
      windowsDirty scrubbing 0 = false ∧ readsOut scrubbing 0 = false := by decide +kernel

/-- `leaseIn` with a VALID context area: the issue sequence 7, slot 3 in use, counter 0 at 5 of 4; in `more`, other bits of the header. -/
def areaed (more : Word) (c : LeaseCtl) (r : LeaseRt) : State :=
  withWords (withWords (leaseIn c r) 0x80000 [1 ||| more, 0, 7, 8]) 0x84500 [5, 4, 1, 0]

theorem witness_LeaseLoads_valid :
    let s := areaed 0 {} {}
    areaValid s 0 = true ∧ slotTaken s 0 = false ∧ badRecord s 0 = none ∧ brokenRecord s 0 = false ∧ areaHeld s 0 = 0 ∧
      readsOut (loadTry (loading1 s) 0) 0 = false ∧ (loadRuns s 0).all (fun r => !farWaits s 0 r.1 r.2) = true ∧
      leaseShut s = false ∧ lstate s 0 = .empty ∧ (getCtl s 0).busy = false ∧ windowsDirty s 0 = false ∧ StreamsIdle s = true ∧
      LinksIdle s = true ∧ badRecord (areaed 2 {} {}) 0 = some 0x80000 ∧ areaValid (areaed 2 {} {}) 0 = true ∧
      slotTaken (areaed 2 {} {}) 0 = false := by decide +kernel

theorem test_load_area :
    let u := after (.load 0) (areaed 0 {} {})
    lstate u 0 = .resident ∧ getCnt u 0 = { p := 5, c := 4, cap := 1 } ∧ (getRt u 0).seq = 7 ∧ (getSlot u 3).st = .spilled ∧
      ((after (.load 0) (areaed 2 {} {})).repQ.map (fun r => (r.cause, r.detail0, r.detail1))) = [(0x03, 1, 0x80000)] := by decide +kernel

theorem witness_LeaseLoads_area :
    physTable (leaseIn {} {}) (ctxBase (leaseIn {} {}) 0) 65536 ≠ none ∧ physTable (areaed 0 {} {}) (ctxBase (areaed 0 {} {}) 0) 65536 ≠ none := by
  constructor <;> (rw [physTable, if_pos (by decide +kernel)]; exact Option.some_ne_none _)

/-- Lease 0's pass stands next while one of lease 1, of a lower class, has the array. -/
def passing : State :=
  { mayPass with
    arr := { run := (running id).arr.run.map (fun r => { r with u := 7, lease := 1 }) }
    lease := { mayPass.lease with active := Tab.put mayPass.lease.active 17 0x0100000000000000, ctl := [(0, { st := .resident }), (1, { st := .resident })] } }

theorem witness_LeaseStopsAndReturns_LeaseStops_express :
    leaseShut passing = false ∧ lstate passing 1 = .resident ∧ (List.range 16).all (fun k => !beingParked passing k) = true ∧
      (getRt passing 1).cmd ≠ 2 ∧ passVictim passing = some 1 := by decide +kernel

/-- A thread's saved frame. -/
def frame0 : Frame := { thr := { pc := 0x400, st := .ready }, home := t0, written := false, pos := 0 }

theorem witness_LeaseStopsAndReturns_LeaseStops :
    (leaseShut base = false ∧ base.eng.scrubDone = true ∧ lstate base 0 = .resident ∧ (getCtl base 0).busy = false ∧
      (List.range 16).all (fun k => !beingParked base k) = true ∧ (getRt base 0).cmd ≠ 2) ∧
      (let s := { base with lease := { base.lease with active := (8, 5) :: leaseZero } }
       leaseShut s = false ∧ lstate s 0 = .resident ∧ (List.range 16).all (fun k => !beingParked s k) = true ∧ (getRt s 0).cmd ≠ 2 ∧
         inWindow s 0 = false ∧ s.lease.gen.due = false) ∧
      (let s := leaseIn { st := .resident } { cmd := 2 }
       leaseShut s = false ∧ lstate s 0 = .resident ∧ parking s 0 = true ∧ arrayEmptyOf s 0 = true) := by decide +kernel

theorem witness_LeaseStopsAndReturns_LeaseReturns :
    (let s := leaseIn { st := .suspended } { frames := [frame0] }
     leaseShut s = false ∧ ((List.range 16).findSome? (fun l => ((getRt s l).frames.findIdx? (fun f =>
        decide (f.home.core = (0 : Fin 4)) && !f.written && f.thr.loads.isEmpty)).map (fun k => (l, k)))) = some (0, 0) ∧
       (getRt s 0).frames[0]? = some frame0) ∧
      (let s := leaseIn { st := .parked } {}
       leaseShut s = false ∧ lstate s 0 = .parked ∧ inWindow s 0 = true ∧ s.lease.gen.due = false ∧ leaseClass s 0 = 0 ∧
         allThreads.any (freeThread s) = true) ∧
      (let s := leaseIn { st := .suspended } {}
       leaseShut s = false ∧ (getCtl s 0).busy = false ∧ s.eng.scrubDone = true ∧ lstate s 0 = .suspended) := by decide +kernel

theorem test_suspend_resume :
    lstate (after (.saveSequence 0) (after (.suspend 0) base)) 0 = .suspended ∧
      lstate (after (.resume 0) (leaseIn { st := .suspended } {})) 0 = .resident ∧
      (getCtl (after (.resume 0) base) 0).refused = true := by decide +kernel

theorem witness_LeaseEnds_LeaseUnloads :
    (let s := leaseIn { st := .suspended } {}
     leaseShut s = false ∧ s.eng.scrubDone = true ∧ lstate s 0 = .suspended ∧ (getCtl s 0).busy = false) ∧
      (let s := leaseIn { st := .unloading, busy := true } {}
       leaseShut s = false ∧ unloadReady s 0 = true ∧
         (List.range 32).all (fun x => decide ((getSlot s x).lease ≠ 0) || (getSlot s x).segs.isEmpty) = true) := by decide +kernel

theorem witness_LeaseEnds_LeaseReleases :
    base.eng.scrubDone = true ∧ leaseShut base = false ∧ lstate base 0 ≠ .empty ∧ lstate base 0 ≠ .releasing ∧
      (let s := leaseIn { st := .releasing } {}
       lstate s 0 = .releasing ∧ (getRt s 0).torn = false ∧ threadsHeld s 0 = 0 ∧ burstsOut s 0 = false) ∧
      (let s := leaseIn { st := .releasing } { torn := true }
       lstate s 0 = .releasing ∧ (getRt s 0).torn = true) := by decide +kernel

theorem test_release :
    lstate (after (.releaseComplete 0) (after (.releaseTeardown 0) (after (.release 0) base))) 0 = .empty := by decide +kernel

/-! ## The beat, the counters of events and the monitors -/

/-- `base` at a cycle, with the beat's registers. -/
def beatS (now : Nat) (b : BeatUnit) : State := { base with now := now, beat := b }

theorem witness_Beat_BeatCounts :
    glitch (beatS 261 { lastEdge := some 0 }) = true ∧ glitch (beatS 262 { lastEdge := some 0 }) = false ∧
      absorbed (beatS 262 { lastEdge := some 0 }) = false ∧ (beatS 4200 {}).beat.freeRun = false ∧
      (beatS 4200 {}).beat.lastBeat + 4 * (beatS 4200 {}).beat.nominal.toNat ≤ (beatS 4200 {}).now ∧
      genDue (beatS 1050 { freeRun := true }) = true ∧ genDue (beatS 1049 { freeRun := true }) = false ∧
      (beatS 262 { lastEdge := some 0 }).eng.fuseDone = true ∧ (beatS 4200 {}).eng.fuseDone = true := by decide +kernel

theorem witness_Commits_BeatMakesCommitsDue :
    let s := beatS 262 { lastEdge := some 0 }
    s.eng.fuseDone = true ∧ glitch s = false ∧ absorbed s = false := by decide +kernel

theorem witness_Beat_BeatRegisters : base.eng.scrubDone = true := by decide +kernel

/-- The span's links to both dies with a module each, and messages to both on their way. -/
def messages (abut : Bool) : State :=
  let s := setMod (setMod base .span 0 { up := true }) .span 8 { up := true }
  { setPort (setPort s 17 { upP with mods := [0] }) 16 { upP with mods := [8] } with
    pins := { base.pins with rstAbut := abut }
    beat := { base.beat with sent := [(.pier, 0x10005), (.abut, 0x10005), (.pier, 0x20005)] } }

theorem witness_Beat_BeatCounts_messages :
    (messages true).eng.fuseDone = true ∧ glitch (messages true) = false ∧ absorbed (messages true) = false ∧
      (getPort (messages true) 17).mods.any (fun m => (getMod (messages true) .span m).up) = true ∧
      (getPort (messages true) 16).mods.any (fun m => (getMod (messages true) .span m).up) = true ∧
      beatMessage (messages true) .pier 6 = none ∧ beatMessage (messages true) .pier 5 = some (.pier, 0x10005) ∧
      beatMessage (messages true) .abut 5 = some (.abut, 0x10005) ∧ partRuns (messages true) .pier = true ∧
      partRuns (messages true) .abut = true ∧ beatMessage (messages false) .abut 5 = some (.abut, 0x10005) ∧
      partRuns (messages false) .abut = false := by decide +kernel

theorem test_beat_message :
    (after (.beatSideband .pier 5) (messages true)).pier.beatCount = 0x10005 ∧
      (after (.beatSideband .pier 5) (messages true)).beat.sent = [(.abut, 0x10005), (.pier, 0x20005)] := by decide +kernel

theorem test_beats :
    (after .beatEdge (beatS 262 { lastEdge := some 0, count := 5 })).beat.count = 6 ∧
      (after .beatEdge (beatS 261 { lastEdge := some 0, count := 5 })).beat.count = 5 ∧
      (after .beatEdge (beatS 262 { count := 5, load := 9, loadPending := true })).beat.count = 9 ∧
      (after .beatEdge (beatS 262 { count := 5, load := 9, loadPending := true, loadAt := 262 })).beat.count = 6 ∧
      (after .beatGenerated (beatS 1050 { freeRun := true, count := 5 })).beat.count = 6 := by decide +kernel

/-- Performance counter 3 selects event 0x200 near its wrap. -/
def perfS : State :=
  { base with perf := { base.perf with val := [(3, 0xFFFFFFFFFFFFFFFE)], ctl := [(3, 0x1200)], reload := [(3, 0x100)] } }

theorem witness_CountersAndMonitors_PerfWraps :
    perfMatches (Tab.get 0 perfS.perf.ctl 3) (bits (Tab.get 0 perfS.perf.ctl 3) 11 0) srcNone = true ∧ (5 : Nat) ≤ 2 ^ 25 ∧
      2 ^ 64 ≤ (Tab.get 0 perfS.perf.val 3).toNat + 5 := by decide +kernel

theorem witness_CountersAndMonitors_Monitors :
    base.eng.fuseDone = true ∧ base.mon.tripPend.getLsbD 2 = false ∧ stopping base = false ∧ ({ base.mon with tripPend := 4 }).tripPend.getLsbD 2 = true ∧
      base.mon.tempTrip.toNat ≤ (0x200 : BitVec 10).toNat ∧ (0x200 : BitVec 10) ≠ 0 ∧ (0x200 : BitVec 10) ≠ 1023 ∧
      (let m := { base.mon with droopDue := true, droopLvl := 3 }
       m.droopDue = true ∧ m.droopLvl ≠ 0) := by decide +kernel

theorem test_perf_wrap :
    Tab.get 0 (after (.perfWrap 3 5 srcNone) perfS).perf.val 3 = 0x103 ∧
      (Tab.get 0 (after (.perfWrap 3 5 srcNone) perfS).perf.ctl 3).getLsbD 26 = true := by decide +kernel

/-- Sensor 2 has had one reading at or above TEMP_TRIP. -/
def tripS : State := { base with mon := { base.mon with tripPend := 4 } }

theorem witness_TempTrip :
    tripS.eng.fuseDone = true ∧ (0x200 : BitVec 10) ≠ 0 ∧ (0x200 : BitVec 10) ≠ 1023 ∧ tripS.mon.tempTrip.toNat ≤ (0x200 : BitVec 10).toNat ∧
      tripS.mon.tripPend.getLsbD 2 = true ∧ base.mon.tripPend.getLsbD 2 = false ∧ stopping tripS = false ∧ tripS.repQ.length < 15 ∧
      (0x100 : BitVec 10).toNat < tripS.mon.tempTrip.toNat := by decide +kernel

theorem test_temp_trip :
    (after (.tempReading [(2, 0x200, true)]) tripS).pins.thermtripN = false ∧ (after (.tempReading [(2, 0x200, true)]) base).eng.mode = 1 ∧
      (after (.tempReading [(2, 0x200, true)]) tripS).eng.stopReason = 6 ∧
      (after (.tempReading [(2, 0x100, true)]) tripS).mon.tripPend = 0 := by decide +kernel

theorem test_droop : (after (.droopTrip 1) base).mon.droopLvl = 8 := by decide +kernel

/-- Lease 0 with a task that starts when counter 5 has one unit, its THREAD_LIMIT 0 where asked. -/
def limitS (cut : Bool) : State :=
  let s := leaseIn { st := .resident } { tasks := [⟨0x400, #v[0, 0, 0, 0], true, 1, 5⟩] }
  { s with lease := { s.lease with active := if cut then (1, 0x1000C00080008100) :: leaseZero.drop 1 else leaseZero }
           cnt := [(5, { p := 3, c := 2, cap := 10 })] }

theorem test_thread_limit :
    (getThr (after .taskPlacement (limitS false)) t0).st ≠ .free ∧ (getThr (after .taskPlacement (limitS false)) t0).pc = 0x400 ∧
      (getThr (after .taskPlacement (limitS true)) t0).st = .free := by decide +kernel

/-! ## Reset, start-up and faults of storage -/

/-- Start-up in a phase, its resets high. -/
def phaseS (n : BitVec 4) : State :=
  { State.reset with eng := { phase := n }, pins := { rstSpan := true, rstPier := true, rstAbut := true } }

theorem witness_ResetAndPhases :
    ({ base with eng := { base.eng with startFail := true } }).eng.startFail = true ∧ (phaseS 1).eng.startFail = false ∧
      (phaseS 2).eng.startFail = false ∧ base.pins.rstSpan = true ∧ base.pins.rstPier = true ∧ base.pins.rstAbut = true ∧ State.reset.pins.rstSpan = false ∧
      base.eng.fuseDone = true ∧ bits (0x0000F1A0 : Word) 15 0 = 0xF1A0 ∧ bits (0 : Word) 15 0 ≠ 0xF1A0 ∧
      (phaseS 0).eng.phase = 0 ∧ (phaseS 0).pins.rstSpan = true ∧ (phaseS 0).pins.railsSpan = true ∧ (phaseS 1).eng.phase = 1 ∧
      (phaseS 2).eng.phase = 2 ∧ (phaseS 2).eng.held = [] ∧ (phaseS 3).eng.phase = 3 ∧ startupBad (phaseS 3) = false ∧
      startupBad { phaseS 3 with eng := { (phaseS 3).eng with coresOk := 0 } } = true ∧ (phaseS 4).eng.phase = 4 ∧
      (phaseS 4).eng.startFail = false ∧ (phaseS 4).eng.phase ≠ 0 ∧ (phaseS 4).pier.readySeen = false ∧
      ({ (phaseS 4).pier with readySeen := true }).readySeen = true := by decide +kernel

theorem test_phases :
    (after .resetPhaseEnd (phaseS 0)).eng.phase = 1 ∧ (after (.engineReset 0) base).eng.phase = 6 ∧
      (after (.engineReset 0xF1A0) base).eng.phase = 0 ∧ (after (.bistDone []) (phaseS 3)).eng.phase = 4 ∧
      (after .fuseLoadDone (phaseS 2)).eng.phase = 3 ∧
      (after (.rstNRise .span 0x155) State.reset).eng.straps = 0x155 := by decide +kernel

/-- Both spares of every kind of bank taken, or a bank waiting for its spare. -/
def noSpares : State :=
  { base with fuse := { base.fuse with spareBank := [(0, 0x8000), (1, 0x8001), (2, 0x8000), (3, 0x8001), (4, 0x8000), (5, 0x8001)] } }

theorem witness_StorageFaults :
    inService base = true ∧ (takeSpare base 0 7).isSome = true ∧ (takeSpare noSpares 0 7).isSome = false ∧ inService noSpares = true ∧
      (takeSpare noSpares 4 7).isSome = false ∧ (takeSpare noSpares 2 7).isSome = false ∧ (takeSpare base 4 7).isSome = true ∧
      (takeSpare base 2 7).isSome = true ∧ StreamsIdle noSpares = true ∧ (7 : Nat) < (if true then 64 else 256) ∧ (70 : Nat) < (if false then 64 else 256) ∧
      StreamsIdle base = true ∧ (4000 : Nat) < storePages false ∧ (8000 : Nat) < storePages true ∧ base.eng.coresOk.getLsbD 2 = true ∧
      ({ base.gir with bankBusy := [7] }).bankBusy = 7 :: [] ∧ base.eng.phase ≠ 0 ∧ stopping base = false ∧
      ({ base.eng with mode := 2 }).mode = 2 := by decide +kernel

/-- A region of lease 0 in North page 5, and a ring slot whose transfer is signalled and not taken. -/
def regionS : State := setTag base true 5 { valid := true }
def takenS : State := withStr { armed (ringD false) with start := 1 } []

theorem witness_StorageFaults_lost :
    (let s := regionS
     inService s = true ∧ (takeSpare s 4 7).isSome = true ∧ StreamsIdle s = true ∧
       (List.range 16).find? (fun k => lstate s k ≠ .empty && (windowsOf s k).any (fun w =>
         w.1 == true && decide (w.2.1 ≤ 5 ∧ 5 < w.2.1 + w.2.2))) = some 0 ∧
       (∀ c < 32, ringSlotOf s 0 c true 5 = none) ∧ (getTag s true 5).valid = true ∧ lstate s 0 = .resident ∧
       (getCtl s 0).busy = false ∧ s.repQ.length < 15 ∧ s.perf.ctl = []) ∧
      (let s := takenS
       let x := getStr s 5
       inService s = true ∧ (takeSpare s 2 7).isSome = true ∧ StreamsIdle s = true ∧
         (List.range 16).find? (fun k => lstate s k ≠ .empty && (windowsOf s k).any (fun w =>
           w.1 == false && decide (w.2.1 ≤ 0 ∧ 0 < w.2.1 + w.2.2))) = some 0 ∧
         (ctxMask s 0).getLsbD 5 = true ∧ ringSlotOf s 0 5 false 0 = some 0 ∧ 0 % max 1 (stRing x) = 0 ∧ firstHeld x ≤ 0 ∧
         (getCnt s (stData x)).c.toNat ≤ 0 ∧ freshNext x - stRing x ≤ 0 ∧ 0 < freshNext x ∧ x.xfers.any (fun t => t.n == 0) = false) := by
  decide +kernel

theorem test_lost_slot :
    (getStr (after (.storeBankFail false 7 [0]) takenS) 5).xfers.map (fun t => (t.n, t.again)) = [(0, true)] ∧
      ((after (.storeBankFail true 7 [5]) regionS).repQ.map (fun r => (r.cause, r.detail0, r.detail1))) = [(0x64, 7, 0x101), (0x62, 5, 1)] := by decide +kernel

theorem test_spares :
    (after (.girderBankFail 7) base).gir.bankBusy = [7] ∧ (after (.girderBankFail 7) noSpares).eng.stopReason = 1 ∧
      (after (.storeBankFail true 7 []) noSpares).eng.stopReason = 8 ∧ (after (.coreMismatch 2) base).eng.coresOk = 0xB := by
  decide +kernel

/-! ## Test, loop-backs, invalidations and the register map -/

/-- The engine set in TEST, before and after the zero-fill; and a span whose TEST_LOCK is blown. -/
def testS (filled : Bool) : State :=
  { base with eng := { base.eng with mode := 4, testFill := !filled }, tap := { base.tap with opened := filled, irSpan := 0x11 } }
def lockedS : State := { base with fuse := { base.fuse with words := [(0x70, 1)] } }

theorem witness_TestAndLoopBacks_TestAccess :
    testLock lockedS .span = true ∧ testLock base .span = false ∧ base.eng.mode ≠ 4 ∧ (testS false).eng.mode = 4 ∧
      (testS false).eng.testFill = true ∧ base.tap.opened = false ∧ (testS true).eng.mode = 4 ∧ (testS true).tap.opened = true ∧
      (testS true).tap.irSpan = 0x11 ∧ testLock (testS true) .span = false := by decide +kernel

theorem witness_TestAndLoopBacks_LoopBacks :
    StreamsIdle base = true ∧ LinksIdle base = true ∧ base.pier.jobs = [] ∧ base.pier.cmds = [] ∧ partWrites base .span = true ∧
      partWrites (leaseIn {} {}) .span = true ∧ loopFree (leaseIn {} {}) .span 1 0 = true ∧ loopTwice (leaseIn {} {}) .span 3 1 0 = false ∧
      loopFree base .span 1 0 = false ∧ (0x101 : Word).getLsbD 0 = true ∧ bits (0x101 : Word) 11 8 = 1 ∧ bits (0x101 : Word) 23 16 = 0 ∧
      (0x100 : Word).getLsbD 0 = false := by decide +kernel

theorem witness_TestAndLoopBacks_LoopBacks_twice :
    (let s := after (.loopbackStart .span 2 0x101) (leaseIn {} {})
     partWrites s .span = true ∧ loopTwice s .span 3 1 0 = true) := by decide +kernel

theorem test_tap :
    (after (.wrapper .span) lockedS).tap.irSpan = 0xFF ∧ (after (.wrapper .span) base).eng.mode = 4 ∧
      (after (.fuseShadowWrite 0x28008 0xF001) (testS true)).fuse.colRepair = [(1, 0xF001)] ∧
      (after (.fuseShadowWrite 0x28008 0xF001) base).fuse.colRepair = base.fuse.colRepair := by decide +kernel

theorem test_loop_back :
    (getLoop (after (.loopbackStart .span 2 0x101) (leaseIn {} {})) .span 2).run = true ∧
      (getLoop (after (.loopbackStart .span 2 0x101) base) .span 2).refused = true := by decide +kernel

/-- Both invalidations in progress for lease 3. -/
def invS : State := { base with eng := { base.eng with icInvBusy := true, icInvLease := 3, xlInvBusy := true, xlInvLease := 3 } }

theorem witness_Invalidations :
    base.eng.scrubDone = true ∧ base.eng.icInvBusy = false ∧ base.eng.xlInvBusy = false ∧ invS.eng.icInvBusy = true ∧
      invS.eng.xlInvBusy = true ∧ accessesOut invS invS.eng.xlInvLease.toNat = false := by decide +kernel

theorem test_invalidation :
    (after (.ksIcacheInv 3) base).eng.icInvBusy = true ∧ readReg (after (.ksIcacheInv 3) base) .span 0x48 = 0x80000003 ∧
      (after .icacheInvDone invS).eng.icInvBusy = false ∧ (after .icacheInvDone invS).eng.xlInvBusy = true := by decide +kernel

/-- A register request from a host's endpoint, or from endpoint 2, to the span's. -/
def mgP (typ : Nat) (host : Bool) (ws : List Word) : Packet :=
  { mkPacket typ 0x110101 (if host then 0x130108 else 0x130102) 1 6 0 (wordBytes ws) with ttl := 9 }

theorem witness_HostAccess_RegisterWrites :
    base.eng.fuseDone = true ∧ base.eng.scrubDone = true ∧ base.lease.gen.pending = false ∧
      (let s := { base with lease := { base.lease with gen := dueReg } }
       s.eng.fuseDone = true ∧ s.eng.scrubDone = true ∧ s.lease.gen.pending = true) ∧
      State.reset.eng.scrubDone = false ∧ (0x48 : BitVec 32).toNat ≠ 0x20 ∧ (0x48 : BitVec 32).toNat ≠ 0x38 ∧
      unlisted .span (0x200000 : BitVec 32).toNat = true ∧ unlisted .span (0x1FF8 : BitVec 32).toNat = true ∧
      unlisted .pier (0x20008 : BitVec 32).toNat = true ∧ unlisted .abut (0xFFF8 : BitVec 32).toNat = true := by decide +kernel

/-- The parts of a request's premises. -/
def asksPart (s : State) (part : Part) (pk : Packet) : Bool :=
  partRuns s part && addressed s && isOwn s pk.dest && decide (epOf pk.dest = partEp part) && (dedupHit s pk).isNone &&
    s.eng.fuseDone && !s.eng.startFail

/-- Two registers asked for at once. -/
def two : Packet := mgP 0x11 true [0x0000000100000048]
def failedS : State := { fab id with eng := { (fab id).eng with startFail := true } }
def oneJob (pk : Packet) : MgJob := { mgJob (fab id) .span pk false with todo := [(0x48, 0)] }

theorem witness_HostAccess_ManagementRequests :
    (∀ pk ∈ [mgP 0x11 true [0x48], two, mgP 0x11 true [0x4C], mgP 0x12 true [0x4C, 3], mgP 0x12 true [0x48, 3], mgP 0x11 false [0x48],
        mgP 0x12 false [0x48, 3]],
      asksPart (fab id) .span pk = true) ∧ (fab id).eng.mgmt = [] ∧
      8 ≤ epOf two.src ∧ mgBad two = false ∧ mgCount two = 2 ∧ mgCount (mgP 0x11 true [0x48]) = 1 ∧ mgBad (mgP 0x11 true [0x48]) = false ∧
      mgBad (mgP 0x11 true [0x4C]) = true ∧ mgBad (mgP 0x12 true [0x4C, 3]) = true ∧
      (let s := { fab id with eng := { (fab id).eng with scrubDone := false } }
       asksPart s .span (mgP 0x12 true [0x48, 3]) = true ∧ (mgAddrs (mgP 0x12 true [0x48, 3])).all (writeReady s .span) = false) ∧
      epOf (mgP 0x11 false [0x48]).src < 8 ∧ mgBad (mgP 0x12 true [0x48, 3]) = false ∧ mgCount (mgP 0x12 true [0x48, 3]) = 1 ∧
      writeReady (fab id) .span (mgAddr (mgP 0x12 true [0x48, 3])) = true := by decide +kernel

theorem witness_HostAccess_ManagementRequests_waits :
    (let s := { fab id with eng := { (fab id).eng with mgmt := [oneJob (mgP 0x11 true [0x48])] } }
     asksPart s .span two = true ∧ s.eng.mgmt.any (fun j => j.part == .span) = true ∧ two.typ = 0x11 ∧
       s.eng.mgmt = oneJob (mgP 0x11 true [0x48]) :: [] ∧ (oneJob (mgP 0x11 true [0x48])).part = .span ∧
       (oneJob (mgP 0x11 true [0x48])).directed = false ∧ (oneJob (mgP 0x11 true [0x48])).status = 0 ∧
       (oneJob (mgP 0x11 true [0x48])).todo = [(0x48, 0)]) ∧
      failedS.eng.startFail = true ∧ isOwn failedS (mgP 0x11 true [0x48]).src = false ∧ partRuns failedS .span = true ∧
      addressed failedS = true ∧ isOwn failedS two.dest = true ∧ epOf two.dest = partEp .span ∧ dedupHit failedS two = none ∧
      failedS.eng.fuseDone = true := by decide +kernel

theorem witness_HostAccess_ManagementRequests_directed :
    portUp (fab id) 3 = true ∧ portUp (fab id) 0 = true ∧ partRuns (fab id) .abut = true ∧ portLooped (fab id) 3 = false ∧ (fab id).eng.startFail = false ∧ badHeader (mgP 0x15 true [0x0001000000000003, 0]) = false ∧
      1 < (mgP 0x15 true [0x0001000000000003, 0]).ttl.toNat ∧ (mgP 0x15 true [0x0001000000000003, 0]).typ = 0x15 ∧
      badHeader (mgP 0x15 true [0, 0]) = false ∧
      directedHit { (fab id) with eng := { (fab id).eng with fuseDone := false } } (mgP 0x15 true [0, 0]) = none ∧
      portUp { (fab id) with eng := { (fab id).eng with fuseDone := false } } 3 = true ∧ bits (payloadWord (mgP 0x15 true [0x0001000000000003, 0]) 0) 51 48 ≠ 0 ∧
      bits (payloadWord (mgP 0x15 true [0x0001000000000003, 0]) 0) 3 0 = 3 ∧ 1 < (mgP 0x15 true [0, 0]).ttl.toNat ∧
      (mgP 0x15 true [0, 0]).typ = 0x15 ∧ bits (payloadWord (mgP 0x15 true [0, 0]) 0) 51 48 = 0 ∧
      ({ (fab id) with eng := { (fab id).eng with fuseDone := false } }).eng.fuseDone = false := by decide +kernel

theorem test_management :
    (after (.mgmtWrite .span (mgP 0x12 true [0x48, 3])) (fab id)).eng.icInvBusy = true ∧
      (after (.mgmtWrite .span (mgP 0x12 false [0x48, 3])) (fab id)).eng.icInvBusy = false ∧
      Tab.get 0 (after (.registerWrite .span 0x2020 0x5000) base).lease.shadow 4 = 0x5000 := by decide +kernel

/-! ## The block as a whole -/

theorem witness_StepRunsFrontCommand : base.pending = [] := rfl

theorem witness_MemoryStaysCanonical : Memory.wf base.mem = true ∧ ∃ v, step { base with pending := [.bypass .span] } = .next v :=
  ⟨by decide +kernel, _, rfl⟩

theorem witness_CountersStayBounded : CountersBounded base ∧ ∃ v, step { base with pending := [.bypass .span] } = .next v :=
  ⟨fun _ => rfl, _, rfl⟩

theorem witness_NumbersStayFresh : NumbersFresh base ∧ ∃ v, step { base with pending := [.bypass .span] } = .next v :=
  ⟨⟨fun _ h => absurd h List.not_mem_nil, fun _ h => absurd h List.not_mem_nil, fun _ h => absurd h List.not_mem_nil⟩, _, rfl⟩

/-! ## Ill-formed commands are refused by `Instr.wf`, and a well-formed one is not -/

/-- A packet whose LEN says one byte more than it carries. -/
def shortP : Packet := { farP with len := farP.len + 1 }

theorem smoke_packet : (Instr.write farP).wf = true ∧ (Instr.write shortP).wf = false ∧ (Instr.writeAck shortP).wf = false ∧
    (Instr.read shortP).wf = false ∧ (Instr.readResp shortP).wf = false ∧ (Instr.signal shortP).wf = false ∧
    (Instr.signalAck shortP).wf = false ∧ (Instr.event shortP).wf = false ∧ (Instr.eventAck shortP).wf = false ∧
    (Instr.updResp shortP).wf = false ∧ (Instr.mcData 3 shortP).wf = false ∧ (Instr.mcAck 3 shortP).wf = false ∧
    (Instr.missed 3 shortP).wf = false ∧ (Instr.unreachable shortP).wf = false ∧ (Instr.mgmtRead .span shortP).wf = false ∧
    (Instr.mgmtWrite .span shortP).wf = false ∧ (Instr.mgmtResp shortP).wf = false ∧ (Instr.directed 3 shortP).wf = false ∧
    (Instr.routerForward 5 shortP).wf = false ∧ (Instr.ident (.abut 3) shortP).wf = false ∧ (Instr.chainChunk shortP).wf = false ∧
    (Instr.chainCredit shortP).wf = false ∧ (Instr.pierChunkStage shortP).wf = false := by decide +kernel

theorem smoke_flit : (Instr.flitReceive (.abut 3) 0 ⟨[], 0⟩).wf = false ∧
    (Instr.flitReceive (.abut 3) 16 ⟨List.replicate 504 0, 0⟩).wf = false ∧
    (Instr.flitReceive (.abut 3) 0 ⟨List.replicate 504 0, 0⟩).wf = true := by decide +kernel

theorem smoke_frame : (Instr.ethFrame 6 { frame true with flits := [⟨[], 0⟩] }).wf = false := by decide +kernel

/-- A read burst of a page. -/
def burst0 : ReadBurst := ⟨0x8000, 512, 0, false, 0⟩

theorem smoke_bursts : (Instr.pierReadBurst { burst0 with len := 0 }).wf = false ∧ (Instr.pierReadBurst { burst0 with addr := 500 }).wf = false ∧
    (Instr.pierReadBurst burst0).wf = true ∧ (Instr.pierWrite 0 [1, 2] [true]).wf = false ∧ (Instr.pierWrite 511 [1, 2] [true, true]).wf = false ∧
    (Instr.pierWrite 0 [] []).wf = false := by decide +kernel

theorem smoke_modules : (Instr.trainingDone (.abut 3) [(16, tr true)]).wf = false ∧
    (Instr.trainingDone (.abut 3) [(1, tr true), (1, tr false)]).wf = false ∧ (Instr.trainingDone (.abut 3) [(1, tr true)]).wf = true ∧
    (Instr.moduleRetrainDone .span 16 (tr true)).wf = false ∧ (Instr.kaTxReadyFall .span 16).wf = false := by decide +kernel

theorem smoke_readings : (Instr.tempReading [(32, 5, true)]).wf = false ∧ (Instr.tempReading [(3, 5, true), (3, 6, true)]).wf = false ∧
    (Instr.perfWrap 3 0 srcNone).wf = false ∧ (Instr.perfWrap 3 (2 ^ 25 + 1) srcNone).wf = false := by decide +kernel

theorem smoke_faults : (Instr.bistDone [.row 264]).wf = false ∧ (Instr.bistDone [.row 263]).wf = true ∧
    (Instr.storeBankFail true 64 []).wf = false ∧ (Instr.storeBankFail false 255 [4095]).wf = true ∧
    (Instr.storeBankFail false 255 [4096]).wf = false ∧ (Instr.storeWordUe true 8192).wf = false ∧
    (Instr.storeWordUe false 4096).wf = false ∧ (Instr.stopDeadline [2 ^ 58]).wf = false ∧
    (Instr.repeatCacheBankFail [(8192, 0)]).wf = false ∧ (Instr.repeatCacheBankFail [(0, 16)]).wf = false := by decide +kernel

theorem smoke_intervals : (Instr.intervalEnd 0 [(1, 2), (1, 2)]).wf = false ∧ (Instr.intervalEnd 0 [(1, 2), (1, 3)]).wf = true := by decide

end Sys2Proof.Tests
end

section
/-! PROOFS. A cut of THREAD_LIMIT (R358): it closes a lease to new placements, and neither the commit that brings it nor a
placement that finds it touches a thread in use. -/

namespace Sys2Proof.Machine

/-! ## Folds that touch no thread -/

/-- A fold whose every step leaves the threads alone. -/
theorem foldl_thr {β : Type} (f : State → β → State) (h : ∀ s b, (f s b).thr = s.thr) (l : List β) (s : State) :
    (l.foldl f s).thr = s.thr :=
  List.foldlRecOn (motive := fun u => u.thr = s.thr) l f rfl (fun u hu b _ => (h u b).trans hu)

theorem farReads_thr (s : State) (c : Acc) (rs : List (Nat × Nat)) : (farReads s c rs).thr = s.thr :=
  foldl_thr _ (fun u _ => (farRead_requests u c _ _).thr) rs s

theorem farTakes_thr (s : State) (l : Nat) (rs : List (Nat × Nat)) : (farTakes s l rs).thr = s.thr :=
  foldl_thr _ (fun u _ => (farTake_requests u l _ _).thr) rs s

/-! ## The lease commit -/

theorem takeTables_thr (s n : State) (l : Nat) (t : State) : (takeTables s n l t).thr = t.thr := by
  unfold takeTables
  split <;> rfl

/-- A lease commit, taken or refused, leaves every thread as it was. -/
theorem commitLease_thr (s : State) : (commitLease s).thr = s.thr := by
  unfold commitLease
  split
  · exact (engineReport_only _ _ _ _).thr
  · exact foldl_thr _ (fun t l => takeTables_thr s (withShadow s) l t) _ (withShadow s)

/-- LEASE_COMMIT_TAKE leaves every thread as it was. -/
theorem exec_leaseCommitTake_thr (s : State) : ∃ u, exec .leaseCommitTake s = .next u ∧ u.thr = s.thr := by
  refine ⟨_, rfl, ?_⟩
  split
  · rfl
  · dsimp only
    split
    · exact foldl_thr _ (fun t l => farReads_thr t _ _) _ s
    · exact (foldl_thr _ (fun t l => farTakes_thr t l _) _ _).trans (commitLease_thr s)

/-! ## Candidates -/

theorem candidate_iff (s : State) (l k : Nat) :
    candidate s l k = true ↔ ∃ e, (getRt s l).tasks[k]? = some e ∧ e.enable = true ∧ taskLive s l k = false ∧
      lstate s l = .resident ∧ (getRt s l).saving = false ∧ threadsHeld s l < threadLimit s l ∧
      e.amount.toNat ≤ avail (getCnt s e.cnt.toNat) := by
  unfold candidate
  cases (getRt s l).tasks[k]? with
  | none => simp
  | some e => simp [and_assoc]

theorem candidate_of_nextCandidate {s : State} {l k : Nat} (h : nextCandidate s = some (l, k)) : candidate s l k = true := by
  obtain ⟨j, -, hj⟩ := List.exists_of_findSome?_eq_some h
  obtain ⟨i, hi, hji⟩ := Option.map_eq_some_iff.1 hj
  obtain ⟨rfl, rfl⟩ := Prod.mk.inj hji
  exact List.find?_some hi

/-- A lease that is chosen for a placement holds fewer threads than its THREAD_LIMIT. -/
theorem threadsHeld_lt_of_nextCandidate {s : State} {l k : Nat} (h : nextCandidate s = some (l, k)) :
    threadsHeld s l < threadLimit s l := by
  obtain ⟨-, -, -, -, -, -, hlt, -⟩ := (candidate_iff s l k).1 (candidate_of_nextCandidate h)
  exact hlt

/-! ## The lease of a thread through its fetch -/

theorem getThr_codeXlate (s : State) (t k : ThreadId) (va : Word) (w : Half) :
    getThr (codeXlate s t va w).2 k = getThr s k := by
  simp only [getThr, (codeXlate_spec s t va w).2]

theorem getThr_event (s : State) (ev inc : Nat) (src : SampleSrc) (k : ThreadId) :
    getThr (event s ev inc src) k = getThr s k := (event_only s ev inc src).getThr k

theorem preciseFault_lease (s : State) (t : ThreadId) (c : Byte) (d0 d1 : Word) (w : Half) :
    (getThr (preciseFault s t c d0 d1 w) t).lease = (getThr s t).lease := by
  rw [(preciseFault_spec s t c d0 d1 w).1]
  rfl

theorem waiting_lease (x : Thread) (r : WaitReason) : (waiting x r).lease = x.lease := rfl

/-- A thread that fetches stays of its lease, whether it goes on, waits or faults. -/
theorem fetchNext_lease (s : State) (t : ThreadId) : (getThr (fetchNext s t) t).lease = (getThr s t).lease := by
  unfold fetchNext
  dsimp only
  split
  · rfl
  · split
    · split_ifs <;>
        simp only [getThr_setThr, if_true, getThr_event, getThr_codeXlate, preciseFault_lease, waiting_lease]
    · simp only [getThr_event, getThr_setThr, if_true, waiting_lease]

/-! ## Placement -/

theorem wrReg_lease (x : Thread) (r : BitVec 5) (v : Word) : (wrReg x r v).lease = x.lease := by
  unfold wrReg
  split <;> rfl

theorem taskThread_lease (e : Task) (l k inst : Nat) (refused : Bool) : (taskThread e l k inst refused).lease = l :=
  List.foldlRecOn (motive := fun x => x.lease = l) [0, 1, 2, 3] _ rfl (fun x hx _ _ => (wrReg_lease x _ _).trans hx)

theorem unitTake_thr (s : State) (n : Nat) (a : Word) : (unitTake s n a).thr = s.thr := by
  unfold unitTake
  split <;> rfl

/-- A record put in place and its fetch touch one thread, which is then of the record's lease. -/
theorem fetchNext_setThr_getThr (s : State) (t i : ThreadId) (x : Thread) :
    getThr (fetchNext (setThr s t x) t) i = getThr s i ∨ (i = t ∧ (getThr (fetchNext (setThr s t x) t) i).lease = x.lease) := by
  by_cases hi : i = t
  · subst hi
    exact .inr ⟨rfl, by rw [fetchNext_lease, getThr_setThr, if_pos rfl]⟩
  · obtain ⟨-, -, -, -, -, hother, -⟩ := fetchNext_spec (setThr s t x) t
    exact .inl (by rw [hother i hi, getThr_setThr, if_neg hi])

/-- A placement touches one thread, which is then of the lease that it serves. -/
theorem placeTask_getThr (s : State) (l k : Nat) (t i : ThreadId) :
    getThr (placeTask s l k t) i = getThr s i ∨ (i = t ∧ (getThr (placeTask s l k t) i).lease = l) := by
  unfold placeTask
  split
  · exact .inl rfl
  · next e _ =>
    have hthr := unitTake_thr s e.cnt.toNat (e.amount.setWidth 64)
    refine (fetchNext_setThr_getThr _ t i _).imp (fun h => h.trans ?_) (fun ⟨hi, h⟩ => ⟨hi, h.trans (taskThread_lease ..)⟩)
    simp only [getThr, serve, setRt_thr, hthr]

theorem freeThread_st {s : State} {t : ThreadId} (h : freeThread s t = true) : (getThr s t).st = .free := by
  unfold freeThread at h
  simp only [Bool.and_eq_true, decide_eq_true_eq] at h
  exact h.1

/-- Where no saved frame is restored, TASK_PLACEMENT leaves each thread as it was, or has placed a task on one that was FREE, for a
lease that held fewer threads than its THREAD_LIMIT. -/
theorem exec_taskPlacement_getThr (s : State) (h : (waitingFrames s).bind (restoreFrame s) = none) :
    ∃ u, exec .taskPlacement s = .next u ∧ ∀ t, getThr u t = getThr s t ∨
      ((getThr s t).st = .free ∧ threadsHeld s (getThr u t).lease < threadLimit s (getThr u t).lease) := by
  refine ⟨_, rfl, fun t => ?_⟩
  split
  · exact .inl rfl
  · rw [h]
    dsimp only
    split
    · next l k t' hcand hfree =>
      refine (placeTask_getThr s l k t' t).imp_right (fun ⟨ht, hl⟩ => ?_)
      subst ht
      exact ⟨freeThread_st (List.find?_some hfree), by rw [hl]; exact threadsHeld_lt_of_nextCandidate hcand⟩
    · exact .inl rfl

/-! ## The statement -/

/-- Settles O59: a lease that a placement serves holds fewer threads than its limit, a placement writes a FREE thread only, and the
commit writes none. -/
theorem threadLimitCut : Obligations.ThreadLimitCut := by
  unfold Obligations.ThreadLimitCut
  refine fun s l => ⟨fun hfull => ⟨fun k hk => ?_, fun hrestore => ?_⟩, fun k e hlt he hen hlive hst hsave havail => ?_,
    exec_leaseCommitTake_thr s⟩
  · exact absurd (threadsHeld_lt_of_nextCandidate hk) (Nat.not_lt.2 hfull)
  · obtain ⟨u, hu, hthr⟩ := exec_taskPlacement_getThr s hrestore
    refine ⟨u, hu, fun t => (hthr t).imp_right (fun ⟨hfree, hlt⟩ => ⟨hfree, ?_⟩)⟩
    rintro rfl
    exact absurd hlt (Nat.not_lt.2 hfull)
  · exact (candidate_iff s l k).2 ⟨e, he, hen, hlive, hst, hsave, hlt, havail⟩

end Sys2Proof.Machine
end

section
/-! PROOFS. A reading at or above TEMP_TRIP (R398): it only marks its sensor; the reading that follows stops the engine set in
order with MON_TRIP, or sends MON_TEMP_HOT. -/

namespace Sys2Proof.Machine

/-! ## The report queue only grows (R205) -/

theorem queueReport_repQ (s : State) (r : Report) :
    (queueReport s r).repQ = if s.repQ.length < 16 then s.repQ ++ [r] else s.repQ := by
  unfold queueReport
  split
  · rfl
  · dsimp only
    split <;> rfl

theorem repQ_prefix_queueReport (s : State) (r : Report) : s.repQ <+: (queueReport s r).repQ := by
  rw [queueReport_repQ]
  split
  · exact List.prefix_append _ _
  · exact List.prefix_rfl

theorem repQ_prefix_engineReport (s : State) (cause : Byte) (d0 d1 : Word) : s.repQ <+: (engineReport s cause d0 d1).repQ :=
  repQ_prefix_queueReport { s with engSeq := s.engSeq + 1 } _

theorem repQ_prefix_sendSample (s : State) (n : Nat) (src : SampleSrc) : s.repQ <+: (sendSample s n src).repQ := by
  unfold sendSample
  dsimp only
  split
  · exact List.prefix_rfl
  · split
    · exact repQ_prefix_queueReport (setRt s _ _) _
    · exact repQ_prefix_queueReport { s with engSeq := s.engSeq + 1 } _

/-- A performance counter's wrap, before any sample, sends no report. -/
theorem perfWrap_repQ (s : State) (a v b w : Nat) (p : PerfUnit) :
    (hwSet { hwAdd s .span a v with perf := p } .span b w).repQ = s.repQ := rfl

theorem repQ_prefix_perfAdd (s : State) (n inc : Nat) (src : SampleSrc) : s.repQ <+: (perfAdd s n inc src).repQ := by
  unfold perfAdd
  dsimp only
  split
  · exact List.prefix_rfl
  · split
    · refine List.IsPrefix.trans ?_ (repQ_prefix_sendSample _ n src)
      rw [perfWrap_repQ]
    · rw [perfWrap_repQ]

theorem repQ_prefix_event (s : State) (ev inc : Nat) (src : SampleSrc) : s.repQ <+: (event s ev inc src).repQ := by
  unfold event
  split
  · exact List.prefix_rfl
  · refine List.foldlRecOn (motive := fun u : State => s.repQ <+: u.repQ) s.perf.ctl _ List.prefix_rfl (fun u hu kc _ => ?_)
    split
    · exact hu.trans (repQ_prefix_perfAdd u kc.1 inc src)
    · exact hu

/-- An engine-set report that finds room stands in the queue behind what was there. -/
theorem engineReport_repQ_of_lt {s : State} (cause : Byte) (d0 d1 : Word) (h : s.repQ.length < 16) :
    ∃ r : Report, (engineReport s cause d0 d1).repQ = s.repQ ++ [r] ∧ r.cause = cause ∧ r.engine = true ∧ r.detail0 = d0 ∧
      r.detail1 = d1 :=
  ⟨_, (queueReport_repQ _ _).trans (if_pos h), rfl, rfl, rfl, rfl⟩

theorem engineReport_repQ_length_le (s : State) (cause : Byte) (d0 d1 : Word) :
    (engineReport s cause d0 d1).repQ.length ≤ s.repQ.length + 1 := by
  unfold engineReport
  rw [queueReport_repQ]
  split <;> simp

/-- An engine-set report that finds room is among those that a later state has beyond an earlier state's. -/
theorem exists_mem_drop_of_engineReport {s u v : State} {cause : Byte} {d0 d1 : Word} (hsu : s.repQ <+: u.repQ)
    (hroom : u.repQ.length < 16) (huv : (engineReport u cause d0 d1).repQ <+: v.repQ) :
    ∃ r ∈ v.repQ.drop s.repQ.length, r.cause = cause ∧ r.engine = true ∧ r.detail0 = d0 ∧ r.detail1 = d1 := by
  obtain ⟨r, hq, hr⟩ := engineReport_repQ_of_lt cause d0 d1 hroom
  refine ⟨r, (huv.drop s.repQ.length).subset ?_, hr⟩
  rw [hq, List.drop_append_of_le_length hsu.length_le]
  exact List.mem_append_right _ (List.mem_singleton_self r)

/-! ## The start of an orderly stop (R416, R417) -/

/-- A fault stop changes the array alone, beside reports and counts, and loses no report of the queue. -/
theorem faultStop_spec (s : State) :
    ∃ (u : State) (a : ArrayUnit), faultStop s = { u with arr := a } ∧ ReportsOnly s u ∧ s.repQ <+: u.repQ := by
  unfold faultStop
  split
  · exact ⟨s, s.arr, rfl, ReportsOnly.refl s, List.prefix_rfl⟩
  · next r _ => exact ⟨settleWasted s r (faulted r), _, rfl, event_only .., repQ_prefix_event ..⟩

/-- An orderly stop that starts: STOPPING with its reason, and no report of the queue lost. -/
theorem startStop_spec {s : State} (h : stopping s = false) (reason : Byte) (detail : Word) :
    (startStop s reason detail).eng.mode = 2 ∧ (startStop s reason detail).eng.stopReason = reason ∧
      s.repQ <+: (startStop s reason detail).repQ := by
  unfold startStop
  rw [if_neg (by simp [h])]
  extract_lets _ s₁
  obtain ⟨u, a, hu, honly, hpre⟩ := faultStop_spec s₁
  have hrep := engineReport_only (faultStop s₁) 0x68 (reason.setWidth 64) detail
  rw [hrep.eng_mode, hrep.eng_stopReason]
  refine ⟨?_, ?_, ?_⟩
  · rw [hu]
    exact honly.eng_mode
  · rw [hu]
    exact honly.eng_stopReason
  · refine List.IsPrefix.trans ?_ (repQ_prefix_engineReport ..)
    rw [hu]
    exact hpre

/-! ## A sensor takes its reading (R396) -/

/-- Reports and counts only differ also of two states whose monitors are replaced by the same ones. -/
theorem ReportsOnly.withMon {s u : State} (h : ReportsOnly s u) (m : MonUnit) :
    ReportsOnly { s with mon := m } { u with mon := m } :=
  ⟨congrArg (fun x : State => { x with mon := m }) h.1, h.2⟩

/-- Beside reports and counts, a reading changes the table of the sensors' readings alone; it sends one report at most. -/
theorem tempStore_spec (s : State) (k : Nat) (code : BitVec 10) (ok : Bool) :
    ∃ x : Tab Temp, ReportsOnly { s with mon := { s.mon with temp := x } } (tempStore s k code ok) ∧
      s.repQ <+: (tempStore s k code ok).repQ ∧ (tempStore s k code ok).repQ.length ≤ s.repQ.length + 1 := by
  unfold tempStore
  split
  · exact ⟨s.mon.temp, ReportsOnly.refl s, List.prefix_rfl, Nat.le_succ _⟩
  · extract_lets _ x valid hot s₁ s₂ s₃ _
    have h₂ : ReportsOnly s₁ s₂ ∧ s₂.repQ = s.repQ := by
      unfold s₂
      split
      · exact ⟨hwSet_only .., rfl⟩
      · exact ⟨ReportsOnly.refl _, rfl⟩
    have h₃ : ReportsOnly s₂ s₃ ∧ s₂.repQ <+: s₃.repQ ∧ s₃.repQ.length ≤ s₂.repQ.length + 1 := by
      unfold s₃
      split
      · exact ⟨ReportsOnly.refl _, List.prefix_rfl, Nat.le_succ _⟩
      · exact ⟨engineReport_only .., repQ_prefix_engineReport .., engineReport_repQ_length_le ..⟩
    obtain ⟨honly₂, hq⟩ := h₂
    obtain ⟨honly₃, hpre, hlen⟩ := h₃
    rw [hq] at hpre hlen
    refine ⟨_, (honly₂.trans honly₃).trans ?_, ?_⟩
    · split
      · exact perf_only s₃ _
      · exact ReportsOnly.refl s₃
    · split <;> exact ⟨hpre, hlen⟩

/-! ## A reading against TEMP_TRIP (R398) -/

theorem tempValid_iff (code : BitVec 10) (ok : Bool) :
    tempValid code ok = true ↔ ok = true ∧ code ≠ 0 ∧ code ≠ 1023 := by
  simp [tempValid, and_assoc]

theorem exec_tempReading_singleton {s : State} (h : s.eng.fuseDone = true) (k : Nat) (code : BitVec 10) (ok : Bool) :
    exec (.tempReading [(k, code, ok)]) s = .next (tempTrip (tempStore s k code ok) k code ok) :=
  congrArg Host.Outcome.next (if_pos h)

/-- The state without a sensor's mark, which the reading after a first one at TEMP_TRIP takes away (`secondReading`). -/
def unmarked (s : State) (k : Nat) : State :=
  { s with mon := { s.mon with tripPend := s.mon.tripPend &&& ~~~((1 : Half) <<< k) } }

section Reading
variable {s : State} {k : Nat} {code : BitVec 10} {ok : Bool} (hk : k < 32) (hvalid : tempValid code ok = true)
include hk hvalid

/-- The first reading at or above TEMP_TRIP only marks its sensor. -/
theorem tempTrip_first (hpend : s.mon.tripPend.getLsbD k = false) (hc : s.mon.tempTrip.toNat ≤ code.toNat) :
    tempTrip s k code ok = { s with mon := { s.mon with tripPend := s.mon.tripPend ||| ((1 : Half) <<< k) } } := by
  simp [tempTrip, Nat.not_le.2 hk, hpend, hvalid, hc]

/-- A second reading at or above TEMP_TRIP confirms the first: MON_TRIP, THERMTRIP_N and an orderly stop. -/
theorem tempTrip_confirmed (hpend : s.mon.tripPend.getLsbD k = true) (hc : s.mon.tempTrip.toNat ≤ code.toNat) :
    tempTrip s k code ok =
      let u := engineReport (unmarked s k) 0x52 (BitVec.ofNat 64 k) (code.setWidth 64)
      startStop { u with pins := { u.pins with thermtripN := false } } 6 (BitVec.ofNat 64 k) := by
  simp [tempTrip, secondReading, unmarked, Nat.not_le.2 hk, hpend, hvalid, hc]

/-- A second reading below TEMP_TRIP is only reported. -/
theorem tempTrip_unconfirmed (hpend : s.mon.tripPend.getLsbD k = true) (hc : code.toNat < s.mon.tempTrip.toNat) :
    ∃ sensor : Word, tempTrip s k code ok = engineReport (unmarked s k) 0x51 sensor 1 := by
  refine ⟨BitVec.ofNat 64 (((hottest (unmarked s k)).map (·.1)).getD k), ?_⟩
  simp [tempTrip, secondReading, unmarked, Nat.not_le.2 hk, hpend, hvalid, Nat.not_le.2 hc]

end Reading

/-! ## The statement -/

/-- Settles O60: the sensor's table entry and the report of a new VALID come first, and leave TEMP_TRIP, the marks and the room for
one report as they were; then one of the three readings above applies. -/
theorem tempTrip_holds : Obligations.TempTrip := by
  unfold Obligations.TempTrip
  intro s k c hfuse hk hc0 hc1023
  have hvalid : tempValid c true = true := (tempValid_iff c true).2 ⟨rfl, hc0, hc1023⟩
  obtain ⟨x, honly, hpre, hlen⟩ := tempStore_spec s k c true
  rw [exec_tempReading_singleton hfuse]
  generalize tempStore s k c true = u at honly hpre hlen ⊢
  have hpend : u.mon.tripPend = s.mon.tripPend := by rw [honly.mon]
  have htrip : u.mon.tempTrip = s.mon.tempTrip := by rw [honly.mon]
  rw [← htrip, ← hpend]
  refine ⟨fun hc hk0 => ⟨_, rfl, ?_⟩, fun hc hk1 hrun => ⟨_, rfl, ?_⟩, fun hc hk1 => ⟨_, rfl, ?_⟩⟩
  · rw [tempTrip_first hk hvalid hk0 hc]
    exact ⟨rfl, honly.eng_mode, honly.pins⟩
  · rw [tempTrip_confirmed hk hvalid hk1 hc]
    extract_lets w _
    have hw : ReportsOnly (unmarked u k) w := engineReport_only ..
    have hrun' : stopping w = false := hw.stopping.trans (honly.stopping.trans hrun)
    obtain ⟨hmode, hreason, hq⟩ :=
      startStop_spec (s := { w with pins := { w.pins with thermtripN := false } }) hrun' 6 (BitVec.ofNat 64 k)
    exact ⟨hmode, hreason, fun hroom =>
      exists_mem_drop_of_engineReport (u := unmarked u k) hpre (show u.repQ.length < 16 by omega) hq⟩
  · obtain ⟨sensor, hv⟩ := tempTrip_unconfirmed hk hvalid hk1 hc
    rw [hv]
    have hrep := engineReport_only (unmarked u k) 0x51 sensor 1
    refine ⟨?_, ?_, fun hroom => ?_⟩
    · rw [hrep.mon]
      exact (honly.withMon (unmarked u k).mon).trans hrep
    · rw [hrep.mon, unmarked, honly.mon]
    · obtain ⟨r, hr, hcause, heng, -, hd1⟩ :=
        exists_mem_drop_of_engineReport (u := unmarked u k) hpre (show u.repQ.length < 16 by omega) List.prefix_rfl
      exact ⟨r, hr, hcause, heng, hd1⟩

end Sys2Proof.Machine
end

section
/-! PROOFS. The invalidations of KS_ICACHE_INV and XLATE_INV (R189, R374, R458): a write takes a lease only while BUSY is 0, and
the end takes that lease's lines, or its translations, out of every core. -/

namespace Sys2Proof.Machine

/-! ## The same change of every keystone core -/

/-- The state with the first n keystone cores changed, each by f. -/
def mapCores (f : Core → Core) (n : Nat) (s : State) : State :=
  (List.range n).foldl (fun u c => setCore u c (f (getCore u c))) s

theorem mapCores_succ (f : Core → Core) (n : Nat) (s : State) :
    mapCores f (n + 1) s = setCore (mapCores f n s) n (f (getCore (mapCores f n s) n)) := by
  simp [mapCores, List.range_succ]

/-- Nothing but the cores is changed. -/
theorem mapCores_eq (f : Core → Core) (n : Nat) (s : State) : mapCores f n s = { s with core := (mapCores f n s).core } := by
  induction n with
  | zero => rfl
  | succ n ih =>
    rw [mapCores_succ, ih]
    rfl

theorem getCore_mapCores (f : Core → Core) (n j : Nat) (s : State) :
    getCore (mapCores f n s) j = if j < n then f (getCore s j) else getCore s j := by
  induction n generalizing j with
  | zero => rfl
  | succ n ih =>
    rw [mapCores_succ, getCore_setCore]
    obtain h | h | h := Nat.lt_trichotomy j n
    · simp [ih, h, h.ne, Nat.lt_succ_of_lt h]
    · simp [ih, h]
    · simp [ih, h.ne', Nat.not_lt.2 h.le, Nat.not_lt.2 (Nat.succ_le_of_lt h)]

/-! ## What the two registers read (R458) -/

theorem busyLease_toNat (b : Bool) (l : BitVec 4) :
    (packWord [(31, b.toNat), (0, l.toNat)]).toNat = 2 ^ 31 * b.toNat + l.toNat := by
  have hsum : sumL [b.toNat * 2 ^ 31, l.toNat * 2 ^ 0] = 2 ^ 31 * b.toNat + l.toNat := by
    rw [Nat.mul_comm (2 ^ 31)]
    simp [sumL]
  have hlt : 2 ^ 31 * b.toNat + l.toNat < 2 ^ 64 := by
    have := l.isLt
    have := b.toNat_le
    omega
  rw [packWord, BitVec.toNat_ofNat, List.map_cons, List.map_cons, List.map_nil, hsum, Nat.mod_eq_of_lt hlt]

/-- BUSY is bit 31 and LEASE is bits 3 to 0. -/
theorem busyLease_fields (b : Bool) (l : BitVec 4) :
    (packWord [(31, b.toNat), (0, l.toNat)]).getLsbD 31 = b ∧ fld (packWord [(31, b.toNat), (0, l.toNat)]) 0 4 = l := by
  have := l.isLt
  constructor
  · rw [BitVec.getLsbD, busyLease_toNat, Nat.testBit_two_pow_mul_add _ (by omega)]
    cases b <;> simp
  · apply BitVec.eq_of_toNat_eq
    rw [fld, BitVec.extractLsb'_toNat, busyLease_toNat, Nat.shiftRight_eq_div_pow]
    omega

/-- Both registers read their lease and whether they are busy (R458). -/
theorem readReg_invalidations (s : State) :
    readReg s .span 0x48 = packWord [(31, s.eng.icInvBusy.toNat), (0, s.eng.icInvLease.toNat)] ∧
      readReg s .span 0x50 = packWord [(31, s.eng.xlInvBusy.toNat), (0, s.eng.xlInvLease.toNat)] := ⟨rfl, rfl⟩

/-! ## Writes (R458) -/

theorem exec_ksIcacheInv {s : State} (h : s.eng.scrubDone = true) (v : Word) :
    exec (.ksIcacheInv v) s = .next (icInvWrite s v) :=
  congrArg Host.Outcome.next (if_pos h)

theorem exec_xlateInv {s : State} (h : s.eng.scrubDone = true) (v : Word) :
    exec (.xlateInv v) s = .next (xlInvWrite s v) :=
  congrArg Host.Outcome.next (if_pos h)

theorem icInvWrite_busy {s : State} (h : s.eng.icInvBusy = true) (v : Word) : icInvWrite s v = s := if_pos h

theorem icInvWrite_idle {s : State} (h : s.eng.icInvBusy = false) (v : Word) :
    icInvWrite s v = { s with eng := { s.eng with icInvBusy := true, icInvLease := fld v 0 4 } } :=
  if_neg (Bool.eq_false_iff.1 h)

theorem xlInvWrite_busy {s : State} (h : s.eng.xlInvBusy = true) (v : Word) : xlInvWrite s v = s := if_pos h

theorem xlInvWrite_idle {s : State} (h : s.eng.xlInvBusy = false) (v : Word) :
    xlInvWrite s v = { s with eng := { s.eng with xlInvBusy := true, xlInvLease := fld v 0 4 } } :=
  if_neg (Bool.eq_false_iff.1 h)

/-! ## The ends (R189, R374) -/

/-- A core without the instruction-cache lines of a lease. -/
def dropLines (l : Nat) (k : Core) : Core := { k with icache := k.icache.filter (fun ln => ln.lease != l) }

/-- A core without the translations of a lease. -/
def dropTranslations (l : Nat) (k : Core) : Core :=
  { k with itlb := k.itlb.filter (fun e => e.lease != l), dtlb := k.dtlb.filter (fun e => e.lease != l) }

theorem exec_icacheInvDone {s : State} (h : s.eng.icInvBusy = true) :
    exec .icacheInvDone s =
      let u := mapCores (dropLines s.eng.icInvLease.toNat) 4 s
      .next { u with eng := { u.eng with icInvBusy := false } } :=
  congrArg Host.Outcome.next (if_pos h)

theorem exec_xlateInvDone {s : State} (h : s.eng.xlInvBusy = true) (hout : accessesOut s s.eng.xlInvLease.toNat = false) :
    exec .xlateInvDone s =
      let l := s.eng.xlInvLease.toNat
      let u := mapCores (dropTranslations l) 4 s
      .next { u with xlate := u.xlate.filter (fun e => e.lease != l), eng := { u.eng with xlInvBusy := false } } :=
  congrArg Host.Outcome.next (if_pos ⟨h, by simp [hout]⟩)

theorem all_filter_self {α : Type} (p : α → Bool) (xs : List α) : (xs.filter p).all p = true :=
  List.all_eq_true.2 fun _ => List.of_mem_filter

/-- The end of KS_ICACHE_INV: the lease's lines are gone from all four cores, and BUSY alone of the engine set's registers is
changed. -/
theorem icacheInvDone_spec {s : State} (h : s.eng.icInvBusy = true) :
    ∃ w, exec .icacheInvDone s = .next w ∧ w.eng = { s.eng with icInvBusy := false } ∧
      (∀ c, c < 4 → (getCore w c).icache.all (fun ln => ln.lease != s.eng.icInvLease.toNat) = true) ∧
      w.mem = s.mem ∧ w.cnt = s.cnt := by
  have hcore := fun c => getCore_mapCores (dropLines s.eng.icInvLease.toNat) 4 c s
  have hframe := mapCores_eq (dropLines s.eng.icInvLease.toNat) 4 s
  rw [exec_icacheInvDone h]
  dsimp only
  generalize mapCores (dropLines s.eng.icInvLease.toNat) 4 s = u at hcore hframe ⊢
  refine ⟨_, rfl, ?_, fun c hc => ?_, ?_, ?_⟩
  · rw [hframe]
  · change (getCore u c).icache.all _ = true
    rw [hcore, if_pos hc]
    exact all_filter_self ..
  · rw [hframe]
  · rw [hframe]

/-- The end of XLATE_INV: the lease's translations are gone from all four cores and from the span, and BUSY alone of the engine
set's registers is changed. -/
theorem xlateInvDone_spec {s : State} (h : s.eng.xlInvBusy = true) (hout : accessesOut s s.eng.xlInvLease.toNat = false) :
    ∃ w, exec .xlateInvDone s = .next w ∧ w.eng = { s.eng with xlInvBusy := false } ∧
      (∀ c, c < 4 → (getCore w c).itlb.all (fun e => e.lease != s.eng.xlInvLease.toNat) = true ∧
        (getCore w c).dtlb.all (fun e => e.lease != s.eng.xlInvLease.toNat) = true) ∧
      w.xlate.all (fun e => e.lease != s.eng.xlInvLease.toNat) = true ∧ w.mem = s.mem ∧ w.cnt = s.cnt := by
  have hcore := fun c => getCore_mapCores (dropTranslations s.eng.xlInvLease.toNat) 4 c s
  have hframe := mapCores_eq (dropTranslations s.eng.xlInvLease.toNat) 4 s
  rw [exec_xlateInvDone h hout]
  dsimp only
  generalize mapCores (dropTranslations s.eng.xlInvLease.toNat) 4 s = u at hcore hframe ⊢
  refine ⟨_, rfl, ?_, fun c hc => ?_, all_filter_self .., ?_, ?_⟩
  · rw [hframe]
  · change (getCore u c).itlb.all _ = true ∧ (getCore u c).dtlb.all _ = true
    rw [hcore, if_pos hc]
    exact ⟨all_filter_self .., all_filter_self ..⟩
  · rw [hframe]
  · rw [hframe]

/-! ## The statement -/

/-- Settles O52: the two writes by BUSY, the layout of both reads, and the two ends, each of which changes its own BUSY alone. -/
theorem invalidations : Obligations.Invalidations := by
  unfold Obligations.Invalidations
  refine fun s v => ⟨fun hscrub => ?_, ?_, icacheInvDone_spec, xlateInvDone_spec⟩
  · rw [exec_ksIcacheInv hscrub, exec_xlateInv hscrub]
    exact ⟨fun h => congrArg _ (icInvWrite_busy h v), fun h => congrArg _ (icInvWrite_idle h v),
      fun h => congrArg _ (xlInvWrite_busy h v), fun h => congrArg _ (xlInvWrite_idle h v)⟩
  · obtain ⟨hk, hx⟩ := readReg_invalidations s
    obtain ⟨hkBusy, hkLease⟩ := busyLease_fields s.eng.icInvBusy s.eng.icInvLease
    obtain ⟨hxBusy, hxLease⟩ := busyLease_fields s.eng.xlInvBusy s.eng.xlInvLease
    rw [hk, hx]
    exact ⟨hkBusy, hkLease, hxBusy, hxLease⟩

end Sys2Proof.Machine
end
